-- ==== Sys2Proof/Word.lean ====
section
/-! DEFINITION. The word and byte types of the part (spec/00_scope.md R16, R525 of spec/24_register_summary.md) and
their plainest arithmetic: fields `msb:lsb`, masks, modular numbers. -/

namespace Sys2Proof

/-- A 32-bit panel register, descriptor word or vector lane (R525). -/
abbrev Word := BitVec 32

/-- A byte of a memory. -/
abbrev Byte := BitVec 8

/-- The word with the value `n` modulo 2^32. -/
def wd (n : Nat) : Word := BitVec.ofNat 32 n

/-- Bits `hi:lo` of a number (R16). -/
def bitsOf (n hi lo : Nat) : Nat := (n / 2 ^ lo) % 2 ^ (hi + 1 - lo)

/-- Field `hi:lo` of a word, as a number (R16). -/
def Word.fld (w : Word) (hi lo : Nat) : Nat := bitsOf w.toNat hi lo

/-- Bit `i` of a word. -/
def Word.bit (w : Word) (i : Nat) : Bool := w.toNat.testBit i

/-- The word with field `hi:lo` replaced by `v`. -/
def Word.setFld (w : Word) (hi lo v : Nat) : Word :=
  let k := 2 ^ (hi + 1 - lo)
  wd (w.toNat - (bitsOf w.toNat hi lo) * 2 ^ lo + (v % k) * 2 ^ lo)

/-- The word read as a two's complement number (S32). -/
def Word.s32 (w : Word) : Int := w.toInt

/-- A number of `n` bits read as two's complement. -/
def sext (n v : Nat) : Int := if v % 2 ^ n < 2 ^ (n - 1) then (v % 2 ^ n : Nat) else ((v % 2 ^ n : Nat) : Int) - (2 ^ n : Nat)

/-- An integer modulo 2^n, as a natural number. -/
def wrapN (n : Nat) (i : Int) : Nat := (i % ((2 ^ n : Nat) : Int)).toNat

/-- `(a - b) mod 2^n`. -/
def subMod (n a b : Nat) : Nat := (a + 2 ^ n - b % 2 ^ n) % 2 ^ n

/-- 1 for true, 0 for false. -/
def b2n (b : Bool) : Nat := if b then 1 else 0

/-- Is bit `i` of the number set? -/
def nbit (n i : Nat) : Bool := n.testBit i

/-- Ceiling division. -/
def cdiv (a b : Nat) : Nat := (a + b - 1) / b

/-- `x` held between `lo` and `hi`. -/
def clampI (lo hi x : Int) : Int := if x < lo then lo else if hi < x then hi else x

/-- Floor of the division of an integer by a power of two: the arithmetic right shift. -/
def asr (x : Int) (n : Nat) : Int := x / ((2 ^ n : Nat) : Int)

end Sys2Proof
end

