-- ==== Sys2Proof/Machine/StTiller.lean ====
section
/-! DEFINITION. State of the tillers, the dispatcher, the sync cells and the schedule (spec/02, 09, 11, 12, 13, 14), as
plain data. -/

namespace Sys2Proof.Machine

/-! ## Tillers (R204) -/

/-- Who owns a scoreboard entry (R257). -/
inductive SbOwner where
  | array (id : Nat)
  | stream (slot : Nat)
  | fill
  deriving DecidableEq, Repr

/-- A scoreboard entry (R257): physical bytes `lo` to `hi` (rounded outward to 64), kind and owner. -/
structure SbEntry where
  lo    : Nat
  hi    : Nat
  write : Bool
  owner : SbOwner
  deriving DecidableEq, Repr

/-- What a control core is blocked in (R220 to R222, R277, R317). -/
inductive Blocked where
  | none
  | tpull (mask issue : Nat)
  | tdone
  | tabort
  | mwait
  /-- SWAIT on a cell: mode 0 GE, 1 DATA, 2 CGE; the operand; the result register. SBAR waits in mode 0. -/
  | swait (cell mode arg xd : Nat)
  | fwait (flag : Nat)
  deriving DecidableEq, Repr

/-- A task entry of R333 in a ready list or current on a tiller. -/
structure Posted where
  words  : List Word
  stage  : Nat
  line   : Nat
  golden : Bool
  postC  : Nat
  late   : Bool
  deriving DecidableEq, Repr

/-- One buffer of the transposition tile (R217). -/
structure TBuf where
  elems : List (Nat × Word)
  width : Nat
  rows  : Nat
  cols  : Nat
  full  : Bool
  deriving DecidableEq, Repr

/-- Stream slot states (R281). -/
inductive SlotState where
  | empty | armed | queued | active | done | bad | halted
  deriving DecidableEq, Repr

/-- A far-side unit that a DMA engine has asked for and not yet moved (R292, R293): its number in the descriptor (R298), its
address divided by 64, its first element and the element after its last, and the arbitration points still before it (R297). -/
structure DUnit where
  n     : Nat
  addr  : Nat
  first : Nat
  fin   : Nat
  /-- its last byte begins element `fin`, which the next unit completes -/
  tail  : Bool
  path  : List Nat
  /-- the cycle in which it came to the first of them -/
  since : Nat
  /-- page-table entries, by page, that its translation holds since before an invalidation (R489) -/
  pins  : List (Nat × Word)
  deriving DecidableEq, Repr

/-- A stream slot (R280, R283): the 32 descriptor words, the task windows and context it was armed under, the element
position, the start cycle, and which notifications have been applied. -/
structure StrmSlot where
  state  : SlotState
  cause  : Nat
  desc   : List Word
  awin   : Word
  cwin   : Word
  ctx    : Nat
  pos    : Nat
  startC : Nat
  half   : Bool
  full   : Bool
  chain  : Option Nat
  /-- the units asked for and not yet moved, oldest first; each has its 64 bytes of the staging buffer -/
  asked  : List DUnit
  /-- the element from which the next unit is asked, whether its first byte has been asked for already, and how many units have
  been asked for -/
  askE   : Nat
  askT   : Bool
  askN   : Nat
  /-- the last byte of the glume unit before, where an element begins in it -/
  carry  : Byte
  /-- a packet of the transfer has been sent to another device -/
  began  : Bool
  deriving DecidableEq, Repr

/-- An array operation (R208): its four descriptor words, the stream slots that it names as they were armed at issue
(activation, weight, output, exponent), the physical address of its epilogue block, and the number that owns its
scoreboard entries. -/
structure ArrOp where
  id    : Nat
  words : List Word
  strms : List StrmSlot
  epar  : Nat
  deriving DecidableEq, Repr

/-- The fill and copy engine's operation (R263): physical destination, length, and source or constant. -/
structure FillOp where
  dst  : Nat
  len  : Nat
  src  : Option Nat
  word : Word
  deriving DecidableEq, Repr

/-- A line of the control-core cache (R264), newest use first in its set. -/
structure CLine where
  set  : Nat
  tag  : Nat
  data : List Byte
  deriving DecidableEq, Repr

/-- Weights that have arrived at a chain member: the tag and the bytes not yet consumed (R226). -/
structure ChainIn where
  tag   : Nat
  bytes : List Byte
  deriving DecidableEq, Repr

/-- A translation-cache entry (R489): context, page, page-table word. -/
structure TlbEntry where
  ctx  : Nat
  page : Nat
  word : Word
  deriving DecidableEq, Repr

/-- Why an instruction is held at issue: a range that another owner has, too few free scoreboard entries (R258), or a unit that
is occupied (R210, R217, R225, R263, R281). -/
inductive Stall where
  | conflict | full | busy
  deriving DecidableEq, Repr

/-- One physical tiller. -/
structure Tiller where
  x        : List (Nat × Word)
  v        : List (Nat × Word)
  mask     : Nat
  acc      : List (Nat × Word)
  tb0      : TBuf
  tb1      : TBuf
  fillIdx  : Nat
  blocked  : Blocked
  woken    : Option Nat
  handler  : Bool
  task     : Option Posted
  run      : Option ArrOp
  pend     : Option ArrOp
  opId     : Nat
  chainIn  : List ChainIn
  slots    : List (Nat × StrmSlot)
  chans    : List (Nat × List Nat)
  sb       : List SbEntry
  fc       : Option FillOp
  scrub    : List Nat
  cache    : List CLine
  cacheSz  : Nat
  resizing : Bool
  imgLen   : Nat
  tlb      : List TlbEntry
  /-- words that decode as uncorrectable (R256) -/
  poison   : List Nat
  /-- an instruction is held at issue (R258) -/
  stall    : Option Stall
  deriving DecidableEq, Repr

/-- A weight-chain transfer under way (R225): the head's logical slot, the members still to complete, the bytes the
head has taken so far, the bits that do not make a byte yet (their value and number), and the length in bytes. -/
structure Chain where
  head    : Nat
  members : List Nat
  tag     : Nat
  bytes   : List Byte
  part    : Nat
  bits    : Nat
  len     : Nat
  deriving DecidableEq, Repr

/-! ## Dispatcher (R331) and patch queues (R227) -/

/-- A patch record (R228). -/
structure PatchRec where
  scol  : Nat
  dy    : Int
  score : Nat
  cls   : Nat
  raw0  : Word
  raw1  : Word
  deriving DecidableEq, Repr

/-- One open line of a patch queue (R229 to R231): the kept records, the drops, the merged header marks. -/
structure PLine where
  line  : Nat
  recs  : List PatchRec
  drops : Nat
  marks : Nat
  word2 : Nat
  chaff : Option (Nat × Nat)
  deriving DecidableEq, Repr

/-- A patch queue's binding and open lines; `consumer` is the stage and `ring` its patch-list ring (R227). -/
structure PQueue where
  bound    : Bool
  consumer : Nat
  base     : Nat
  count    : Nat
  depth    : Nat
  last     : Option Nat
  lines    : List PLine
  deriving DecidableEq, Repr

/-! ## Sync cells (R308) -/

/-- KIND of a cell. -/
inductive CellKind where
  | counter | barrier | pair | reserved
  deriving DecidableEq, Repr

/-- STATE of a cell. -/
inductive CellState where
  | free | live | orphan | fault
  deriving DecidableEq, Repr

/-- A sync cell. -/
structure Cell where
  kind   : CellKind
  state  : CellState
  owner  : Nat
  shared : Bool
  attn   : Bool
  bound  : Nat
  val    : Nat
  aux    : Nat
  deriving DecidableEq, Repr

/-- What an operation does at a cell when it is applied. -/
inductive CellAct where
  /-- the context is lost (R324): its cells are orphaned -/
  | lose (ctx : Nat)
  /-- a host APPLY writes the cell (R328) -/
  | put (x : Cell)
  | signal (inc : Int)
  | advance (n : Nat)
  /-- the same from context `ctx` of another device (R316) -/
  | signalBy (ctx : Nat) (inc : Int)
  | advanceBy (ctx n : Nat)
  /-- a barrier arrive of a tiller, whose wait threshold it sets (R310) -/
  | arrive (t : Nat)
  /-- the signal of a transfer of panicle `p` from context `ctx`; none: the end of a transfer of which payload was discarded (R408) -/
  | pnSignal (p ctx : Nat) (inc : Option Nat)
  deriving DecidableEq, Repr

/-- An operation on its way to a cell: the step of R321 and its two keys within the step, SRC and SRC_ID of
SYNC_LAST_FAULT, the cell. Operations of one cycle wait for the end of the cycle and are applied in the order of R321. -/
structure CellOp where
  step : Nat
  k1   : Nat
  k2   : Nat
  src  : Nat
  id   : Nat
  cell : Nat
  act  : CellAct
  deriving DecidableEq, Repr

/-- A ripe flag written in a cycle: its value before the cycle, and whether the cycle sets it (a set prevails over a clear of
the same cycle, R276). -/
structure FlagNow where
  flag   : Nat
  before : Bool
  set    : Bool
  deriving DecidableEq, Repr

/-- The sync block: cells, the sixteen translation tables (key `ctx * 1024 + vid`), and the deadlock detector's run
count, condition since the last tick and once-per-run flag for each context (R326). -/
structure SyncSt where
  cells   : List (Nat × Cell)
  vt      : List (Nat × Word)
  run     : List (Nat × Nat)
  broken  : List (Nat × Bool)
  flagged : List (Nat × Bool)
  deriving DecidableEq, Repr

/-! ## The schedule (R49, R276, R331, R332) and the rachis (R46 to R74) -/

/-- A ring of the ring table, and its entry there (R276). -/
structure RingDef where
  entry : Nat
  first : Nat
  count : Nat
  depth : Nat
  rel   : Nat
  gold  : Bool
  deriving DecidableEq, Repr

/-- A task template (R332). -/
structure Template where
  prio  : Nat
  awin  : Word
  cwin  : Word
  kbase : Nat
  param : Word
  deriving DecidableEq, Repr

/-- One field of a RESULT entry's record description: `len` bytes from byte `off` of the ring entry of the line served
in the ring (`base`, `count`, `depth`), in order of the payload (R375). -/
structure RecField where
  base  : Nat
  count : Nat
  depth : Nat
  off   : Nat
  len   : Nat
  deriving DecidableEq, Repr

/-- The loaded schedule: table words (key `4 * stage + word`), check-list words, output-list words, rings, templates
and record descriptions. -/
structure Sched where
  tbl     : List (Nat × Word)
  chk     : List (Nat × Word)
  out     : List (Nat × Word)
  rings   : List RingDef
  templ   : List (Nat × Template)
  recs    : List (Nat × List RecField)
  deriving DecidableEq, Repr

/-- An invocation (R46 to R58): the stage, the line it serves, the row that opened it, the physical unit that runs it
(R50), whether it is a chaff-run, whether its slot has closed and in which core cycle, and whether it has completed. -/
structure Inv where
  stage   : Nat
  line    : Nat
  row     : Nat
  phys    : Nat
  chaff   : Bool
  closed  : Bool
  closeC  : Nat
  openC   : Nat
  done    : Bool
  /-- a mark that the invocation's outputs must carry (OVERRUN, FENCED, LATE), as CAUSE -/
  mark    : Option Nat
  golden  : Bool
  suspect : Bool
  /-- words an engine keeps for the invocation between its phases -/
  data    : List Word
  /-- the parameter set with which a vision engine began: register offsets and values (R119) -/
  set     : List (Nat × Word)
  deriving DecidableEq, Repr

/-- A command descriptor accepted and not yet in effect (R373). -/
structure PendCmd where
  ring   : Nat
  addr   : Nat
  op     : Nat
  tag    : Nat
  target : Option Nat
  rowAt  : Nat
  arg0   : Word
  arg1   : Word
  arg2   : Word
  deriving DecidableEq, Repr

/-- Work that the rachis or the dispatcher does in a later core cycle `due` (START + 1 or START + 2: R52, R230, R334):
words written to the Granary with the flags then set (address, words, first flag, number of flags), signals (cell,
increment), and a task posted to a list. Where the list refuses the task, `puts` and `sigs` follow one cycle later. -/
structure Later where
  due   : Nat
  stage : Nat
  line  : Nat
  puts  : List (Nat × List Word × Nat × Nat)
  sigs  : List (Nat × Nat)
  post  : Option (Nat × Posted)
  deriving DecidableEq, Repr

/-- A line tick that has arrived and whose effects in cycle 0 are still being made: its line, whether the rachis opens the
row (R74), whether it is a sheaf boundary (R30). -/
structure Arrived where
  line  : Nat
  opens : Bool
  bound : Bool
  deriving DecidableEq, Repr

/-- A golden record that waits for the line record of its line (R67): its stage, line and words. -/
structure GoldRec where
  stage : Nat
  line  : Nat
  words : List Word
  deriving DecidableEq, Repr

/-- The rachis. -/
structure Seq where
  invs     : List Inv
  /-- missed and unticked lines still kept (R58, R74) -/
  missed   : List Nat
  unticked : List Nat
  /-- lines at or below this are unticked since the enable (R74) -/
  base     : Option Nat
  /-- rows skipped since the last row that opened (R58) -/
  skipped  : List Nat
  /-- the row now open and the core cycle of its cycle 0 -/
  row      : Option Nat
  rowC     : Nat
  pend     : List PendCmd
  /-- MARK commands waiting for the record of their line: line and tag -/
  marks    : List (Nat × Nat)
  /-- stages that the rachis has treated in the current row, by schedule: 0 the present one, `part + 1` an old bank -/
  opened   : List (Nat × Nat)
  /-- the row that opened before the present one -/
  prevRow  : Option Nat
  /-- line numbers have begun anew since that row opened: the timebase has been enabled, or its DIR changed -/
  restart  : Bool
  /-- stages, by schedule as in `opened`, whose stale flags have been cleared in the present row (R59) -/
  stale    : List (Nat × Nat)
  /-- the command rings have been scanned in the present row -/
  scanned  : Bool
  /-- SHEAF_START, LATE and PHASE of the lines still served: bits 17:12 of their headers (R31, R93) -/
  ticks    : List (Nat × Nat)
  /-- the last line whose LINE record has been published, by RESULT stage, and golden records that wait for it (R67) -/
  pubLine  : List (Nat × Nat)
  goldQ    : List GoldRec
  later    : List Later
  /-- a tick of which a command in cycle 0 of its row has already been applied, and which is to be completed -/
  arrived  : Option Arrived
  dup      : Bool
  deriving DecidableEq, Repr

end Sys2Proof.Machine
end

