-- ==== Sys2Proof/Config.lean ====
section
/-! DEFINITION. What one implementation fixes and the values that the specification leaves open. Every constant here has
no body: nothing in Lean can evaluate it, and a statement about it holds whatever it is. -/

namespace Sys2Proof

/-- A 32-bit result that the specification does not state: applied to a number that tells the operation, and to the operands
on which the result can depend, so that runs of equal inputs have equal results (R467; log entry 3). -/
opaque Config.openWord : List Nat → Word

/-- The word that VCMP writes to a lane for a comparison that holds or fails (R213), which the specification does not
give (log entry 19). -/
opaque Config.cmpWord : Bool → Word

/-- Which operand VSEL takes for a condition word that no VCMP writes (R213): true for the first (log entry 19). -/
opaque Config.selFirst : Word → Bool

/-- The pixel of a pyramid line below a line of one pixel (R129), from that pixel's weighted sum: R98 gives no index to mirror
to. The line takes it below the largest input value (log entry 84). -/
opaque Config.onePixel : Nat → Nat

/-- The hash of the vendor root key held in mask ROM (R413). -/
opaque Config.vendorHash : List Byte

/-- The identity of the device from its PUF reading and the HELPER section (R418): the 516 bytes of the public key;
none where the seed cannot be reconstructed. -/
opaque Config.identity : List Byte → List Byte → Option (List Byte)

/-- The signature with the identity key over a report (R419), 512 bytes. -/
opaque Config.idSign : List Byte → List Byte → List Byte

/-- Does the port admit this value in one of the mode registers whose fields R361 restricts? The JEDEC layout of the
fields stands outside the specification (log entry 34). -/
opaque Config.modeAdmits : Nat → Nat → Bool

/-- What the read-only mode registers 0, 4 and 8 report (R361), in the JEDEC layout (log entry 34). -/
opaque Config.modeReport : Nat → Nat

end Sys2Proof
end

