-- ==== Sys2Proof/Machine/Sparse.lean ====
section
/-! DEFINITION. Sparse stores: a list of key and value pairs with keys strictly rising and no entry equal to what an
unlisted key reads as. Registers, memories and every indexed unit of the part are held this way, so that equal stores
are equal data. -/

namespace Sys2Proof.Machine

/-- The value at key `k`; an unlisted key reads as `d k`. -/
def spGet {α : Type} (d : Nat → α) : List (Nat × α) → Nat → α
  | [], k => d k
  | (j, v) :: m, k => if j = k then v else spGet d m k

/-- Remove key `k`. -/
def spErase {α : Type} (k : Nat) : List (Nat × α) → List (Nat × α)
  | [] => []
  | (j, v) :: m => if j = k then spErase k m else (j, v) :: spErase k m

/-- Insert `k ↦ v` before the first greater key. -/
def spInsert {α : Type} (k : Nat) (v : α) : List (Nat × α) → List (Nat × α)
  | [] => [(k, v)]
  | (j, w) :: m => if k < j then (k, v) :: (j, w) :: m else (j, w) :: spInsert k v m

/-- Write `v` at key `k`, keeping the canonical form: the default value removes the entry. -/
def spPut {α : Type} [DecidableEq α] (d : Nat → α) (m : List (Nat × α)) (k : Nat) (v : α) : List (Nat × α) :=
  if v = d k then spErase k m else spInsert k v (spErase k m)

/-- Change the value at key `k` by a function. -/
def spMod {α : Type} [DecidableEq α] (d : Nat → α) (m : List (Nat × α)) (k : Nat) (f : α → α) : List (Nat × α) :=
  spPut d m k (f (spGet d m k))

/-- Are the keys strictly rising? -/
def keysRising {α : Type} : List (Nat × α) → Bool
  | [] => true
  | [_] => true
  | (j, _) :: (k, w) :: m => decide (j < k) && keysRising ((k, w) :: m)

/-- The canonical form: keys strictly rising, no entry equal to the default. -/
def spWf {α : Type} [DecidableEq α] (d : Nat → α) (m : List (Nat × α)) : Bool :=
  keysRising m && m.all (fun e => decide (e.2 ≠ d e.1))

/-! ## Byte memories -/

/-- A byte that nothing has written reads as zero (DESIGN CHOICE, log entry 2). -/
def zeroByte : Nat → Byte := fun _ => 0#8

/-- Read one byte. -/
def rdByte (m : List Host.Cell) (a : Nat) : Byte := spGet zeroByte m a

/-- Write one byte. -/
def wrByte (m : List Host.Cell) (a : Nat) (v : Byte) : List Host.Cell := spPut zeroByte m a v

/-- Read `n` bytes from `a` upwards. -/
def rdBytes (m : List Host.Cell) (a : Nat) : Nat → List Byte
  | 0 => []
  | n + 1 => rdByte m a :: rdBytes m (a + 1) n

/-- Write the bytes `bs` from `a` upwards, in ascending address. -/
def wrBytes (m : List Host.Cell) (a : Nat) : List Byte → List Host.Cell
  | [] => m
  | v :: bs => wrBytes (wrByte m a v) (a + 1) bs

/-- The little-endian number of a list of bytes (R235). -/
def leNat : List Byte → Nat
  | [] => 0
  | v :: bs => v.toNat + 256 * leNat bs

/-- The low `n` bytes of a number, little-endian (R235). -/
def leBytes : Nat → Nat → List Byte
  | 0, _ => []
  | n + 1, v => BitVec.ofNat 8 v :: leBytes n (v / 256)

/-- Read a little-endian 32-bit word. -/
def rdWord (m : List Host.Cell) (a : Nat) : Word := wd (leNat (rdBytes m a 4))

/-- Write a little-endian 32-bit word. -/
def wrWord (m : List Host.Cell) (a : Nat) (w : Word) : List Host.Cell := wrBytes m a (leBytes 4 w.toNat)

/-- Read `n` consecutive words. -/
def rdWords (m : List Host.Cell) (a : Nat) : Nat → List Word
  | 0 => []
  | n + 1 => rdWord m a :: rdWords m (a + 4) n

/-- Write consecutive words. -/
def wrWords (m : List Host.Cell) (a : Nat) : List Word → List Host.Cell
  | [] => m
  | w :: ws => wrWords (wrWord m a w) (a + 4) ws

/-- Is the memory in canonical form? -/
def Memory.wf (m : List Host.Cell) : Bool := spWf zeroByte m

/-- The word at index `i` of a list of words; 0 beyond the end. -/
def wAt (l : List Word) (i : Nat) : Word := (l[i]?).getD 0#32

/-- Replace the element at index `i` of a list, where there is one. -/
def listSet {α : Type} : List α → Nat → α → List α
  | [], _, _ => []
  | _ :: l, 0, v => v :: l
  | x :: l, n + 1, v => x :: listSet l n v

/-- `[a, a + 1, …]`, `n` numbers. -/
def upFrom (a : Nat) : Nat → List Nat
  | 0 => []
  | n + 1 => a :: upFrom (a + 1) n

/-- Insert into a list sorted by a strict order `lt`, after the elements that are not above it. -/
def insertBy {α : Type} (lt : α → α → Bool) (x : α) : List α → List α
  | [] => [x]
  | y :: l => if lt x y then x :: y :: l else y :: insertBy lt x l

/-- Stable insertion sort by a strict order. -/
def sortBy {α : Type} (lt : α → α → Bool) (l : List α) : List α :=
  l.foldr (fun x acc => insertBy (fun a b => lt a b || !lt b a) x acc) []

end Sys2Proof.Machine
end

