-- ==== Sys2Proof/Machine/LaneMath.lean ====
section
/-! DEFINITION. The arithmetic of a front-end lane, to the bit (spec/04_front_end_lanes.md R96 to R106, R113), and the
engine-local pixel formats (R105, R126, R141, R235, R236). -/

namespace Sys2Proof.Machine

/-- The value at index `i` of a list of pixels; 0 beyond its end. -/
def pxAt (l : List Nat) (i : Nat) : Nat := (l[i]?).getD 0

/-- Build the list `f 0, …, f (n - 1)`. -/
def tab (n : Nat) (f : Nat → Nat) : List Nat := (upFrom 0 n).map f

/-- The index mirrored without repeating the edge pixel (R98). -/
def mirrorIdx (len : Nat) (i : Int) : Nat :=
  if i < 0 then (-i).toNat else if i ≥ (len : Int) then (2 * (len : Int) - 2 - i).toNat else i.toNat

/-! ## Engine-local pixel formats: 0 U8, 1 U12 packed, 2 U16 -/

/-- Bytes of `w` pixels in a format (R236). -/
def rowBytes (fmt w : Nat) : Nat := if fmt = 0 then w else if fmt = 1 then cdiv (3 * w) 2 else 2 * w

/-- Pixel `i` of a row of bytes (R236). -/
def pixOf (fmt w : Nat) (bs : Nat → Byte) (i : Nat) : Nat :=
  if fmt = 0 then (bs i).toNat
  else if fmt = 1 then
    (let g := 3 * (i / 2)
     if i % 2 = 0 then (bs g).toNat + 256 * ((bs (g + 1)).toNat % 16)
     else (bs (g + 1)).toNat / 16 + 16 * (bs (g + 2)).toNat) + 0 * w
  else (bs (2 * i)).toNat + 256 * (bs (2 * i + 1)).toNat

/-- The pixels of a row of bytes. -/
def unpackRow (fmt w : Nat) (bs : List Byte) : List Nat :=
  tab w (pixOf fmt w (fun i => (bs[i]?).getD 0#8))

/-- The bytes of a row of pixels in U12 (R236): two pixels in three bytes, an odd last pixel in two. -/
def packU12 : List Nat → List Byte
  | [] => []
  | [p] => leBytes 2 (p % 4096)
  | p :: q :: l => leBytes 3 (p % 4096 + 4096 * (q % 4096)) ++ packU12 l

/-- The bytes of a row of pixels. A value above the largest of the format (an OOB_VAL of the warp, or a bilinear result from one, R125)
keeps its low bits (DESIGN CHOICE, log entry 73). -/
def packRow (fmt : Nat) (l : List Nat) : List Byte :=
  if fmt = 0 then l.map (fun p => BitVec.ofNat 8 p)
  else if fmt = 1 then packU12 l
  else l.flatMap (fun p => leBytes 2 p)

/-- A pixel of the engines' input converted to 12 bits (R141). -/
def to12 (fmt v : Nat) : Nat := if fmt = 0 then v * 16 else if fmt = 1 then v else v / 16

/-- A 12-bit pixel in an output format of the lane (R105). -/
def from12 (fmt v : Nat) : Nat := if fmt = 0 then min 255 ((v + 8) / 16) else if fmt = 1 then v else v * 16

/-! ## The lane's settings -/

/-- One output of a lane (R105). -/
structure LaneOut where
  en  : Bool
  tap : Nat
  hf  : Nat
  fmt : Nat
  x0  : Nat
  w   : Nat
  deriving DecidableEq, Repr

/-- A settings set of a lane (R107), read from its registers. -/
structure LaneP where
  dpcCnt : Nat
  bank   : Nat
  gamEn  : Bool
  ffcEn  : Bool
  dpcEn  : Bool
  tnrEn  : Bool
  snrEn  : Bool
  c0     : Nat
  c1     : Nat
  c2     : Nat
  thr    : Nat
  tthr   : Nat
  a      : Nat
  black  : Nat
  gain   : Nat
  tag    : Nat
  outs   : List LaneOut
  deriving DecidableEq, Repr

/-- The set held in the registers at `b + 0x60` to `b + 0xDC`, read through `r` (R117). -/
def laneSetOf (r : Nat → Word) (b : Nat) : LaneP :=
  let ctrl := r (b + 0x60); let snr := r (b + 0x64); let thr := r (b + 0x68)
  let lvl := r (b + 0x70)
  { dpcCnt := ctrl.fld 16 8, bank := ctrl.fld 5 5, gamEn := ctrl.bit 4, ffcEn := ctrl.bit 3, dpcEn := ctrl.bit 2,
    tnrEn := ctrl.bit 1, snrEn := ctrl.bit 0, c0 := snr.fld 7 0, c1 := snr.fld 15 8, c2 := snr.fld 23 16,
    thr := thr.fld 11 0, tthr := thr.fld 27 16, a := (r (b + 0x6C)).fld 7 0, black := lvl.fld 11 0,
    gain := lvl.fld 31 16, tag := (r (b + 0x74)).fld 7 0,
    outs := (upFrom 0 4).map (fun o =>
      let cfg := r (b + 0xC0 + 8 * o); let crop := r (b + 0xC4 + 8 * o)
      { en := cfg.bit 0, tap := cfg.fld 2 1, fmt := cfg.fld 4 3, hf := 2 ^ cfg.fld 6 5, x0 := crop.fld 13 0,
        w := crop.fld 30 16 }) }

/-- The checks at set formation that concern the set alone (R99, R116); the check of APW against WIDTH stands with the
registers. -/
def laneSetOk (p : LaneP) (nwr : Nat) : Bool :=
  p.c0 + 2 * p.c1 + 2 * p.c2 = 128 && p.a ≤ 224 && nwr ≤ 16 && p.dpcCnt ≤ 256 &&
  p.outs.all (fun o => !o.en || (o.tap ≠ 3 && o.fmt ≠ 3 && 1 ≤ o.w && o.x0 + o.w * o.hf ≤ 16384))

/-! ## The stages -/

/-- The defect columns of a DPC table (R102): the entries accepted, in ascending order, and whether one was ignored. -/
def dpcAccept (len : Nat) : List Nat → Option Nat → List Nat × Bool
  | [], _ => ([], false)
  | c :: l, last =>
    if c < len && (match last with | none => true | some p => p < c) then
      (let (acc, bad) := dpcAccept len l (some c); (c :: acc, bad))
    else ((dpcAccept len l last).1, true)

/-- R98: one pixel of the spatial noise reduction. -/
def snrPix (p : LaneP) (dc : Nat → Bool) (x : Nat → Nat) (len i : Nat) : Nat :=
  let c := x i
  let n : Int → Nat := fun j =>
    let k := mirrorIdx len ((i : Int) + j)
    if !dc k && (x k - c) + (c - x k) ≤ p.thr then x k else c
  (p.c0 * c + p.c1 * (n (-1) + n 1) + p.c2 * (n (-2) + n 2) + 64) / 128

/-- R100: the new state of one position (U12.4). -/
def tnrState (p : LaneP) (prev : Option Nat) (x : Nat) : Nat :=
  match prev with
  | none => x * 16
  | some s =>
    let d : Int := (s : Int) - (x * 16 : Nat)
    if d.natAbs ≤ p.tthr * 16 then ((x * 16 : Nat) + asr ((p.a : Int) * d + 128) 8).toNat else x * 16

/-- R100: the output of the temporal noise reduction from its state. -/
def tnrOut (s : Nat) : Nat := min 4095 ((s + 8) / 16)

/-- R102: the nearest column at distance 1 to 4 that is not a defect column. -/
def dpcNear (dc : Nat → Bool) (len i : Nat) (left : Bool) : Option Nat :=
  ((upFrom 1 4).filterMap (fun k =>
    if left then (if k ≤ i && !dc (i - k) then some (i - k) else none)
    else (if i + k < len && !dc (i + k) then some (i + k) else none))).head?

/-- R102: one pixel after defect correction, and whether it could not be corrected. -/
def dpcPix (dc : Nat → Bool) (v : Nat → Nat) (len i : Nat) : Nat × Bool :=
  if !dc i then (v i, false)
  else match dpcNear dc len i true, dpcNear dc len i false with
    | some l, some r => ((v l + v r + 1) / 2, false)
    | some l, none => (v l, false)
    | none, some r => (v r, false)
    | none, none => (v i, true)

/-- R103: flat field of a pixel with FFC table entry `e` (FFG in 31:16, DARK in 11:0). -/
def ffcPix (e : Word) (x : Nat) : Nat := min 4095 (((x - e.fld 11 0) * e.fld 31 16 + 8192) / 16384)

/-- R103: gain. -/
def gainPix (g x : Nat) : Nat := min 4095 ((x * g + 2048) / 4096)

/-- R104: gamma with knots `L`. -/
def gamPix (L : Nat → Nat) (x : Nat) : Nat :=
  let j := x / 64; let f := x % 64
  ((L j : Int) + asr (((L (j + 1) : Int) - L j) * f + 32) 6).toNat

/-- What a lane computes from one line: the taps, the new temporal state, the defect columns that could not be
corrected, and the counts of R103. -/
structure LaneRes where
  tap0   : List Nat
  tap1   : List Nat
  tap2   : List Nat
  tnr    : List Nat
  unfix  : Nat
  dpcBad : Bool
  clip   : List Bool
  deriving DecidableEq, Repr

/-- R96: the whole chain on a line of `len` pixels. `prev i` is the temporal state of position `i` where it is valid
(R101). -/
def laneLine (p : LaneP) (ffc : Nat → Word) (dpc : List Nat) (gam : Nat → Nat) (px : List Nat) (prev : Nat → Option Nat) :
    LaneRes :=
  let len := px.length
  let (dcl, bad) := dpcAccept len (dpc.take p.dpcCnt) none
  let dc := fun i => dcl.contains i
  let s1 := if p.snrEn then tab len (snrPix p dc (pxAt px) len) else px
  let st := if p.tnrEn then tab len (fun i => tnrState p (prev i) (pxAt s1 i)) else []
  let s2 := if p.tnrEn then st.map tnrOut else s1
  let d3 := (upFrom 0 len).map (fun i => if p.dpcEn then dpcPix dc (pxAt s2) len i else (pxAt s2 i, false))
  let s4 := (upFrom 0 len).map (fun i => let v := ((d3[i]?).getD (0, false)).1; if p.ffcEn then ffcPix (ffc i) v else v)
  let s5 := s4.map (fun v => v - p.black)
  let s6 := s5.map (gainPix p.gain)
  let s7 := if p.gamEn then s6.map (gamPix gam) else s6
  { tap0 := s7, tap1 := s6, tap2 := s2, tnr := st, unfix := (d3.filter (·.2)).length, dpcBad := bad,
    clip := s4.map (fun v => v < p.black) }

/-- R105: the pixels of one output, and whether a source index lay beyond the line. -/
def laneOut (o : LaneOut) (r : LaneRes) (fill : Nat) : List Nat × Bool :=
  let src := if o.tap = 0 then r.tap0 else if o.tap = 1 then r.tap1 else r.tap2
  let len := src.length
  let v := fun i => if i < len then pxAt src i else fill
  (tab o.w (fun j => from12 o.fmt (((tab o.hf (fun t => v (o.x0 + j * o.hf + t))).foldl (· + ·) 0 + o.hf / 2) / o.hf)),
   decide (len < o.x0 + o.w * o.hf))

end Sys2Proof.Machine
end

