-- ==== Sys2Proof/Machine/EngineMath.lean ====
section
/-! DEFINITION. The arithmetic of the warp, pyramid and tuft engines, to the bit (spec/05_warp_and_pyramid.md R120 to
R135, spec/06_tuft_features.md R141 to R157). -/

namespace Sys2Proof.Machine

/-! ## Warp -/

/-- A warp set (R121 to R126). -/
structure WarpP where
  sx : Nat
  sy : Nat
  bank : Nat
  yw : Nat
  fmt : Nat
  oob : Nat
  interp : Nat
  inW : Nat
  w : Nat
  mx : Nat
  mbase : Nat
  oobVal : Nat
  xOff : Int
  deriving DecidableEq, Repr

/-- The set in the registers at `b`. -/
def warpSetOf (r : Nat → Word) (b : Nat) : WarpP :=
  let c := r b; let z := r (b + 4); let m := r (b + 8); let o := r (b + 12)
  { sy := c.fld 19 16, sx := c.fld 15 12, bank := c.fld 11 11, yw := c.fld 10 8, fmt := c.fld 7 6, oob := c.fld 5 4,
    interp := c.fld 0 0, inW := z.fld 30 16, w := z.fld 14 0, mx := m.fld 27 16, mbase := m.fld 15 0,
    oobVal := o.fld 31 16, xOff := sext 16 (o.fld 15 0) }

/-- R135, R121: the checks of a warp set. INTERP is one bit, so INTERP ≤ 1 always holds. -/
def warpSetOk (p : WarpP) : Bool :=
  p.oob ≠ 3 && p.fmt ≠ 3 && p.yw ≤ 4 && 3 ≤ p.sx && p.sx ≤ 8 && p.sy ≤ 10 &&
  1 ≤ p.w && p.w ≤ 16384 && 1 ≤ p.inW && p.inW ≤ 16384 &&
  p.mx ≥ (p.w - 1) / 2 ^ p.sx + 2 && p.mbase + p.mx * (1024 / 2 ^ p.sy + 1) ≤ 65536

/-- R122: the displacement of output column `j` on sheaf-relative line `q`, from mesh values `D gx gy`. -/
def warpDisp (p : WarpP) (D : Nat → Nat → Int) (j q : Nat) : Int :=
  let nx := 2 ^ p.sx; let ny := 2 ^ p.sy
  let gx := j / nx; let fx : Int := (j % nx : Nat); let gy := q / ny; let fy : Int := (q % ny : Nat)
  let s := (D gx gy * (nx - fx) + D (gx + 1) gy * fx) * (ny - fy) + (D gx (gy + 1) * (nx - fx) + D (gx + 1) (gy + 1) * fx) * fy
  asr (s + ((2 ^ (p.sx + p.sy - 1) : Nat) : Int)) (p.sx + p.sy)

/-- R125: one tap and whether it is out of bounds. -/
def warpTap (p : WarpP) (px : Int → Nat → Nat) (r c : Int) : Nat × Bool :=
  let bad := c < 0 || c ≥ (p.inW : Int) || r < -(p.yw : Int) || r > (p.yw : Int)
  if bad && p.oob ≠ 0 then (p.oobVal, true)
  else (px (clampI (-(p.yw : Int)) p.yw r) (clampI 0 ((p.inW : Int) - 1) c).toNat, bad)

/-- R124: the bicubic weight `t` (−1 to 2) at phase `F`. -/
def cubicW (f : Int) (t : Int) : Int :=
  let a := asr (-f * f * f + 128 * f * f - 4096 * f + 64) 7
  let b := asr (-3 * f * f * f + 256 * f * f + 4096 * f + 64) 7
  let c := asr (f * f * f - 64 * f * f + 64) 7
  if t = -1 then a else if t = 1 then b else if t = 2 then c else 4096 - a - b - c

/-- The largest pixel of a format (R124). -/
def fmtMax (fmt : Nat) : Nat := if fmt = 0 then 255 else if fmt = 1 then 4095 else 65535

/-- R122 to R125: one output pixel, and whether a tap was out of bounds. `px r c` is the input pixel at column `c` of
the line `r` lines from the line served. -/
def warpPix (p : WarpP) (dx dy : Nat → Nat → Int) (px : Int → Nat → Nat) (q j : Nat) : Nat × Bool :=
  let x64 := (j * 64 : Nat) + warpDisp p dx j q + p.xOff * 64
  let y64 := warpDisp p dy j q
  let xi := asr x64 6; let xf := x64 - xi * 64
  let yi := asr y64 6; let yf := y64 - yi * 64
  let tp := warpTap p px
  let offs : List Int := if p.interp = 0 then [0, 1] else [-1, 0, 1, 2]
  let taps := offs.map (fun a => offs.map (fun c => tp (yi + a) (xi + c)))
  let bad := taps.any (fun l => l.any (·.2))
  let val : Int :=
    if p.interp = 0 then
      asr (((offs.zip taps).map (fun (a, l) =>
        ((offs.zip l).map (fun (c, t) => (t.1 : Int) * (if c = 0 then 64 - xf else xf))).foldl (· + ·) 0
          * (if a = 0 then 64 - yf else yf))).foldl (· + ·) 0 + 2048) 12
    else
      clampI 0 (fmtMax p.fmt) (asr (((offs.zip taps).map (fun (a, l) =>
        ((offs.zip l).map (fun (c, t) => (t.1 : Int) * cubicW xf c)).foldl (· + ·) 0 * cubicW yf a)).foldl (· + ·) 0
          + 8388608) 24)
  (if bad && p.oob = 2 then p.oobVal else val.toNat, bad)

/-! ## Pyramid -/

/-- A pyramid set (R129 to R131). -/
structure PyrP where
  w    : Nat
  exp  : Nat
  nlev : Nat
  fmt  : Nat
  k0   : Nat
  k1   : Nat
  k2   : Nat
  deriving DecidableEq, Repr

/-- The set in the registers at `b`. -/
def pyrSetOf (r : Nat → Word) (b : Nat) : PyrP :=
  let c := r b; let k := r (b + 4)
  { w := c.fld 30 16, exp := c.fld 12 7, nlev := c.fld 6 4, fmt := c.fld 1 0, k0 := k.fld 7 0, k1 := k.fld 15 8,
    k2 := k.fld 23 16 }

/-- R135. -/
def pyrSetOk (p : PyrP) : Bool :=
  p.k0 + 2 * p.k1 + 2 * p.k2 = 64 && 1 ≤ p.nlev && p.nlev ≤ 6 && p.fmt ≠ 3 && 1 ≤ p.w && p.w ≤ 16384 &&
  p.exp / 2 ^ p.nlev = 0

/-- Levels that a pyramid exports, in ascending order (R131). -/
def pyrExports (p : PyrP) : List Nat := (upFrom 1 p.nlev).filter (fun l => nbit p.exp (l - 1))

/-- R129: a line of level `l` from the five lines `a[-2]` … `a[+2]` of level `l - 1`, each of width `w`. Indices outside are
mirrored as in R98; in a line of two pixels the mirrored index is mirrored once more. In a line of one pixel no mirrored index
ever lies inside: its result is not stated (log entry 84). -/
def pyrLine (p : PyrP) (w : Nat) (a : List (List Nat)) : List Nat :=
  let at5 := fun i c => pxAt ((a[i]?).getD []) c
  let t := tab w (fun c => p.k2 * (at5 0 c + at5 4 c) + p.k1 * (at5 1 c + at5 3 c) + p.k0 * at5 2 c)
  let tm : Int → Nat := fun i => pxAt t (mirrorIdx w (mirrorIdx w i))
  if w = 1 then [Config.onePixel (pxAt t 0) % ((a.map (fun l => pxAt l 0)).foldl max 0 + 1)]
  else tab ((w + 1) / 2) (fun c =>
    let i : Int := 2 * (c : Int)
    (p.k2 * (tm (i - 2) + tm (i + 2)) + p.k1 * (tm (i - 1) + tm (i + 1)) + p.k0 * tm i + 2048) / 4096)

/-- Width of level `l` (R129). -/
def pyrWidth (w : Nat) : Nat → Nat
  | 0 => w
  | l + 1 => (pyrWidth w l + 1) / 2

/-! ## Tuft -/

/-- A tuft set. -/
structure TuftP where
  rsh : Nat
  refEn : Bool
  nms : Nat
  s : Nat
  fmt : Nat
  w : Nat
  col0 : Nat
  repX1 : Nat
  repX0 : Nat
  thrC : Nat
  budget : Nat
  confThr : Nat
  refLine : Nat
  featMax : Nat
  deriving DecidableEq, Repr

/-- The set in the registers at `b`. -/
def tuftSetOf (r : Nat → Word) (b : Nat) : TuftP :=
  let c := r b; let f := r (b + 4); let rp := r (b + 12); let lm := r (b + 20)
  { rsh := c.fld 9 4, refEn := c.bit 3, nms := c.fld 2 2, s := if c.bit 1 then 4 else 2, fmt := f.fld 16 15,
    w := f.fld 14 0, col0 := (r (b + 8)).fld 19 0, repX1 := rp.fld 30 16, repX0 := rp.fld 14 0,
    thrC := (r (b + 16)).toNat, budget := lm.fld 31 22, confThr := lm.fld 15 8, refLine := lm.fld 7 4,
    featMax := lm.fld 3 0 }

/-- Canonical columns of a reported range (R145, R157). -/
def ncOf (col0 x0 x1 : Nat) : Nat := (col0 + x1 - 1) / 256 - (col0 + x0) / 256 + 1

/-- R157. -/
def tuftSetOk (p : TuftP) : Bool :=
  p.fmt ≠ 3 && p.w % p.s = 0 && 2 * p.s * 10 + p.s ≤ p.w && p.w ≤ 16384 && p.repX0 < p.repX1 && p.repX1 ≤ p.w &&
  p.thrC ≥ 1 && p.rsh ≤ 40 && 1 ≤ p.featMax && p.featMax ≤ 16 && p.refLine ≤ p.featMax &&
  ncOf p.col0 p.repX0 p.repX1 * p.featMax ≤ 1023

/-- R146: 16 384 × cos(θπ/16), rounded. -/
def cosRom : List Int := [16384, 16069, 15137, 13623, 11585, 9102, 6270, 3196, 0, -3196, -6270, -9102, -11585, -13623, -15137, -16069, -16384, -16069, -15137, -13623, -11585, -9102, -6270, -3196, 0, 3196, 6270, 9102, 11585, 13623, 15137, 16069]
/-- R146: 16 384 × sin(θπ/16), rounded. -/
def sinRom : List Int := [0, 3196, 6270, 9102, 11585, 13623, 15137, 16069, 16384, 16069, 15137, 13623, 11585, 9102, 6270, 3196, 0, -3196, -6270, -9102, -11585, -13623, -15137, -16069, -16384, -16069, -15137, -13623, -11585, -9102, -6270, -3196]

/-- R142: the tuft response of an image at (y, x). -/
def tuftResp (rsh : Nat) (im : Int → Int → Nat) (y x : Int) : Nat :=
  let offs : List Int := [-1, 0, 1]
  let g : List (Int × Int) := offs.flatMap (fun a => offs.map (fun b =>
    ((im (y + a) (x + b + 1) : Int) - im (y + a) (x + b - 1), (im (y + a + 1) (x + b) : Int) - im (y + a - 1) (x + b))))
  let sxx := g.foldl (fun t p => t + p.1 * p.1) 0
  let syy := g.foldl (fun t p => t + p.2 * p.2) 0
  let sxy := g.foldl (fun t p => t + p.1 * p.2) 0
  min (2 ^ 32 - 1) (asr (sxx * syy - sxy * sxy) rsh).toNat

/-- The offsets of a suppression window other than its centre, with whether each comes earlier in raster order (R143). -/
def supWindow (nms : Nat) : List (Int × Int × Bool) :=
  let offs : List Int := if nms = 0 then [-1, 0, 1] else [-2, -1, 0, 1, 2]
  offs.flatMap (fun a => offs.filterMap (fun b =>
    if a = 0 ∧ b = 0 then none else some (a, b, decide (a < 0 ∨ (a = 0 ∧ b < 0)))))

/-- R143, R144: if (d, x) is a candidate of the response map, its response and its confidence. -/
def tuftCand (p : TuftP) (wc : Nat) (t : Int → Int → Nat) (d x : Nat) : Option (Nat × Nat) :=
  let v := t d x
  let win := supWindow p.nms
  if 10 ≤ x && x + 11 ≤ wc && v ≥ p.thrC &&
     win.all (fun (a, b, early) => let o := t (d + a) (x + b); if early then decide (o < v) else decide (o ≤ v)) then
    (let tn := win.foldl (fun m (a, b, _) => max m (t (d + a) (x + b))) 0
     some (v, (v - tn) * 255 / v))
  else none

/-- The 149 offsets of the orientation disc (R146). -/
def tuftDisc : List (Int × Int) :=
  let offs : List Int := [-7, -6, -5, -4, -3, -2, -1, 0, 1, 2, 3, 4, 5, 6, 7]
  offs.flatMap (fun dy => offs.filterMap (fun dx => if dx * dx + dy * dy ≤ 49 then some (dy, dx) else none))

/-- The lowest index of the greatest element, from index `i` on, with the best so far. -/
def argMax : List Int → Nat → Int → Nat → Nat
  | [], _, _, bi => bi
  | v :: l, i, best, bi => if best < v then argMax l (i + 1) v i else argMax l (i + 1) best bi

/-- R146: the orientation at (y0, x0). -/
def tuftTheta (im : Int → Int → Nat) (y0 x0 : Int) : Nat :=
  let m10 := tuftDisc.foldl (fun s (dy, dx) => s + dx * im (y0 + dy) (x0 + dx)) 0
  let m01 := tuftDisc.foldl (fun s (dy, dx) => s + dy * im (y0 + dy) (x0 + dx)) 0
  if m10 = 0 ∧ m01 = 0 then 0
  else match (cosRom.zip sinRom).map (fun (c, s) => m10 * c + m01 * s) with
    | [] => 0
    | v :: l => argMax l 1 v 0

/-- R147: one step of the shift register: the new register and the bit. -/
def lfsrStep (s : Nat) : Nat × Nat :=
  let bit := (s ^^^ (s / 4) ^^^ (s / 8) ^^^ (s / 32)) % 2
  (s / 2 + bit * 32768, bit)

/-- R147: `n` further bits of a draw, most significant first. -/
def lfsrBits : Nat → Nat → Nat → Nat × Nat
  | 0, s, v => (s, v)
  | n + 1, s, v => let (s', b) := lfsrStep s; lfsrBits n s' (2 * v + b)

/-- R147: `n` coordinates drawn in order. -/
def lfsrDraws : Nat → Nat → List Int
  | 0, _ => []
  | n + 1, s => let (s', v) := lfsrBits 5 s 0; (((v % 15 : Nat) : Int) - 7) :: lfsrDraws n s'

/-- Groups of four coordinates (ax, ay, bx, by). -/
def groups4 : List Int → List (Int × Int × Int × Int)
  | a :: b :: c :: d :: l => (a, b, c, d) :: groups4 l
  | _ => []

/-- R147: the base sampling pattern of 256 pairs. -/
def tuftBase : List (Int × Int × Int × Int) := groups4 (lfsrDraws 1024 0xACE1)

/-- R147: a point rotated by orientation θ. -/
def tuftRot (th : Nat) (px py : Int) : Int × Int :=
  let c := (cosRom[th]?).getD 0; let s := (sinRom[th]?).getD 0
  (asr (px * c - py * s + 8192) 14, asr (px * s + py * c + 8192) 14)

/-- R147: the rotated pair `k` of orientation θ: (ax', ay', bx', by'). -/
def tuftPair (th k : Nat) : Int × Int × Int × Int :=
  let (ax, ay, bx, bY) := (tuftBase[k]?).getD (0, 0, 0, 0)
  let (ax', ay') := tuftRot th ax ay
  let (bx', bY') := tuftRot th bx bY
  (ax', ay', bx', bY')

/-- R148: the descriptor at (y0, x0) as eight words. -/
def tuftDesc (im : Int → Int → Nat) (th : Nat) (y0 x0 : Int) : List Word :=
  let bits := (upFrom 0 256).map (fun k =>
    let (ax, ay, bx, bY) := tuftPair th k
    decide (im (y0 + ay) (x0 + ax) < im (y0 + bY) (x0 + bx)))
  (upFrom 0 8).map (fun w => wd ((upFrom 0 32).foldl (fun v i => v + (if (bits[32 * w + i]?).getD false then 2 ^ i else 0)) 0))

/-- A feature kept by R145. -/
structure Feat where
  x    : Nat
  t    : Nat
  conf : Nat
  deriving DecidableEq, Repr

/-- Strip column of a coarse column, and its canonical column (R145). -/
def tuftCanon (p : TuftP) (x : Nat) : Nat := (p.col0 + p.s * x) / 256

/-- R143 to R145: the reported candidates of coarse line `d`. -/
def tuftCands (p : TuftP) (wc : Nat) (t : Int → Int → Nat) (d : Nat) : List Feat :=
  (upFrom 0 wc).filterMap (fun x =>
    match tuftCand p wc t d x with
    | some (v, cf) => if p.repX0 ≤ p.s * x && p.s * x < p.repX1 then some ⟨x, v, cf⟩ else none
    | none => none)

/-- R145: the features kept, in ascending column, and the number dropped. -/
def tuftKeep (p : TuftP) (cs : List Feat) : List Feat × Nat :=
  let keep := fun (f : Feat) =>
    decide ((cs.filter (fun g => tuftCanon p g.x = tuftCanon p f.x && (decide (g.t > f.t) || (g.t = f.t && decide (g.x < f.x))))).length
      < p.featMax)
  (cs.filter keep, (cs.filter (fun f => !keep f)).length)

/-- R149: the coarse columns selected for refinement, with the budgets they leave; `bud` gives a column's budget. The
features arrive in the order of R149 within each canonical column; `used` are the canonical columns already taken. -/
def tuftSelect (p : TuftP) : List Feat → List Nat → (Nat → Nat) → List Nat × List Nat
  | [], _, _ => ([], [])
  | f :: l, used, bud =>
    let q := tuftCanon p f.x
    let n := (used.filter (· = q)).length
    if n < p.refLine && n < bud q then
      (let (a, b) := tuftSelect p l (q :: used) bud; (f.x :: a, b))
    else (let (a, b) := tuftSelect p l used bud; (a, f.x :: b))

/-- Rounding half away from zero of a quotient with positive or negative divisor (R150). -/
def roundHalfAway (n d : Int) : Int :=
  let s : Int := if (n < 0) = (d < 0) then 1 else -1
  s * (((2 * n.natAbs + d.natAbs) / (2 * d.natAbs) : Nat) : Int)

/-- R150 step 4. -/
def tuftOff (l m n : Int) : Int :=
  let den := l - 2 * m + n
  if den ≥ 0 then 0 else clampI (-8) 8 (roundHalfAway (8 * (l - n)) den)

/-- R152: the twelve words of a coarse feature on coarse line `d`. -/
def tuftRecCoarse (p : TuftP) (c : Int → Int → Nat) (d : Nat) (f : Feat) (skip : Bool) : List Word :=
  let th := tuftTheta c d f.x
  wd (f.conf * 2 ^ 24 + (p.s * f.x * 16 + 8 * (p.s - 1))) ::
  wd (b2n skip * 2 ^ 14 + th * 256 + 8 * (p.s - 1)) :: wd f.t :: 0#32 :: tuftDesc c th d f.x

/-- R150, R152: the twelve words of a refined feature; `u` is the full-resolution image. -/
def tuftRecRefined (p : TuftP) (u : Int → Int → Nat) (d : Nat) (f : Feat) : List Word :=
  let t := tuftResp p.rsh u
  let pos : List (Nat × Nat) := (upFrom 0 p.s).flatMap (fun a => (upFrom 0 p.s).map (fun b => (p.s * d + a, p.s * f.x + b)))
  let best := pos.foldl (fun (m : Option (Nat × Nat × Nat)) yx =>
    let v := t yx.1 yx.2
    match m with
    | none => some (v, yx)
    | some (bv, byx) => if bv < v then some (v, yx) else some (bv, byx)) none
  let (bv, yp, xp) := best.getD (0, 0, 0)
  let offx := tuftOff (t yp (xp - 1)) (t yp xp) (t yp (xp + 1))
  let offy := tuftOff (t (yp - 1) xp) (t yp xp) (t (yp + 1) xp)
  let th := tuftTheta u yp xp
  let xv := wrapN 18 ((xp * 16 : Nat) + offx)
  let dy := wrapN 8 (((yp - p.s * d) * 16 : Nat) + offy)
  wd (f.conf * 2 ^ 24 + xv) :: wd (2 ^ 13 + th * 256 + dy) :: wd bv :: 0#32 :: tuftDesc u th yp xp

end Sys2Proof.Machine
end

