-- ==== Sys2Proof/Machine/StereoMath.lean ====
section
/-! DEFINITION. The arithmetic of the stereo and flow engines, to the bit (spec/07_stereo.md R164 to R182,
spec/08_flow.md R189 to R201). -/

namespace Sys2Proof.Machine

/-- A stereo set. -/
structure StereoP where
  vr : Nat
  hgtEn : Bool
  lrEn : Bool
  refEn : Bool
  fmt : Nat
  w : Nat
  col0 : Nat
  repX1 : Nat
  repX0 : Nat
  flat : Nat
  lrt : Nat
  dmin : Nat
  p2 : Nat
  p1 : Nat
  dref : Nat
  refConf : Nat
  refMax : Nat
  hk : Int
  deriving DecidableEq, Repr

/-- The set in the registers at `b`. -/
def stereoSetOf (r : Nat → Word) (b : Nat) : StereoP :=
  let c := r b; let rp := r (b + 12); let dp := r (b + 16); let pn := r (b + 20); let rf := r (b + 24)
  { vr := c.fld 11 8, hgtEn := c.bit 6, lrEn := c.bit 5, refEn := c.bit 4, fmt := c.fld 1 0, w := (r (b + 4)).fld 14 0,
    col0 := (r (b + 8)).fld 19 0, repX1 := rp.fld 30 16, repX0 := rp.fld 14 0, flat := dp.fld 31 24, lrt := dp.fld 18 16,
    dmin := dp.fld 9 0, p2 := pn.fld 15 8, p1 := pn.fld 5 0, dref := rf.fld 31 16, refConf := rf.fld 15 8,
    refMax := rf.fld 6 0, hk := (r (b + 28)).s32 }

/-- R182. -/
def stereoSetOk (p : StereoP) : Bool :=
  p.fmt ≠ 3 && p.w % 2 = 0 && 256 ≤ p.w && p.w ≤ 16384 && p.col0 % 2 = 0 && p.repX0 < p.repX1 && p.repX1 ≤ p.w &&
  (p.col0 + p.repX0) % 256 = 0 && (p.col0 + p.repX1) % 256 = 0 && (p.repX1 - p.repX0) / 256 ≤ 16 && p.dmin ≤ 1023 &&
  1 ≤ p.p1 && p.p1 < p.p2 && p.refMax ≤ 64 && p.refConf ≥ 16 && 4 ≤ p.vr && p.vr ≤ 10

/-- R165: the census of column `x` of an image `im r c` (r = −1, 0, 1 about the line served), width `w`: a number whose
bit `n` belongs to the n-th offset in raster order. Columns outside are mirrored as in R98. -/
def census (im : Int → Nat → Nat) (w : Nat) (x : Int) : Nat :=
  let rows : List Int := [-1, 0, 1]
  let cols : List Int := [-4, -3, -2, -1, 0, 1, 2, 3, 4]
  let c0 := im 0 (mirrorIdx w x)
  let offs := rows.flatMap (fun a => cols.filterMap (fun b => if a = 0 ∧ b = 0 then none else some (a, b)))
  ((offs.zip (upFrom 0 26)).map (fun (ab, n) => if im ab.1 (mirrorIdx w (x + ab.2)) < c0 then 2 ^ n else 0)).foldl (· + ·) 0

/-- The number of bits set among the low `n` bits. -/
def popcount : Nat → Nat → Nat
  | 0, _ => 0
  | n + 1, v => v % 2 + popcount n (v / 2)

/-- The least of a list, or `d` where it is empty. -/
def minL (d : Nat) : List Nat → Nat
  | [] => d
  | v :: l => l.foldl min v

/-- The lowest index of the least element satisfying `ok`. -/
def argMinIf (ok : Nat → Bool) (f : Nat → Nat) (n : Nat) : Option Nat :=
  ((upFrom 0 n).filter ok).foldl (fun b i => match b with
    | none => some i
    | some j => if f i < f j then some i else some j) none

/-- R168: one step of a path; no predecessor is a path start. -/
def pathStep (p1 p2 : Nat) (c : List Nat) (q : Option (List Nat)) : List Nat :=
  match q with
  | none => c
  | some l =>
    let mq := minL 0 l
    tab c.length (fun d =>
      let t0 := min (pxAt l d) (mq + p2)
      let t1 := if d = 0 then t0 else min t0 (pxAt l (d - 1) + p1)
      let t2 := if d + 1 ≥ c.length then t1 else min t1 (pxAt l (d + 1) + p1)
      pxAt c d + t2 - mq)

/-- A path along the columns, in the order given. -/
def pathScan (p1 p2 : Nat) : List (List Nat) → Option (List Nat) → List (List Nat)
  | [], _ => []
  | c :: l, q => let r := pathStep p1 p2 c q; r :: pathScan p1 p2 l (some r)

/-- What the path store keeps of one window (R169): the TB and TD values of its 160 columns. -/
abbrev PathRow := List (List Nat × List Nat)

/-- A coarse column's result: 12.4 disparity, code and winner. -/
structure CCol where
  disp : Nat
  code : Nat
  d    : Nat
  deriving DecidableEq, Repr

/-- R170: the sub-pixel offset of a minimum from its neighbours. -/
def minOff (l m n : Nat) : Int :=
  let den : Int := (l : Int) - 2 * m + n
  if den ≤ 0 then 0 else clampI (-8) 8 (roundHalfAway (8 * ((l : Int) - n)) den)

/-- R171: the graded code. -/
def gradeCode (s1 s2 : Nat) : Nat := 16 + (s2 - s1) * 239 / s2

/-- R166 to R173: phase A for one window of 160 coarse columns from coarse column `w0`; `refK`, `othK` are the censuses
by coarse column; `prev` is the path store's row of the line before, none at a path start. -/
def stereoWindow (p : StereoP) (refK othK : Int → Nat) (w0 : Int) (prev : Option PathRow) : List CCol × PathRow :=
  let wc := p.w / 2
  let off : Nat → Nat → Bool := fun i d =>
    let xr := w0 + i - p.dmin - d; decide (xr < 0 ∨ xr ≥ (wc : Int))
  let cost := (upFrom 0 160).map (fun i => tab 128 (fun d =>
    if off i d then 26 else popcount 26 (refK (w0 + i) ^^^ othK (w0 + i - p.dmin - d))))
  let lr := pathScan p.p1 p.p2 cost none
  let rl := (pathScan p.p1 p.p2 cost.reverse none).reverse
  let pv : Nat → Option (List Nat × List Nat) := fun i => match prev with
    | none => none
    | some r => r[i]?
  let tb := (upFrom 0 160).map (fun i => pathStep p.p1 p.p2 ((cost[i]?).getD []) ((pv i).map (·.1)))
  let td := (upFrom 0 160).map (fun i => pathStep p.p1 p.p2 ((cost[i]?).getD [])
    (if i = 0 then none else (pv (i - 1)).map (·.2)))
  let at2 : List (List Nat) → Nat → Nat → Nat := fun l i d => pxAt ((l[i]?).getD []) d
  let S := (upFrom 0 160).map (fun i => tab 128 (fun d => at2 lr i d + at2 rl i d + at2 tb i d + at2 td i d))
  let sel := (upFrom 0 160).map (fun i =>
    let s := at2 S i
    let d := (argMinIf (fun _ => true) s 128).getD 0
    let s1 := s d
    let s2 := minL s1 (((upFrom 0 128).filter (fun k => k + 2 ≤ d || d + 2 ≤ k)).map s)
    let fails :=
      match argMinIf (fun k => decide (d ≤ i + k ∧ i + k - d < 160)) (fun k => at2 S (i + k - d) k) 128 with
      | none => false
      | some dr => decide (p.lrt < (dr - d) + (d - dr))
    let code := if d = 0 ∨ d = 127 ∨ off i d = true then 2 else if s2 - s1 ≤ p.flat then 0
      else if p.lrEn && fails then 1 else gradeCode s1 s2
    let disp : Nat := if code = 2 then (p.dmin + d) * 32
      else (((p.dmin + d) * 32 : Nat) + 2 * minOff (s (d - 1)) s1 (s (d + 1))).toNat
    (⟨disp, code, d⟩ : CCol))
  let graded := fun (c : CCol) => decide (c.code ≥ 16)
  let fill := (upFrom 0 160).map (fun i =>
    let c := (sel[i]?).getD ⟨0, 2, 0⟩
    if c.code ≥ 2 then c
    else
      let dl := ((sel.take i).reverse.find? graded).map (·.disp)
      let dr := ((sel.drop (i + 1)).find? graded).map (·.disp)
      let v := match dl, dr with
        | some a, some b => if c.code = 0 then (a + b + 1) / 2 else min a b
        | some a, none => a
        | none, some b => b
        | none, none => p.dmin * 32
      { c with disp := v })
  (fill, (tb.zip td))

/-- R166: the first coarse column of the window of the k-th reported canonical column. -/
def stereoW0 (p : StereoP) (k : Nat) : Int :=
  let q := (p.col0 + p.repX0) / 256 + k
  (((256 * q : Nat) : Int) - p.col0) / 2 - 16

/-- The number of reported canonical columns (R182). -/
def stereoNC (p : StereoP) : Nat := (p.repX1 - p.repX0) / 256

/-- R164 to R173: phase A of a line. `refIm`, `othIm` are the 12-bit views by line offset (−1, 0, 1) and column; `prev`
is the path store, none where TB and TD start. -/
def stereoPhaseA (p : StereoP) (refIm othIm : Int → Nat → Nat) (prev : Option (List PathRow)) :
    List (List CCol) × List PathRow :=
  let coarse : (Int → Nat → Nat) → Int → Nat → Nat := fun im r x => (im r (2 * x) + im r (2 * x + 1) + 1) / 2
  let rk := fun x => census (coarse refIm) (p.w / 2) x
  let ok := fun x => census (coarse othIm) (p.w / 2) x
  let r := (upFrom 0 (stereoNC p)).map (fun k => stereoWindow p rk ok (stereoW0 p k) (prev.bind (fun l => l[k]?)))
  (r.map (·.1), r.map (·.2))

/-- R177: the height of a pixel, as 16 bits. -/
def stereoHeight (p : StereoP) (disp code : Nat) : Nat :=
  if code = 1 ∨ code = 2 then 0x8000
  else wrapN 16 (clampI (-32767) 32767 (asr (((disp : Int) - p.dref) * p.hk + 32768) 16))

/-- An output pixel after phase B: disparity, code, whether a refinement was made and whether its result was kept. -/
structure SPix where
  disp : Nat
  code : Nat
  deriving DecidableEq, Repr

/-- R176: one refinement. `none`: the coarse result is kept. -/
def stereoRefine (p : StereoP) (refKf othKf : Int → Nat) (xf d : Nat) : Option SPix :=
  let dc := 2 * (p.dmin + d)
  if dc < 8 ∨ (xf : Int) - 10 - dc < 0 ∨ (xf : Int) + 10 - dc > (p.w : Int) - 1 then none
  else
    let bs : List Int := [-2, -1, 0, 1, 2]
    let F : Nat → Nat := fun i =>
      (bs.map (fun b => popcount 26 (refKf (xf + b) ^^^ othKf (xf + b - (dc + i : Nat) + 8)))).foldl (· + ·) 0
    let i := (argMinIf (fun _ => true) F 17).getD 0
    let f1 := F i
    let f2 := minL f1 (((upFrom 0 17).filter (fun k => k + 2 ≤ i || i + 2 ≤ k)).map F)
    if i = 0 ∨ i = 16 ∨ f2 - f1 ≤ p.flat then none
    else some ⟨(((dc + i - 8) * 16 : Nat) + minOff (F (i - 1)) f1 (F (i + 1))).toNat, gradeCode f1 f2⟩

/-- The result of phase B: the output pixels and the counts of R175 to R178. -/
structure StereoOut where
  pix   : List SPix
  nref  : Nat
  nkeep : Nat
  nskip : Nat
  deriving DecidableEq, Repr

/-- R174 to R176: phase B of a line from phase A's columns. -/
def stereoPhaseB (p : StereoP) (refIm othIm : Int → Nat → Nat) (ws : List (List CCol)) : StereoOut :=
  let rk := fun x => census refIm p.w x
  let ok := fun x => census othIm p.w x
  let colOf := fun (xf : Nat) =>
    let k := (xf - p.repX0) / 256
    (((ws[k]?).getD [])[((xf / 2 : Nat) - stereoW0 p k).toNat]?).getD ⟨0, 2, 0⟩
  let n := p.repX1 - p.repX0
  let elig := fun (k : Nat) => if !p.refEn then [] else
    (upFrom (256 * k) 256).filter (fun j => let c := (colOf (p.repX0 + j)).code; 16 ≤ c && c < p.refConf)
  let chosen := (upFrom 0 (stereoNC p)).map (fun k =>
    (sortBy (fun a b => let ca := (colOf (p.repX0 + a)).code; let cb := (colOf (p.repX0 + b)).code
      decide (ca < cb) || (ca = cb && decide (a < b))) (elig k)).take p.refMax)
  let sel := fun (j : Nat) => ((chosen[j / 256]?).getD []).contains j
  let res := (upFrom 0 n).map (fun j =>
    let c := colOf (p.repX0 + j)
    if sel j then (match stereoRefine p rk ok (p.repX0 + j) c.d with
      | some r => (r, false)
      | none => (⟨c.disp, c.code⟩, true))
    else ((⟨c.disp, c.code⟩ : SPix), false))
  let nref := (chosen.map (·.length)).foldl (· + ·) 0
  let nel := ((upFrom 0 (stereoNC p)).map (fun k => (elig k).length)).foldl (· + ·) 0
  { pix := res.map (·.1), nref := nref, nkeep := (res.filter (·.2)).length, nskip := nel - nref }

/-- R178: words 4 to 7 and the planes of an entry. -/
def stereoPayload (p : StereoP) (absent : Bool) (o : StereoOut) : List Byte :=
  let cnt := fun c => (o.pix.filter (fun x => x.code = c)).length
  let w4 := b2n absent * 2 ^ 18 + b2n (o.nskip ≠ 0) * 2 ^ 17 + b2n p.hgtEn * 2 ^ 16 + o.pix.length % 2 ^ 15
  let w5 := (o.nskip % 65536) * 65536 + o.nref % 2048
  let w6 := (cnt 1 % 65536) * 65536 + cnt 0 % 65536
  leBytes 4 w4 ++ leBytes 4 w5 ++ leBytes 4 w6 ++ leBytes 4 (cnt 2 % 65536) ++
  o.pix.flatMap (fun x => leBytes 2 x.disp) ++ o.pix.map (fun x => BitVec.ofNat 8 x.code) ++
  (if p.hgtEn then o.pix.flatMap (fun x => leBytes 2 (stereoHeight p x.disp x.code)) else [])

/-! ## Flow -/

/-- A flow set. -/
structure FlowP where
  vps : Nat
  xs : Nat
  ys : Nat
  fmt : Nat
  g : Nat
  w : Nat
  col0 : Nat
  repX1 : Nat
  repX0 : Nat
  flat : Nat
  useConf : Nat
  minVec : Nat
  deriving DecidableEq, Repr

/-- The set in the registers at `b`. -/
def flowSetOf (r : Nat → Word) (b : Nat) : FlowP :=
  let c := r b; let rp := r (b + 16); let cf := r (b + 20)
  { vps := c.fld 14 12, xs := c.fld 11 8, ys := c.fld 7 4, fmt := c.fld 1 0, g := (r (b + 4)).fld 8 0,
    w := (r (b + 8)).fld 14 0, col0 := (r (b + 12)).fld 19 0, repX1 := rp.fld 30 16, repX0 := rp.fld 14 0,
    flat := cf.fld 31 16, useConf := cf.fld 15 8, minVec := (r (b + 24)).fld 14 0 }

/-- R201. -/
def flowSetOk (p : FlowP) : Bool :=
  p.fmt ≠ 3 && 256 ≤ p.w && p.w ≤ 16384 && p.repX0 < p.repX1 && p.repX1 ≤ p.w && (p.col0 + p.repX0) % 256 = 0 &&
  (p.col0 + p.repX1) % 256 = 0 && (p.repX1 - p.repX0) / 256 ≤ 16 && 1 ≤ p.ys && p.ys ≤ 15 && p.xs ≤ 15 &&
  16 ≤ p.g && p.g ≤ 500 && p.vps ≤ 6 && p.useConf ≥ 16 && p.minVec ≥ 1

/-- A flow vector (R190, R191). -/
structure FVec where
  dy   : Int
  dx   : Int
  code : Nat
  sad  : Nat
  deriving DecidableEq, Repr

/-- R189 to R191: the vector of the v-th reported canonical column. `ub a c` is view B at line m − 7 + a; `ua dy a c` is
view A at line m − G + dy − 7 + a. -/
def flowVec (p : FlowP) (ub : Nat → Nat → Nat) (ua : Int → Nat → Nat → Nat) (v : Nat) : FVec :=
  let xb : Nat := 256 * ((p.col0 + p.repX0) / 256 + v) + 112 - p.col0
  let nx := 2 * p.xs + 1; let ny := 2 * p.ys + 1
  let S : Nat → Nat := fun k =>
    let dy : Int := ((k / nx : Nat) : Int) - p.ys; let dx : Int := ((k % nx : Nat) : Int) - p.xs
    ((upFrom 0 8).flatMap (fun a => (upFrom 0 32).map (fun b =>
      let x := ub a (xb + b); let y := ua dy a ((xb + b : Nat) - dx).toNat
      (x - y) + (y - x)))).foldl (· + ·) 0
  let k := (argMinIf (fun _ => true) S (nx * ny)).getD 0
  let iy := k / nx; let ix := k % nx
  let s1 := S k
  let s2 := minL s1 (((upFrom 0 (nx * ny)).filter (fun j =>
    let jy := j / nx; let jx := j % nx
    decide (jy + 2 ≤ iy ∨ iy + 2 ≤ jy ∨ jx + 2 ≤ ix ∨ ix + 2 ≤ jx))).map S)
  let edgeY := iy = 0 ∨ iy + 1 = ny
  let edgeX := ix = 0 ∨ ix + 1 = nx
  let oy := if edgeY then 0 else minOff (S (k - nx)) s1 (S (k + nx))
  let ox := if edgeX then 0 else minOff (S (k - 1)) s1 (S (k + 1))
  let code := if edgeY ∨ (p.xs > 0 ∧ edgeX) then 2 else if s2 - s1 ≤ p.flat then 0 else gradeCode s1 s2
  { dy := (((iy : Nat) : Int) - p.ys) * 16 + oy, dx := (((ix : Nat) : Int) - p.xs) * 16 + ox, code := code, sad := s1 }

/-- Reported canonical columns of a flow set. -/
def flowNC (p : FlowP) : Nat := (p.repX1 - p.repX0) / 256

/-- R192: words 4 on of a vector entry. -/
def flowPayload (vs : List FVec) (sheafEnd : Bool) (nused : Nat) : List Byte :=
  leBytes 4 (b2n sheafEnd * 65536 + vs.length % 32) ++ leBytes 4 (nused % 32) ++ leBytes 8 0 ++
  vs.flatMap (fun v => leBytes 4 (wrapN 16 v.dy * 65536 + wrapN 16 v.dx) ++ leBytes 4 (v.code * 2 ^ 24 + v.sad % 2 ^ 21))

/-- The accumulators of a logical flow slot (R194). -/
structure FlowAcc where
  sheaf : Nat
  nuse  : Nat
  sumg  : Int
  sumdx : Int
  deriving DecidableEq, Repr

/-- R194: one entry added to the accumulators; `clean` says that the entry carries no mark. Returns the vectors used. -/
def flowAccum (p : FlowP) (acc : FlowAcc) (sheaf : Nat) (clean : Bool) (vs : List FVec) : FlowAcc × Nat :=
  let a := if acc.sheaf = sheaf then acc else ⟨sheaf, 0, 0, 0⟩
  let used := if clean then vs.filter (fun v => v.code ≥ p.useConf) else []
  ({ a with nuse := a.nuse + used.length,
            sumg := a.sumg + (used.map (fun v => ((16 * p.g : Nat) : Int) - v.dy)).foldl (· + ·) 0,
            sumdx := a.sumdx + (used.map (·.dx)).foldl (· + ·) 0 }, used.length)

/-- R195: D_FLOW, X_FLOW and LOWVEC of the accumulators. -/
def flowSummary (p : FlowP) (a : FlowAcc) : Nat × Int × Bool :=
  if a.nuse < p.minVec ∨ a.sumg ≤ 0 then (16384, 0, true)
  else
    let sg := a.sumg.toNat
    ((2 * 16384 * (16 * p.g) * a.nuse + sg) / (2 * sg), roundHalfAway (16384 * a.sumdx) a.sumg, false)

end Sys2Proof.Machine
end

