-- ==== Sys2Proof/Machine/StVision.lean ====
section
/-! DEFINITION. State of the timebase, the camera ports, the front-end lanes and the vision engines (spec/01, 03 to 08),
as plain data. -/

namespace Sys2Proof.Machine

/-! ## Timebase (R19 to R45) -/

/-- A line tick that the timebase has issued and that crosses into the core domain (R28 to R31): its line, the lines missed
before it (R37), the tick phase, LATE, SHEAF_START, and the core cycle of its arrival, which is cycle 0 of its line. -/
structure Flight where
  line   : Nat
  miss   : List Nat
  phase  : Nat
  late   : Bool
  bound  : Bool
  arrive : Nat
  deriving DecidableEq, Repr

/-- The timebase (R19 to R45). -/
structure Tb where
  pos      : Nat
  /-- the 24-bit fraction below bit 0 (R22) -/
  acc      : Nat
  frontier : Nat
  /-- levels of A, B, Z and LTRIG after the filter (R21, R23) -/
  a        : Bool
  b        : Bool
  z        : Bool
  lt       : Bool
  zcount   : Int
  /-- the next Z edge is a first edge (R25) -/
  zfirst   : Bool
  /-- a reverse count since the last Z edge (R25) -/
  zrev     : Bool
  /-- the excursion of R40 has been reported -/
  revDone  : Bool
  /-- Z loss has been reported since the last Z edge (R25) -/
  zlost    : Bool
  /-- arrival, in core cycles, of the last tick issued (R28); none before the first -/
  lastArr  : Option Nat
  /-- timebase cycle of the last tick issued and of the last sheaf boundary (TB_LPERIOD, TB_SHEAF_TIME) -/
  lastTb   : Option Nat
  sheafTb  : Option Nat
  /-- the line of the last tick issued since the enable or the last change of DIR, and its items (R31) -/
  issued   : Option Nat
  phase    : Nat
  late     : Bool
  sheafSt  : Bool
  /-- a tick held under R28: the timebase cycle in which it will be issued -/
  holdTb   : Option Nat
  flight   : Option Flight
  /-- cycle 0 and line of the last tick that has arrived; before the first one the line of the preset position -/
  lastTick : Option Nat
  tickLine : Nat
  /-- core cycle of the last applied count (R34) -/
  lastCount : Nat
  deriving DecidableEq, Repr

/-- A pulse of a trigger output (R32): the timebase cycle of the firing, DELAY, the length in timebase cycles, whether the
output is driven low while it is asserted (POL), and whether it is an apply pulse (R111). It is asserted from cycle
`fired + delay` for `len` cycles. -/
structure Pulse where
  fired : Nat
  delay : Nat
  len   : Nat
  low   : Bool
  apply : Bool
  deriving DecidableEq, Repr

/-- A firing that is due (R32): its line, the timebase cycle in which it falls, and the items of the line's tick (R31). -/
structure Firing where
  line    : Nat
  cyc     : Nat
  phase   : Nat
  late    : Bool
  sheafSt : Bool
  deriving DecidableEq, Repr

/-- A trigger output (R32): the last line it fired for, the firings that are due, oldest first, its pulses that have not ended,
oldest first, the number of its firings, and whether TB_TRIGn_CFG has been written since reset (R523). -/
structure Trig where
  last   : Option Nat
  due    : List Firing
  pulses : List Pulse
  count  : Nat
  cfgd   : Bool
  deriving DecidableEq, Repr

/-! ## Camera ports (R80 to R92) -/

/-- A transfer as a port samples it (R75 to R77, R79): the levels of LVAL, DVAL and FVAL and the 48 data bits. -/
structure CamSample where
  lval : Bool
  dval : Bool
  fval : Bool
  d    : BitVec 48
  deriving DecidableEq, Repr

/-- A line record (R80): the line and its tick items; the trigger output that created it; its reference row, and, once that
row has opened, the core cycle of its cycle 0 (R81); whether its window has opened and its line has started; the stamps of the
line start and of the last transfer kept; the pixels kept and the number received by END_DL; whether a transfer fell in the
suspect interval (R505) and whether the line is past the frame's length (R84). -/
structure CRec where
  line    : Nat
  phase   : Nat
  late    : Bool
  sheafSt : Bool
  out     : Nat
  ref     : Option Nat
  refC    : Option Nat
  opened  : Bool
  started : Bool
  startS  : Nat
  lastS   : Nat
  px      : List Nat
  rcvd    : Nat
  susp    : Bool
  frameL  : Bool
  deriving DecidableEq, Repr

/-- An intake entry (R90): the line, the reference row, the header words, the pixels, the FILL that the port used, and
whether it is complete. -/
structure Intake where
  line : Nat
  ref  : Nat
  hdr  : List Word
  px   : List Nat
  fill : Nat
  done : Bool
  deriving DecidableEq, Repr

/-- A deadline of a port that falls in the present cycle; it closes records after the cycle's line starts (R83). -/
inductive PortClose where
  | none | start | fin
  deriving DecidableEq, Repr

/-- A camera port beyond its registers: unfinished records, oldest first; intake entries; a line is in progress; the level of
FVAL; transfers are discarded up to the line end; EXTRA and FRAME_SHORT for the next entry; lines of the frame; the run of R89;
the deadline that falls in this cycle. -/
structure Port where
  recs    : List CRec
  intake  : List Intake
  lval    : Bool
  fval    : Bool
  discard : Bool
  extra   : Bool
  shortF  : Bool
  frameN  : Nat
  missRun : Nat
  closing : PortClose
  deriving DecidableEq, Repr

/-! ## Front-end lanes (R96 to R117) -/

/-- A head message on the camera control bus (R110): the 7-bit address, the writes left, the apply request and its
pulse width, the sheaf in whose record HEAD_ERR marks it, and whether its pulse comes at the next firing: it is late, or its
set formed at once (R117). -/
structure HeadMsg where
  addr   : Nat
  writes : List Word
  apply  : Bool
  apw    : Nat
  sheaf  : Nat
  late   : Bool
  deriving DecidableEq, Repr

/-- The statistics of a lane for one sheaf (R113, R114). -/
structure LaneStat where
  sheaf   : Nat
  tag     : Nat
  headErr : Bool
  cropOvr : Bool
  lines   : Nat
  sat     : Nat
  clip    : Nat
  hist    : List (Nat × Nat)
  zones   : List (Nat × Nat)
  deriving DecidableEq, Repr

/-- A lane beyond its registers. -/
structure LaneSt where
  /-- temporal state by pixel (U12.4) of the last completed line -/
  tnr     : List Nat
  tnrLine : Option Nat
  /-- pixels of that line that leave a valid state (R101) -/
  tnrOk   : Nat
  msgs    : List HeadMsg
  /-- a HEAD or HEADm field has been written since the last boundary (R110) -/
  headWr  : Bool
  /-- apply pulses asked for and not yet emitted (R111): the line at or after which the firing must be, or none for the next
  firing, and APW -/
  applies : List (Option Nat × Nat)
  stats   : List LaneStat
  /-- captured lines with MALFORMED, by sheaf (R114) -/
  malfs   : List (Nat × Nat)
  headErr : List Nat
  deriving DecidableEq, Repr

/-- The golden image of a lane (R65, R115): its line, settings, tables and temporal state. -/
structure GoldImg where
  px   : List Nat
  set  : LaneP
  ffc  : List Word
  dpc  : List Nat
  gam  : List Nat
  tnr  : List Nat
  fill : Nat
  deriving DecidableEq, Repr

/-! ## Vision engines -/

/-- One stored line of a pyramid level (R130): its number from -2 upwards (line i is number i + 2), its pixels, its header
(chaff fields, MALFORMED, SUSPECT, and the word 2 and tag that R93 would copy), and whether an uncorrectable word entered
it (R273). -/
structure PyrRow where
  num : Nat
  px  : List Nat
  hdr : List Word
  ue  : Bool
  deriving DecidableEq, Repr

/-- The level store of a pyramid (R130): lines of levels 0 to 5 by level, newest first, and the line of the last
completed invocation. Absent lines are not listed (R132). -/
structure PyrSt where
  levels : List (Nat × List PyrRow)
  last   : Option Nat
  deriving DecidableEq, Repr

/-- A line of the coarse store of a logical tuft slot (R141): its pixels, the headers of its input entries, latest line
first, and whether an uncorrectable word entered it. -/
structure TuftRow where
  px   : List Nat
  hdrs : List (List Word)
  ue   : Bool
  deriving DecidableEq, Repr

/-- State of a logical tuft slot (R140): the coarse store, newest first, absent lines not listed; the line of the last
completed invocation; the sheaf the budget counters count for, the REF_BUDGET they started it with (none before the first
invocation), the refinements used in it, by canonical column, and whether FT_BUDGET has been raised for it (R149). -/
structure TuftSt where
  rows  : List TuftRow
  last  : Option Nat
  sheaf : Nat
  load  : Option Nat
  used  : List (Nat × Nat)
  told  : Bool
  deriving DecidableEq, Repr

/-- State of a logical stereo slot (R163): the path store and the line that wrote it; the rest of the run is ABSENT
(R169); an uncorrectable word entered the run; and the run fields (R179): SUSPECT, MALFORMED, the word 2 candidate as
line, word and tag, and the chaff mark. -/
structure StereoSt where
  path  : List PathRow
  last  : Option Nat
  gap   : Bool
  ue    : Bool
  susp  : Bool
  mal   : Bool
  word2 : Option (Nat × Word × Nat)
  chaff : Option (Nat × Nat)
  deriving DecidableEq, Repr

end Sys2Proof.Machine
end

