-- ==== Sys2Proof/Machine/StSys.lean ====
section
/-! DEFINITION. State of the units around the pipeline: supply and clocks, host port, links, configuration loader and
spares, Chombe, record and replay (spec/16 to 22), and the types of what reaches the part as one piece: the content of a
signed object, a link packet, a memory status. Plain data. -/

namespace Sys2Proof.Machine

/-! ## Links (R387 to R410) -/

/-- What a link packet carries (R391). `ctx` is the sender's context (R316). -/
inductive Payload where
  /-- a device-window write (R382): panel or command-ring offset below 2 MiB, the data, and the bytes masked -/
  | regWrite (off : Nat) (data : Word) (keep : Nat)
  /-- a broadcast write (R402): sub-aperture, offset, data, bytes masked -/
  | bcast (g off : Nat) (data : Word) (keep : Nat)
  /-- a remote register read and its answer (R382) -/
  | rrdReq (off : Nat)
  | rrdAns (data : Word)
  /-- a signal (`adv` false) or consumer advance to a physical cell; `host`: from the host aperture -/
  | sync (adv : Bool) (cell : Nat) (k : Int) (ctx : Nat) (host : Bool)
  /-- a forwarded event record (R400) -/
  | event (words : List Word)
  /-- an unreachability notice (R396): the device that could not be reached, what was discarded, its channel, and its numbers by
  destination -/
  | unreach (dev what vc : Nat) (nums : List (Nat × Nat))
  /-- a SAFE record (R399), at most 64 bytes -/
  | safeRec (words : List Word)
  /-- at most 64 bytes of a result record (R391, R398): ring, first and last packet of the record, words -/
  | result (ring : Nat) (first last : Bool) (words : List Word)
  /-- a glume write (R405): slot, window, offset, bytes, sender's context, notifications (virtual cell and k), and the
  tiller and stream slot that send it -/
  | glumeWr (slot win off : Nat) (bytes : List Byte) (ctx : Nat) (notif : List (Nat × Nat)) (rslot strm : Nat)
  /-- a glume read request, its data and its rejection: they name the requesting tiller's stream slot -/
  | glumeRd (slot win off len ctx : Nat) (rslot strm : Nat)
  | glumeData (rslot strm : Nat) (bytes : List Byte)
  | glumeRej (rslot strm cause : Nat)
  /-- a panicle packet (R406): panicle, offset, bytes, first and last packet of its transfer, the increments of the notifications
  that ride on it, the sender's context, and the tiller and stream slot that send it -/
  | panicle (p off : Nat) (bytes : List Byte) (first last : Bool) (incs : List Nat) (ctx rslot strm : Nat)
  deriving DecidableEq, Repr

/-- A packet of a virtual channel (R391, R395): source, destination (64 for one that goes along a tree), channel, and its
sequence number in the triple of each destination. `lost` are numbers of the same triples whose packets have been discarded
(R396, R407); `relay` is the far end of a lost link that a tree packet is on its way to (R394). -/
structure Packet where
  src   : Nat
  dst   : Nat
  vc    : Nat
  nums  : List (Nat × Nat)
  lost  : List (Nat × Nat)
  relay : Option Nat
  body  : Payload
  deriving DecidableEq, Repr

/-- A panicle of the system section (R406). -/
structure Panicle where
  root : Nat
  mask : Nat
  slot : Nat
  win  : Nat
  cell : Nat
  deriving DecidableEq, Repr

/-- This device's receiver of a panicle (R407, R408): dropped for the sheaf, payload of the transfer under way is
discarded, and the cell's value after the last spoiled transfer. -/
structure PnState where
  dropped : Bool
  spoilT  : Bool
  spoil   : Option Nat
  deriving DecidableEq, Repr

/-- What the queues of R407 have passed on by now: packets of the VC3 queue by child link, bytes of the local queue by panicle. -/
structure Drained where
  links : List (Nat × Nat)
  pans  : List (Nat × Nat)
  deriving DecidableEq, Repr

/-- The links (R387 to R401). -/
structure Links where
  /-- unacknowledged packets by link, oldest first (R393) -/
  replay  : List (Nat × List Packet)
  /-- the next sequence number by destination and channel, `dst * 4 + vc`, and the one awaited by source and channel (R395) -/
  txSeq   : List (Nat × Nat)
  rxSeq   : List (Nat × Nat)
  /-- numbers by destination that the next packet must name as discarded: by destination and channel, and from 256 on by tree
  and child link, `256 + root * 4 + link` -/
  lostTx  : List (Nat × List (Nat × Nat))
  /-- numbers that will not come, by source and channel -/
  voidRx  : List (Nat × Nat)
  /-- result records that are coming in parts, by source -/
  parts   : List (Nat × List Word)
  /-- packets that arrived ahead of their turn (R395) -/
  early   : List Packet
  /-- by link, the packet that failed its CRC and whose replay has not arrived yet (R393) -/
  nak     : List (Nat × Packet)
  /-- primary routes of this link are suspended until a sheaf boundary (R394) -/
  alt     : List Nat
  wasUp   : Bool
  /-- system section: route table (primary, alternate) by device, panicles, largest payload by ring -/
  route   : List (Nat × (Nat × Nat))
  pans    : List (Nat × Panicle)
  largest : List (Nat × Nat)
  pn      : List (Nat × PnState)
  /-- packets in the VC3 queue of each child link, of 32, and bytes in the local queue of each panicle, of 4 KiB (R407) -/
  vcq     : List (Nat × Nat)
  pnq     : List (Nat × Nat)
  /-- a remote read is in progress (R382) -/
  rrd     : Bool
  deriving DecidableEq, Repr

/-! ## Host port (R358 to R386) -/

/-- The training and low-power condition of one channel of the port. -/
inductive PortMode where
  | idle | selfRefresh | powerDown | training
  deriving DecidableEq, Repr

/-- The host port beyond its registers. -/
structure HostSt where
  /-- stored mode registers, key `channel * 256 + number` (R361) -/
  modeRegs : List (Nat × Nat)
  port0    : PortMode
  port1    : PortMode
  trained  : Nat
  zq       : Nat
  wrFifo   : List (Nat × List Byte)
  refreshes : Nat
  /-- the last read of each stepping register: offset, core cycle, and the value it returned (R368) -/
  stepC    : List (Nat × Nat × Word)
  /-- TAIL writes not yet eligible, by ring: cycle and value (R370) -/
  tails    : List (Nat × List (Nat × Nat))
  /-- units of frames touched since the last MAP, MAP_ZERO or FLUSH: key `frame * 1024 + unit` (R383) -/
  touched  : List Nat
  /-- operation in progress by frame: 1 MAP, 3 FLUSH, with the GDDR6 base read when it began -/
  frameOp  : List (Nat × (Nat × Nat))
  /-- the model's own: the data that the last read of the port answered (R363) -/
  rdata    : Word
  /-- the same for the last mode register read -/
  mrData   : Nat
  deriving DecidableEq, Repr

/-! ## Configuration (R411 to R435) -/

/-- A partition envelope (R423). Ranges are (first, last). -/
structure Envelope where
  ctx    : Nat
  stage  : Nat × Nat
  check  : Nat × Nat
  out    : Nat × Nat
  ring   : Nat × Nat
  flag   : Nat × Nat
  cell   : Nat × Nat
  rl     : Nat
  pq     : Nat
  rr     : Nat
  unitsF : Nat
  unitsW : Nat
  unitsP : Nat
  unitsT : Nat
  unitsS : Nat
  unitsL : Nat
  unitsK : Nat
  psetW  : Nat
  psetP  : Nat
  psetT  : Nat
  psetS  : Nat
  psetL  : Nat
  shCyc  : Nat × Nat
  demand : Nat × Nat
  deriving DecidableEq, Repr

/-- The SYSTEM section (R415). -/
structure SystemSec where
  xdim    : Nat
  ydim    : Nat
  sysId   : Word
  route   : List (Nat × (Nat × Nat))
  groups  : List (Nat × Nat)
  pans    : List (Nat × Panicle)
  largest : List (Nat × Nat)
  deriving DecidableEq, Repr

/-- The SCHEDULE section: header, tables, list settings (RLn_CFG words) and patch-queue bindings. -/
structure SchedSec where
  lag    : Nat
  gold   : Nat
  demand : Nat × Nat
  sched  : Sched
  lists  : List (Nat × Word)
  pqs    : List (Nat × PQueue)
  deriving DecidableEq, Repr

/-- The SYNC section: cells, translation entries (key `ctx * 1024 + vid`), RT flags by context. -/
structure SyncSec where
  cells : List (Nat × Cell)
  vt    : List (Nat × Word)
  rt    : List (Nat × Bool)
  deriving DecidableEq, Repr

/-- A FIRMWARE section (R218): logical-slot mask, version, image. -/
structure FwSec where
  mask  : Nat
  ver   : Word
  image : List Byte
  deriving DecidableEq, Repr

/-- A CALIB section: one table of a lane (lane, TBL_ADDR select, data words from index 0) or a warp mesh bank. -/
inductive CalibSec where
  | lane (n sel : Nat) (data : List Word)
  | mesh (bank : Nat) (data : List Word)
  deriving DecidableEq, Repr

/-- The GOLDEN section (R65, R115): lane images by lane, engine parameter sets by register offset. -/
structure GoldSec where
  lanes : List (Nat × GoldImg)
  sets  : List (Nat × Word)
  deriving DecidableEq, Repr

/-- The sections of an object whose layout the spec does not give (DESIGN CHOICE, log entry 12), as the loader reads
them. `bad` names the first section that breaks a content rule of its owning chapter that the model does not check by
itself (R416 reason 7). -/
structure Content where
  bad    : Option Nat
  system : Option SystemSec
  envs   : List (Nat × Envelope)
  sched  : Option SchedSec
  sync   : Option SyncSec
  fw     : List FwSec
  param  : List (Nat × Word)
  calib  : List CalibSec
  glume  : List (Nat × Word)
  arb    : List (Nat × Word)
  gold   : Option GoldSec
  deriving DecidableEq, Repr

/-- How far the loader has come with an object (R416, R453): it begins to verify, it has verified and begins to write, it ends, with
the first checker of the latent-fault test that did not respond. -/
inductive LoadStep where
  | verify
  | write
  | ended (lft : Option Nat)
  deriving DecidableEq, Repr

/-- How far boot has come (R502): it enters a stage, the base being written already or not, or it ends, as the loader does. -/
inductive BootStep where
  | stage (n : Nat) (writing : Bool)
  | ended (lft : Option Nat)
  deriving DecidableEq, Repr

/-- An object that is being loaded (R416): its address and length, whether a unit of it could not be read, and its content once every
check has passed. -/
structure LoadJob where
  addr : Nat
  len  : Nat
  bad  : Bool
  con  : Option Content
  deriving DecidableEq, Repr

/-- A READY partial: partition, version, content, hash (R416, R419). -/
structure ReadyPart where
  part : Nat
  ver  : Word
  con  : Content
  hash : List Byte
  deriving DecidableEq, Repr

/-- A spare or unit (R421 to R432). STATE codes of CFG_UNIT_INFO: 0 OFF, 1 ACTIVE, 2 SPARE, 3 FENCED, 4 DRAINING,
5 CLEARING; `since` is the cycle in which it began to drain or to be cleared, `was` the logical slot that its packets carry with its
epoch (R429), which it keeps until it is cleared; 0x3F where none. -/
structure UnitSt where
  st    : Nat
  epoch : Nat
  slot  : Nat
  since : Nat
  was   : Nat
  deriving DecidableEq, Repr

/-- A logical slot that waits for a spare (R430, R431): class, slot, the cycle of the declaration or SWAP, the cycle from
which its 1 250 cycles count (none while no unit is SPARE), the unit that served it, and whether it waits for a SWAP. -/
structure SpareWait where
  cls  : Nat
  slot : Nat
  decl : Nat
  c    : Option Nat
  old  : Nat
  swap : Bool
  deriving DecidableEq, Repr

/-- An old schedule bank (R426, R427): the partition, its schedule, the first line of the cutover sheaf, and the row in
whose cycle 0 it is released. -/
structure OldBank where
  part  : Nat
  sched : Sched
  s     : Nat
  rel   : Nat
  deriving DecidableEq, Repr

/-- The loader, partitions, keys, identity and spares. -/
structure CfgSt where
  /-- an object is being loaded (R416) -/
  loading  : Option LoadJob
  ready    : Option ReadyPart
  /-- COMMIT given: target sheaf (none for COMMIT_NEXT) and the cycle of the command -/
  commit   : Option (Option Nat × Nat)
  envs     : List (Nat × Envelope)
  old      : List OldBank
  keyHash  : List (Nat × List Byte)
  baseHash : List Byte
  unitHash : List Byte
  partHash : List (Nat × List Byte)
  idHash   : List Byte
  nonce    : List Byte
  units    : List (Nat × UnitSt)
  epochs   : List (Nat × Nat)
  waits    : List SpareWait
  /-- fences whose cycle d + 17 has not come: class, slot, physical unit, d -/
  fences   : List (Nat × Nat × Nat × Nat)
  /-- logical tiller slots marked for a new image; physical tillers being reloaded, with the cycle in which that began (R425) -/
  marked   : List Nat
  reload   : List (Nat × Nat)
  /-- image length and version by logical slot; the images themselves stand in the staging store -/
  imgs     : List (Nat × (Nat × Word))
  /-- a base schedule was tested and holds a SAFETY entry, a COMPARE entry -/
  gold     : Option GoldSec
  deriving DecidableEq, Repr

/-! ## Chombe (R436 to R465) -/

/-- The safety island beyond its registers. -/
structure SafeSt where
  /-- requests latched and not yet detected: cause and ARG -/
  req     : List (Nat × Nat)
  /-- core cycle of the last detection, while in SAFE -/
  since   : Option Nat
  /-- rows that opened at or before this cycle still carry CAUSE SAFE after a CLEAR (R462) -/
  tillC   : Option Nat
  /-- consecutive window violations by stage (R450) -/
  wdog    : List (Nat × Nat)
  /-- conditions that have ended are removed; those in force block CLEAR: cause and item -/
  cond    : List (Nat × Nat)
  clkSeen : Bool
  /-- a golden request is being served by the golden run of this reference line (R448) -/
  greq    : Option Nat
  greqRow : Nat
  deriving DecidableEq, Repr

/-! ## Record and replay (R466 to R479) -/

/-- The recorder and replayer. -/
structure DbgSt where
  /-- TYPE masks latched at the start -/
  mask   : Nat
  cam    : Nat
  /-- records waiting in the 64 KiB queue -/
  queue  : List (List Byte)
  wrOff  : Nat
  wraps  : Nat
  lost   : Nat
  midrun : Bool
  rdOff  : Nat
  /-- DIGEST records of the recording not yet compared, by ring: CRC and line -/
  digPos : List (Nat × Nat)
  /-- ports with CAM records in the recording -/
  ports  : List Nat
  deriving DecidableEq, Repr

/-! ## Supply, clocks, boot (R494 to R512) -/

/-- The always-on domain beyond its registers. -/
structure Pwr where
  /-- the core-cycle count CCY (R466) -/
  ccy      : Nat
  /-- the core clock runs -/
  core     : Bool
  /-- PORST_N is low, or a rail below its reset level: the part is held in reset -/
  held     : Bool
  /-- the host port has left high impedance (R500, R523) -/
  port     : Bool
  /-- device number as sampled (R387, R524) -/
  devid    : Nat
  /-- levels of the balls SYS_DEVID as a command last gave them (R524) -/
  straps   : Nat
  /-- the rail whose fall caused the last cold reset, until the part is started again (R503, R521) -/
  low      : Option Nat
  /-- the suspect interval runs (R504) -/
  suspect  : Bool
  dipReq   : Bool
  dipTicks : Nat
  /-- the cycles in which the last dip began and ended (R504, R506) -/
  dipC     : Nat
  dipEndC  : Nat
  /-- domains being woken now, at most four (R508) -/
  wakeQ    : List Nat
  /-- writes of 1 received while WAKING (R508) -/
  offLater : List Nat
  /-- the cycle in which the zero-fill of a bank group began, key `tiller * 4 + group` (R510) -/
  fillC    : List (Nat × Nat)
  /-- the model's own: a warm reset was taken in the command being executed -/
  fresh    : Bool
  deriving DecidableEq, Repr

/-- GDDR6 state beyond its bytes (R480 to R493): poisoned units, units whose corrected data waits for a write-back,
next bank to refresh by channel, translation invalidation under way. -/
structure MemSt where
  poison  : List Nat
  wback   : List Nat
  grScrub : List Nat
  refresh : List (Nat × Nat)
  hot     : List Nat
  deriving DecidableEq, Repr

/-- The status with which a memory unit returns (R484, R254, R271). -/
inductive EccStat where
  | clean | corrected | uncorrectable | crc
  deriving DecidableEq, Repr

/-- An event raised and not yet taken by the thresher (R400): CODE, ARG and whether it requested the safe state; a
forwarded record keeps its four words. -/
structure Ev where
  code : Nat
  arg  : Nat
  safe : Bool
  fwd  : Option (List Word)
  deriving DecidableEq, Repr

/-- What the core cycle now in progress has seen, and is settled when it ends: register bits that units have set (a W1C write
leaves them set, R369), ripe flags written (R51, R276), operations on their way to cells (R321), tillers whose wait was issued
in it, TPULLs granted (R339), requests for the safe state latched (R462), the link or the channel of the command now acting, and what has
been counted once in it (R471). -/
structure Now where
  bits   : List (Nat × Nat)
  flags  : List FlagNow
  ops    : List CellOp
  waits  : List Nat
  grants : Nat
  reqs   : List (Nat × Nat)
  via    : Nat
  once   : List Nat
  deriving DecidableEq, Repr

/-- What the part does at a ball (R523): nothing (high impedance), an open-drain ball let go, a level, electrical idle, or the
signalling of its interface. -/
inductive Level where
  | z | released | low | high | idle | active
  deriving DecidableEq, Repr

/-- The balls of R523 beside SAFE_N and HOST_ATTN_N: TRIG0 to TRIG7, CPn_SCL with CPn_SDA of each port, FL_RESET_N with the balls
of the flash, the transmitters of the links, the outputs of the host port. -/
structure Balls where
  trig  : List Level
  cpBus : List Level
  flash : Level
  tx    : List Level
  host  : Level
  deriving DecidableEq, Repr

/-- What the thresher and the pins show: the event ring by index (R378), the next sequence number, HOST_ATTN_N, SAFE_N and the
other balls (R521, R523), a member's forwarding queue and its losses (R401). -/
structure Published where
  ring   : List (Nat × List Word)
  seq    : Nat
  attnN  : Level
  safeN  : Level
  balls  : Balls
  fwdQ   : List (List Word)
  lost   : Nat
  deriving DecidableEq, Repr

end Sys2Proof.Machine
end

