-- ==== Sys2Proof/Syntax.lean ====
section
/-! DEFINITION. The commands of the block: one constructor per row of spec/opcode_table.json. The first operand `c` of
every command is the core cycle CCY (R466) in which the event that it names happens; the other operands are what the
event brings from outside, or the operand fields of a firmware instruction. The table gives its rows no bits. -/

namespace Sys2Proof

open Machine

/-- FP32 arithmetic of two operands (R213). -/
inductive FpOp where
  | add | sub | mul | min | max
  deriving DecidableEq, Repr

/-- Integer and logic operations of two operands (R213). -/
inductive IntOp where
  | add | sub | mul | and | or | xor | shl | shr
  deriving DecidableEq, Repr

/-- Comparison of VCMP. -/
inductive CmpOp where
  | eq | ne | lt | le | ltu | leu
  deriving DecidableEq, Repr

/-- Special functions (R214). -/
inductive SfuOp where
  | exp | exp2 | rcp | rsqrt | sqrt
  deriving DecidableEq, Repr

/-- Reductions (R215). -/
inductive RedOp where
  | sum | max | min
  deriving DecidableEq, Repr

/-- A vector instruction (R213). `vd`, `va`, `vb`, `vc` are vector registers; `x` is a core register. -/
inductive VInsn where
  | fp (op : FpOp) (vd va vb : Nat)
  | fma (vd va vb vc : Nat)
  | abs (vd va : Nat)
  | neg (vd va : Nat)
  | int (op : IntOp) (sat : Bool) (vd va vb : Nat)
  | cmp (op : CmpOp) (vd va vb : Nat)
  | sel (vd va vb vc : Nat)
  /-- conversion between two formats of R206's code table -/
  | cvt (src dst vd va : Nat)
  | red (op : RedOp) (vd va : Nat)
  | sfu (op : SfuOp) (vd va : Nat)
  | ld (vd x : Nat)
  | st (vs x : Nat)
  /-- one accumulator row, named by a core register, into a vector register -/
  | acc (vd x : Nat)
  /-- enable the lanes below the count in a core register -/
  | mask (x : Nat)
  deriving DecidableEq, Repr

/-- A control-core load or store (R254, R256): `size` bytes 1, 2 or 4; base register and signed displacement. -/
inductive MemOp where
  | load (size : Nat) (signed : Bool) (xd xa : Nat) (disp : Int)
  | store (size : Nat) (xs xa : Nat) (disp : Int)
  deriving DecidableEq, Repr

/-- A request of class REMOTE at an arbitration point (R297, R298): the cycle in which it came to the point, its arrival port, and
whether it is a write of the recording ring. -/
structure RemReq where
  arr      : Nat
  port     : Nat
  recorder : Bool
  deriving DecidableEq, Repr

/-- A sample of A and B (R21): its core cycle, and for how many timebase cycles A and B have been at their levels, which the input
filter compares (R23). -/
structure Sampled where
  cycle : Nat
  heldA : Nat
  heldB : Nat
  deriving DecidableEq, Repr

/-- A rise of Z or LTRIG before the filter: for how many timebase cycles the input was low before it and has been high since
(R23). -/
structure Rise where
  low  : Nat
  high : Nat
  deriving DecidableEq, Repr

/-- A sample with a rise of Z (R25). -/
structure ZSampled where
  sample : Sampled
  rise   : Rise
  deriving DecidableEq, Repr

/-- A sample with a rise of LTRIG (R26). -/
structure LSampled where
  cycle : Nat
  rise  : Rise
  deriving DecidableEq, Repr

/-- A register operand of an instruction that reads the scratchpad, and the words in error that its reads meet, by byte address (R255). -/
structure ReadOp where
  reg  : Nat
  errs : List (Nat × EccStat)
  deriving DecidableEq, Repr

/-- A vector bundle (R212), and the scratchpad words in error that it meets, by byte address (R255). -/
structure Bundle where
  insns : List VInsn
  errs  : List (Nat × EccStat)
  deriving DecidableEq, Repr

/-- An engine's end in a physical tiller, and the scratchpad words in error that the engine meets, by byte address (R255). -/
structure EngineEnd where
  tiller : Nat
  errs   : List (Nat × EccStat)
  deriving DecidableEq, Repr

/-- The words in error that a DMA unit meets in its own scratchpad and at the far side (R255, R273, R484), and what the queues of
panicle packets have passed on by now (R407). -/
structure NearFar where
  near : List (Nat × EccStat)
  far  : List (Nat × EccStat)
  gone : Drained
  deriving DecidableEq, Repr

/-- A packet, and the words in error that serving it meets, by byte address (R255). -/
structure PacketIn where
  packet : Packet
  errs   : List (Nat × EccStat)
  deriving DecidableEq, Repr

/-- A packet at its arrival (R391 to R396), what the queues of R407 have passed on by now, and the words in error that serving it
meets. -/
structure LinkPacket where
  packet : Packet
  gone   : Drained
  errs   : List (Nat × EccStat)
  deriving DecidableEq, Repr

/-- A link, and how many of the oldest packets of its replay buffer the far end has acknowledged by now (R393). -/
structure LinkAck where
  link  : Nat
  acked : Nat
  deriving DecidableEq, Repr

/-- A camera port and the sample of its inputs (R77, R79). -/
structure PortSample where
  port   : Nat
  sample : CamSample
  deriving DecidableEq, Repr

/-- A rail below its reset level (R503), and the levels of the balls SYS_DEVID when the reset that it causes ends (R524). -/
structure RailFall where
  rail   : Nat
  straps : Nat
  deriving DecidableEq, Repr

/-- A write to PWR_CTRL (R498), and the levels of the balls SYS_DEVID as a warm reset samples them (R524). -/
structure CtrlWrite where
  word   : Word
  straps : Nat
  deriving DecidableEq, Repr

/-- The cycle of a debug-port reset (R498), and the levels of the balls SYS_DEVID as it samples them (R524). -/
structure ResetAt where
  cyc    : Nat
  straps : Nat
  deriving DecidableEq, Repr

/-- The word that an access names: a window offset of the host port, or the offset of a panel register that the debug port
reaches (R525). -/
structure AccessAt where
  off   : Nat
  debug : Bool
  deriving DecidableEq, Repr

/-- The commands of the block. -/
inductive Instr where
  /-- PORST: R498: PORST_N has been low for 1 µs. -/
  | porst (c : Nat)
  /-- SUPPLY_RESET: R498, R503: rail code of the supply below its reset level. -/
  | supplyReset (c : Nat) (fall : RailFall)
  /-- WARM_RESET: R498: a write to PWR_CTRL. -/
  | warmReset (c : Nat) (w : CtrlWrite)
  /-- DEBUG_RESET: R498: the debug-port reset instruction. -/
  | debugReset (at_ : ResetAt)
  /-- ALIGNMENT_PULSE: R496. -/
  | alignmentPulse (c : Nat)
  /-- PLL_LOCK_LOSS: R497: bit of CLK_STATUS.LOCK that lost lock; 6 is REFCLK. -/
  | pllLockLoss (c : Nat) (pll : Nat)
  /-- BOOT_DONE: R501, R502: the flash, the PUF reading, the base content, how far boot has come. -/
  | bootDone (c : Nat) (flash puf : List Byte) (con : Content) (step : BootStep)
  /-- DIP_START: R504. -/
  | dipStart (c : Nat)
  /-- DIP_END: R504. -/
  | dipEnd (c : Nat)
  /-- SUSPECT_INTERVAL_END: R504. -/
  | suspectIntervalEnd (c : Nat)
  /-- BROWNOUT_TMAX: R506. -/
  | brownoutTmax (c : Nat)
  /-- VCORE_MEASURE: R512: measured VDD_CORE in mV. -/
  | vcoreMeasure (c : Nat) (mv : Nat)
  /-- CLK_FREQ_MEASURE: R512: clock q, frequency in 100 kHz. -/
  | clkFreqMeasure (c : Nat) (q f : Nat)
  /-- ENCODER_COUNT: R21 to R24: the levels of A and B in the new sample. -/
  | encoderCount (c : Sampled) (a b : Bool)
  /-- Z_EDGE: R25: a rising edge on Z, with the levels of A and B in the same sample. -/
  | zEdge (c : ZSampled) (a b : Bool)
  /-- LTRIG_EDGE: R26. -/
  | ltrigEdge (c : LSampled)
  /-- STOP: R34. -/
  | stop (c : Nat)
  /-- ENC_LOSS: R42: 0 A, 1 B, 2 LTRIG. -/
  | encLoss (c : Nat) (pair : Nat)
  /-- TB_ENABLE: R34, R45: the word written to TB_CTRL. -/
  | tbEnable (c : Nat) (w : Word)
  /-- TB_DISABLE: R42, R45: the word written to TB_CTRL. -/
  | tbDisable (c : Nat) (w : Word)
  /-- TB_DIR_CHANGE: R41: the word written to TB_CTRL. -/
  | tbDirChange (c : Nat) (w : Word)
  /-- TB_SRC_CHANGE: R45: the word written to TB_CTRL. -/
  | tbSrcChange (c : Nat) (w : Word)
  /-- LINE_TICK: R28 to R31: the tick arrives in the core domain; this is cycle 0 of its line. -/
  | lineTick (c : Nat)
  /-- TRIGGER_FIRE: R32: output n fires for the frontier line. -/
  | triggerFire (c : Nat) (n : Nat)
  /-- SLOT_OPEN: R46 to R59: cycle START of the stage in the row now open. -/
  | slotOpen (c : Nat) (stage : Nat)
  /-- SLOT_CLOSE: R47, R56. -/
  | slotClose (c : Nat) (stage line : Nat)
  /-- STAGE_HUNG: R56. -/
  | stageHung (c : Nat) (stage line : Nat)
  /-- STAGE_COMPLETE: R48, R273: with the Granary words that returned in error, by byte address. -/
  | stageComplete (c : Nat) (stage line : Nat) (errs : List (Nat × EccStat))
  /-- STEREO_PHASE_A_DONE: R162 to R174, R273: with the Granary words that returned in error, by byte address. -/
  | stereoPhaseADone (c : Nat) (stage line : Nat) (errs : List (Nat × EccStat))
  /-- LANE_STATS_DONE: R113, R114: the record of lane n's oldest finished sheaf. -/
  | laneStatsDone (c : Nat) (n : Nat)
  /-- COMMAND_SCAN: R68, R370 to R373. -/
  | commandScan (c : Nat)
  /-- CMD_NOP: R373: the oldest due descriptor, a NOP. -/
  | cmdNop (c : Nat)
  /-- CMD_WRITE32: R373. -/
  | cmdWrite32 (c : Nat)
  /-- CMD_SIGNAL: R373. -/
  | cmdSignal (c : Nat)
  /-- CMD_MARK: R373. -/
  | cmdMark (c : Nat)
  /-- CMD_GOLDEN_REQ: R373, R448. -/
  | cmdGoldenReq (c : Nat)
  /-- SEQ_ENABLE: R74: the word written to SEQ_CTRL. -/
  | seqEnable (c : Nat) (w : Word)
  /-- SEQ_HALT: R74: the word written to SEQ_CTRL. -/
  | seqHalt (c : Nat) (w : Word)
  /-- DUP_MISMATCH: R70. -/
  | dupMismatch (c : Nat)
  /-- TBL_ECC_ERROR: R71: rachis copy, uncorrectable. -/
  | tblEccError (c : Nat) (copy : Nat) (ue : Bool)
  /-- ING_DUP: R451: ARG code of the duplicated logic that differs (R530). -/
  | ingDup (c : Nat) (item : Nat)
  /-- LINE_START: R77, R79, R83: port n, the sample with its first transfer. -/
  | lineStart (c : Nat) (n : Nat) (x : Machine.CamSample)
  /-- LINE_END: R79, R83: the port, and the sample in which LVAL is low. -/
  | lineEnd (c : Nat) (n : PortSample)
  /-- WINDOW_OPEN: R82, R83. -/
  | windowOpen (c : Nat) (n : Nat)
  /-- START_DEADLINE: R84. -/
  | startDeadline (c : Nat) (n : Nat)
  /-- END_DEADLINE: R84, R85. -/
  | endDeadline (c : Nat) (n : Nat)
  /-- FVAL_FALL: R87. -/
  | fvalFall (c : Nat) (n : Nat)
  /-- CP_CLK_LOSS: R88. -/
  | cpClkLoss (c : Nat) (n : Nat)
  /-- CP_CLK_BACK: R88. -/
  | cpClkBack (c : Nat) (n : Nat)
  /-- HEAD_WRITE_DONE: R110. -/
  | headWriteDone (c : Nat) (n : Nat)
  /-- HEAD_NACK: R110. -/
  | headNack (c : Nat) (n : Nat)
  /-- FE_TBL_DATA_WRITE: R112. -/
  | feTblDataWrite (c : Nat) (n : Nat) (w : Word)
  /-- FE_TBL_DATA_READ: R112. -/
  | feTblDataRead (c : Nat) (n : Nat)
  /-- WP_MESH_DATA_WRITE: R128. -/
  | wpMeshDataWrite (c : Nat) (w : Word)
  /-- WP_MESH_DATA_READ: R128. -/
  | wpMeshDataRead (c : Nat)
  /-- FT_PAT_DATA_READ: R146. -/
  | ftPatDataRead (c : Nat)
  /-- GRN_FLAG_DATA_READ: R277. -/
  | grnFlagDataRead (c : Nat)
  /-- SYNC_VT_DATA_READ: R330. -/
  | syncVtDataRead (c : Nat)
  /-- TSLOT: R205, R219: physical tiller, instruction address, destination register. -/
  | tslot (c : Nat) (t pc xd : Nat)
  /-- TPULL: R220, R338. -/
  | tpull (c : Nat) (t pc : Nat) (xs : ReadOp)
  /-- TASK_GRANT: R339: the grant that the dispatcher makes next. -/
  | taskGrant (c : Nat)
  /-- TDONE: R221. -/
  | tdone (c : Nat) (t pc : Nat)
  /-- TASK_COMPLETE: R221, R222. -/
  | taskComplete (c : Nat) (t : Nat)
  /-- TABORT: R222. -/
  | tabort (c : Nat) (t pc : Nat)
  /-- MMA: R208, R210. -/
  | mma (c : Nat) (t pc : Nat) (xs : ReadOp)
  /-- ARRAY_OP_COMPLETE: R207, R209. -/
  | arrayOpComplete (c : Nat) (t : EngineEnd)
  /-- MWAIT: R210. -/
  | mwait (c : Nat) (t pc : Nat)
  /-- VECTOR_BUNDLE: R212 to R215. -/
  | vectorBundle (c : Nat) (t pc : Nat) (insns : Bundle)
  /-- CORE_LOAD_STORE: R254 to R264: one load or store, with the scratchpad words, or the units of GDDR6, that returned in error. -/
  | coreLoadStore (c : Nat) (t pc : Nat) (op : MemOp) (errs : List (Nat × EccStat))
  /-- TRW: R217: width code 0 8, 1 16, 2 32 bits. -/
  | trw (c : Nat) (t pc vs width : Nat) (high : Bool)
  /-- TRR: R217. -/
  | trr (c : Nat) (t pc vd width : Nat)
  /-- HDRMRG: R223. -/
  | hdrmrg (c : Nat) (t pc xd xs1 : Nat) (xs2 : ReadOp)
  /-- WCHAIN: R225. -/
  | wchain (c : Nat) (t pc : Nat) (xs : ReadOp)
  /-- WCHAIN_COMPLETE: R225: member tiller. -/
  | wchainComplete (c : Nat) (t : Nat)
  /-- PATCH: R228 to R231. -/
  | patch (c : Nat) (t pc : Nat) (xs : ReadOp)
  /-- SSIG: R317. -/
  | ssig (c : Nat) (t pc xd xv xs : Nat)
  /-- SCONS: R317. -/
  | scons (c : Nat) (t pc xd xv xs : Nat)
  /-- SWAIT: R317. -/
  | swait (c : Nat) (t pc xd xv xs mode : Nat)
  /-- SBAR: R310, R317. -/
  | sbar (c : Nat) (t pc xd xv : Nat)
  /-- SREAD: R317. -/
  | sread (c : Nat) (t pc xd xv sel : Nat)
  /-- WAIT_RELEASE: R312, R322. -/
  | waitRelease (c : Nat) (t : Nat)
  /-- FTEST: R277. -/
  | ftest (c : Nat) (t pc xd xs : Nat)
  /-- FWAIT: R277. -/
  | fwait (c : Nat) (t pc xs : Nat)
  /-- FCLR: R277. -/
  | fclr (c : Nat) (t pc xs : Nat)
  /-- FSET: R277. -/
  | fset (c : Nat) (t pc xs : Nat)
  /-- SARM: R281 to R287. -/
  | sarm (c : Nat) (t pc xd : Nat) (xs : ReadOp) (slot : Nat)
  /-- SREARM: R295. -/
  | srearm (c : Nat) (t pc xd : Nat) (xs : ReadOp) (slot : Nat)
  /-- SQUERY: R281. -/
  | squery (c : Nat) (t pc xd slot : Nat)
  /-- SRESUME: R281, R304. -/
  | sresume (c : Nat) (t pc ch e : Nat)
  /-- SDISARM: R281. -/
  | sdisarm (c : Nat) (t pc slot : Nat)
  /-- MFILL: R263: registers of destination, length and constant. -/
  | mfill (c : Nat) (t pc xd xn xw : Nat)
  /-- MCOPY: R263: registers of destination, length and source. -/
  | mcopy (c : Nat) (t pc xd xn xs : Nat)
  /-- FILL_COPY_COMPLETE: R263. -/
  | fillCopyComplete (c : Nat) (t : EngineEnd)
  /-- DMA_START: R280. -/
  | dmaStart (c : Nat) (t slot : Nat)
  /-- ARB_GRANT: R297 to R299: a grant opportunity at an arbitration point, with the requests of class REMOTE that wait there. -/
  | arbGrant (c : Nat) (rem : List RemReq) (point : Nat)
  /-- DMA_UNIT_DONE: R292, R294: the next far-side unit, the words in error, and the bytes a glume read brings. -/
  | dmaUnitDone (c : Nat) (t slot : Nat) (ecc : NearFar) (data : List Byte)
  /-- DMA_COMPLETE: R294, R295. -/
  | dmaComplete (c : Nat) (t slot : Nat)
  /-- DMA_RESUME_WRITE: R304: the word written to DMA_t_RESUME. -/
  | dmaResumeWrite (c : Nat) (t : Nat) (w : Word)
  /-- SCRUB_WRITE: R255, R273: physical tiller (36: the Granary) and address of the corrected word. -/
  | scrubWrite (c : Nat) (t a : Nat)
  /-- CACHE_RESIZE: R265. -/
  | cacheResize (c : Nat) (t : Nat)
  /-- CACHE_RESIZE_DONE: R265. -/
  | cacheResizeDone (c : Nat) (t : Nat)
  /-- GLUME_REQUEST: R267, R405. -/
  | glumeRequest (c : Nat) (p : PacketIn)
  /-- SYNC_CELL_APPLY: R328. -/
  | syncCellApply (c : Nat)
  /-- SYNC_CELL_LOAD: R328. -/
  | syncCellLoad (c : Nat)
  /-- CONTEXT_RESET: R324. -/
  | contextReset (c : Nat) (ctx : Nat)
  /-- SYNC_ECC_ERROR: R311. -/
  | syncEccError (c : Nat) (cell : Nat)
  /-- DSP_CLR_WAIT: R344. -/
  | dspClrWait (c : Nat) (list : Nat)
  /-- DSP_CLR_HWM: R344. -/
  | dspClrHwm (c : Nat) (list : Nat)
  /-- HOST_READ: R359, R363, R365, R525: a 32-bit word of the window, or a register through the debug port. -/
  | hostRead (c : Nat) (at_ : AccessAt)
  /-- HOST_WRITE: R365, R366. -/
  | hostWrite (c : Nat) (at_ : AccessAt) (data : Word)
  /-- HOST_MASKED_WRITE: R366: bit i of the mask keeps byte i unwritten. -/
  | hostMaskedWrite (c : Nat) (off : Nat) (data : Word) (mask : Nat)
  /-- MODE_REGISTER_WRITE: R361, R362. -/
  | modeRegisterWrite (c : Nat) (ch mr v : Nat)
  /-- MODE_REGISTER_READ: R361. -/
  | modeRegisterRead (c : Nat) (ch mr : Nat)
  /-- HOST_REFRESH: R364. -/
  | hostRefresh (c : Nat) (ch : Nat)
  /-- SELF_REFRESH_ENTRY: R364. -/
  | selfRefreshEntry (c : Nat) (ch : Nat)
  /-- SELF_REFRESH_EXIT: R364. -/
  | selfRefreshExit (c : Nat) (ch : Nat)
  /-- POWER_DOWN_ENTRY: R364. -/
  | powerDownEntry (c : Nat) (ch : Nat)
  /-- POWER_DOWN_EXIT: R364. -/
  | powerDownExit (c : Nat) (ch : Nat)
  /-- ZQ_CALIBRATION: R358, R361. -/
  | zqCalibration (c : Nat) (ch : Nat)
  /-- COMMAND_BUS_TRAINING: R358. -/
  | commandBusTraining (c : Nat) (ch : Nat)
  /-- WCK2CK_LEVELLING: R358. -/
  | wck2ckLevelling (c : Nat) (ch : Nat)
  /-- READ_DQ_CALIBRATION: R358. -/
  | readDqCalibration (c : Nat) (ch : Nat)
  /-- WRITE_FIFO: R358. -/
  | writeFifo (c : Nat) (ch : Nat) (data : List Byte)
  /-- HOST_RESET_N: R360. -/
  | hostResetN (c : Nat)
  /-- MIRROR_UPDATE: R367: panel offset. -/
  | mirrorUpdate (c : Nat) (off : Nat)
  /-- CR_TAIL_WRITE: R370. -/
  | crTailWrite (c : Nat) (ring : Nat) (w : Word)
  /-- SYNC_APERTURE_WRITE: R380: window offset. -/
  | syncApertureWrite (c : Nat) (off : Nat) (data : Word)
  /-- BROADCAST_WRITE: R381, R402: window offset. -/
  | broadcastWrite (c : Nat) (off : Nat) (data : Word)
  /-- DEVICE_WINDOW_WRITE: R382: window offset. -/
  | deviceWindowWrite (c : Nat) (off : Nat) (data : Word)
  /-- REMOTE_READ: R382: the word written to HOST_RRD_CMD. -/
  | remoteRead (c : Nat) (w : Word)
  /-- REMOTE_READ_DONE: R382. -/
  | remoteReadDone (c : Nat) (ok : Bool) (data : Word)
  /-- FRAME_MAP: R383. -/
  | frameMap (c : Nat) (f : Nat)
  /-- FRAME_MAP_ZERO: R383. -/
  | frameMapZero (c : Nat) (f : Nat)
  /-- FRAME_FLUSH: R383. -/
  | frameFlush (c : Nat) (f : Nat)
  /-- FRAME_UNMAP: R383. -/
  | frameUnmap (c : Nat) (f : Nat)
  /-- FRAME_OP_DONE: R383, R484: words of GDDR6 that returned in error, by byte address. -/
  | frameOpDone (c : Nat) (f : Nat) (errs : List (Nat × EccStat))
  /-- LINK_UP: R389: link, far device and its SYS_ID. -/
  | linkUp (c : Nat) (l dev : Nat) (sysId : Word)
  /-- LINK_DOWN: R394: the link, and what its far end had acknowledged. -/
  | linkDown (c : Nat) (l : LinkAck)
  /-- LINK_RETRAIN: R394, R410: the word written to LNK_CTRL. -/
  | linkRetrain (c : Nat) (w : Word)
  /-- LINK_PACKET_ARRIVAL: R391 to R396: the link and the acknowledgements that came with the packet, and the packet. -/
  | linkPacketArrival (c : Nat) (l : LinkAck) (crcOk : Bool) (p : LinkPacket)
  /-- LINK_RETRY: R393: a NAK that names the n-th unacknowledged packet; its replay delays it by d core cycles. -/
  | linkRetry (c : Nat) (l n d : Nat)
  /-- UNREACH_NOTICE: R396. -/
  | unreachNotice (c : Nat) (dev what : Nat)
  /-- RESULT_RECORD_ARRIVAL: R398. -/
  | resultRecordArrival (c : Nat) (ring : Nat) (words : List Word)
  /-- EVENT_FORWARD_ARRIVAL: R400. -/
  | eventForwardArrival (c : Nat) (words : List Word)
  /-- EVT_LOST_FORWARD: R401. -/
  | evtLostForward (c : Nat)
  /-- SAFE_RECORD_ARRIVAL: R399. -/
  | safeRecordArrival (c : Nat) (words : List Word)
  /-- PANICLE_PACKET: R407, R408: what the queues have passed on by now. -/
  | paniclePacket (c : Nat) (p : PacketIn) (gone : Drained)
  /-- CFG_LOAD: R416. -/
  | cfgLoad (c : Nat)
  /-- LOAD_DONE: R416, R453: content, the words in error of the object and of its copy, how far the loader has come. -/
  | loadDone (c : Nat) (con : Content) (errs : List (Nat × EccStat)) (step : LoadStep)
  /-- CFG_COMMIT: R425. -/
  | cfgCommit (c : Nat)
  /-- CFG_COMMIT_NEXT: R425. -/
  | cfgCommitNext (c : Nat)
  /-- CFG_ABANDON: R416. -/
  | cfgAbandon (c : Nat)
  /-- CFG_ATTEST: R419. -/
  | cfgAttest (c : Nat)
  /-- ATTEST_DONE: R419. -/
  | attestDone (c : Nat)
  /-- FIRMWARE_RELOAD_DONE: R425. -/
  | firmwareReloadDone (c : Nat) (t : Nat)
  /-- UNIT_FENCE: R428. -/
  | unitFence (c : Nat) (cls slot : Nat)
  /-- FENCE_FLUSH: R428. -/
  | fenceFlush (c : Nat) (cls slot : Nat)
  /-- UNIT_SWAP: R431. -/
  | unitSwap (c : Nat) (cls slot : Nat)
  /-- UNIT_READMIT: R432. -/
  | unitReadmit (c : Nat) (cls phys : Nat)
  /-- CLEAR_DONE: R431, R432. -/
  | clearDone (c : Nat) (cls phys : Nat)
  /-- SAFE_DETECT: R459, R460. -/
  | safeDetect (c : Nat)
  /-- SAFE_FORCE: R458: the word written to SAFE_CTRL. -/
  | safeForce (c : Nat) (w : Word)
  /-- SAFE_CLEAR: R462: the word written to SAFE_CTRL. -/
  | safeClear (c : Nat) (w : Word)
  /-- CHOMBE_MISMATCH: R452. -/
  | chombeMismatch (c : Nat)
  /-- CORE_CLK_LOSS: R452. -/
  | coreClkLoss (c : Nat)
  /-- SELF_TEST_GO: R455. -/
  | selfTestGo (c : Nat) (cls phys : Nat)
  /-- SELF_TEST_DONE: R455. -/
  | selfTestDone (c : Nat) (pass : Bool)
  /-- REC_START: R475: the word written to DBG_REC_CTRL. -/
  | recStart (c : Nat) (w : Word)
  /-- REC_STOP: R475. -/
  | recStop (c : Nat) (w : Word)
  /-- REC_LOST_WRITE: R472. -/
  | recLostWrite (c : Nat)
  /-- REPLAY_START: R476: the word written to DBG_RPL_CTRL. -/
  | replayStart (c : Nat) (w : Word)
  /-- REPLAY_RECORD_APPLY: R476, R477: the record is in the prefetch buffer. -/
  | replayRecordApply (c : Nat) (there : Bool)
  /-- GDDR6_REFRESH: R482, R483: channel; delays, in core cycles, of the requests that found the bank refreshing. -/
  | gddr6Refresh (c : Nat) (ch : Nat) (delayed : List Nat)
  /-- MEM_HOT: R483. -/
  | memHot (c : Nat) (comp : Nat)
  /-- MEM_COOL: R483. -/
  | memCool (c : Nat)
  /-- MEM_READ_DONE: R484, R485: a 64-byte unit. -/
  | memReadDone (c : Nat) (a : Nat) (ecc : EccStat)
  /-- MEM_WRITE_EDC: R484: the EDC of the write, and of its rewrite, agreed. -/
  | memWriteEdc (c : Nat) (a : Nat) (first second : Bool)
  /-- MEM_CE_WRITEBACK: R484. -/
  | memCeWriteback (c : Nat) (a : Nat)
  /-- REGION_OFF_REQUEST: R490. -/
  | regionOffRequest (c : Nat) (r : Nat)
  /-- REGION_OFF: R490. -/
  | regionOff (c : Nat) (r : Nat)
  /-- REGION_ON_REQUEST: R491. -/
  | regionOnRequest (c : Nat) (r : Nat)
  /-- REGION_FILL_DONE: R491. -/
  | regionFillDone (c : Nat) (r : Nat)
  /-- PT_INVALIDATE: R489: the word written to MEM_PT_INV. -/
  | ptInvalidate (c : Nat) (w : Word)
  /-- PT_INVALIDATE_DONE: R489. -/
  | ptInvalidateDone (c : Nat)
  /-- DOMAIN_OFF_REQUEST: R508. -/
  | domainOffRequest (c : Nat) (d : Nat)
  /-- DOMAIN_OFF: R508. -/
  | domainOff (c : Nat) (d : Nat)
  /-- DOMAIN_WAKE_REQUEST: R508. -/
  | domainWakeRequest (c : Nat) (d : Nat)
  /-- DOMAIN_ON: R508. -/
  | domainOn (c : Nat) (d : Nat)
  /-- BANK_GROUP_OFF_REQUEST: R509. -/
  | bankGroupOffRequest (c : Nat) (t g : Nat)
  /-- BANK_GROUP_OFF: R509. -/
  | bankGroupOff (c : Nat) (t g : Nat)
  /-- BANK_GROUP_WAKE_REQUEST: R510. -/
  | bankGroupWakeRequest (c : Nat) (t g : Nat)
  /-- BANK_GROUP_ON: R510. -/
  | bankGroupOn (c : Nat) (t g : Nat)
  /-- REGISTER_WRITE: R17: panel offset. -/
  | registerWrite (c : Nat) (off : Nat) (data : Word)
  /-- PORST_N_RISE: R387, R499: the straps SYS_DEVID. -/
  | porstNRise (c : Nat) (devid : Nat)
  /-- HOST_PORT_READY: R500. -/
  | hostPortReady (c : Nat)
  /-- VALID_TRANSFER: R77, R79, R83: port n, the sample. -/
  | validTransfer (c : Nat) (n : Nat) (x : Machine.CamSample)
  deriving DecidableEq, Repr

end Sys2Proof
end

