-- ==== Sys2Proof/Decode.lean ====
section
/-! DEFINITION. The commands that words spell. No row of spec/opcode_table.json has bits: the commands of this block come
from its pins, its host port, its links and its own engines, none of them as an instruction word. So no word spells one. -/

namespace Sys2Proof

/-- The command that an instruction word of `nbits` bits spells: none (every row's list of fields is empty). -/
def decodeTableWord (_nbits _w : Nat) : Option Instr := none

end Sys2Proof
end

