-- ==== Sys2Proof/Machine/RegMap.lean ====
section
/-! DEFINITION. The panel register map: one row per register (or register family) of the field tables of
spec/01 to spec/24, with its offset, its strides, which of its bits are RW, SH, W1C and WO (R17), and its reset
value (R526, spec/24_register_summary.md). Bits in none of the four masks are read-only or reserved (R18).
Also the names by which the rest of the model speaks of a register's offset. -/

namespace Sys2Proof.Machine

/-- A register family: `base + stride * i + stride2 * j` for `i < count` and `j < count2`, with the bit masks of its
field types (R17) and the whole value after part reset (R526). -/
structure RegRow where
  base    : Nat
  stride  : Nat
  count   : Nat
  stride2 : Nat
  count2  : Nat
  rw      : Nat
  sh      : Nat
  w1c     : Nat
  wo      : Nat
  reset   : Nat
  deriving DecidableEq, Repr

/-- Registers of spec/01_position_timebase.md. -/
def RegRow.rows01 : List RegRow :=
  [⟨0x2000, 0x0, 1, 0x0, 1, 0x7F, 0x0, 0x0, 0x0, 0x10⟩, -- TB_CTRL
   ⟨0x2004, 0x0, 1, 0x0, 1, 0x0, 0x0, 0x700, 0x0, 0x0⟩, -- TB_STATUS
   ⟨0x2008, 0x0, 1, 0x0, 1, 0x0, 0xFFFFFFFF, 0x0, 0x0, 0x10000000⟩, -- TB_SCALE
   ⟨0x2010, 0x0, 1, 0x0, 1, 0x0, 0x0, 0x0, 0x0, 0x0⟩, -- TB_POS_LO
   ⟨0x2014, 0x0, 1, 0x0, 1, 0x0, 0x0, 0x0, 0x0, 0x0⟩, -- TB_POS_HI
   ⟨0x2018, 0x0, 1, 0x0, 1, 0xFFFFFFFF, 0x0, 0x0, 0x0, 0x0⟩, -- TB_POS_SET_LO
   ⟨0x201C, 0x0, 1, 0x0, 1, 0xFFFF, 0x0, 0x0, 0x0, 0x0⟩, -- TB_POS_SET_HI
   ⟨0x2020, 0x0, 1, 0x0, 1, 0x0, 0x0, 0x0, 0x0, 0x0⟩, -- TB_FRONTIER_LO
   ⟨0x2024, 0x0, 1, 0x0, 1, 0x0, 0x0, 0x0, 0x0, 0x0⟩, -- TB_FRONTIER_HI
   ⟨0x2028, 0x0, 1, 0x0, 1, 0x0, 0x0, 0x0, 0x0, 0x0⟩, -- TB_LPERIOD
   ⟨0x202C, 0x0, 1, 0x0, 1, 0x0, 0x0, 0x0, 0x0, 0x0⟩, -- TB_SHEAF_TIME
   ⟨0x2030, 0x0, 1, 0x0, 1, 0xFFFFFF, 0x0, 0x0, 0x0, 0x2710⟩, -- TB_STOP_TIME
   ⟨0x2034, 0x0, 1, 0x0, 1, 0xFFFFFF, 0x0, 0x0, 0x0, 0x4000⟩, -- TB_REV_LIMIT
   ⟨0x2038, 0x0, 1, 0x0, 1, 0xFFFFFFFF, 0x0, 0x0, 0x0, 0x0⟩, -- TB_Z_EXPECT
   ⟨0x2040, 0x0, 1, 0x0, 1, 0x0, 0x0, 0x0, 0x0, 0x0⟩, -- TB_Z_LATCH_LO
   ⟨0x2044, 0x0, 1, 0x0, 1, 0x0, 0x0, 0x0, 0x0, 0x0⟩, -- TB_Z_LATCH_HI
   ⟨0x2048, 0x0, 1, 0x0, 1, 0xFF, 0x0, 0x0, 0x0, 0x4⟩, -- TB_MISS
   ⟨0x204C, 0x0, 1, 0x0, 1, 0x0, 0x0, 0x0, 0x0, 0x0⟩, -- TB_CNT_LATE
   ⟨0x2050, 0x0, 1, 0x0, 1, 0x0, 0x0, 0x0, 0x0, 0x0⟩, -- TB_CNT_MISSED
   ⟨0x2054, 0x0, 1, 0x0, 1, 0x0, 0x0, 0x0, 0x0, 0x0⟩, -- TB_CNT_QUAD
   ⟨0x2058, 0x0, 1, 0x0, 1, 0x0, 0x10FFFFF, 0x0, 0x0, 0x200A4⟩, -- TB_SLIP_CTRL
   ⟨0x205C, 0x0, 1, 0x0, 1, 0x0, 0x0, 0x0, 0x0, 0x0⟩, -- TB_SLIP_STAT
   ⟨0x2080, 0x4, 8, 0x0, 1, 0x0, 0xFFFF0FF3, 0x0, 0x0, 0x130000⟩ ] -- TB_TRIGn_CFG

/-- Registers of spec/02_frame_graph_sequencer.md. -/
def RegRow.rows02 : List RegRow :=
  [⟨0x2100, 0x0, 1, 0x0, 1, 0x1, 0x2, 0x0, 0x0, 0x2⟩, -- SEQ_CTRL
   ⟨0x2104, 0x0, 1, 0x0, 1, 0x0, 0x0, 0xA00, 0x0, 0x0⟩, -- SEQ_STATUS
   ⟨0x2108, 0x0, 1, 0x0, 1, 0x0, 0x0, 0x0, 0x0, 0x60⟩, -- SEQ_LAG
   ⟨0x210C, 0x0, 1, 0x0, 1, 0x0, 0x0, 0x0, 0x0, 0x0⟩, -- SEQ_GOLD
   ⟨0x2110, 0x0, 1, 0x0, 1, 0x0, 0xFF07FF, 0x0, 0x0, 0x8044C⟩, -- SEQ_SCAN
   ⟨0x2114, 0x0, 1, 0x0, 1, 0x0, 0x0, 0x0, 0x0, 0x0⟩, -- SEQ_TBL_INFO
   ⟨0x2118, 0x0, 1, 0x0, 1, 0x0, 0x0, 0x0, 0x0, 0x0⟩, -- SEQ_ROW_LO
   ⟨0x211C, 0x0, 1, 0x0, 1, 0x0, 0x0, 0x0, 0x0, 0x0⟩, -- SEQ_ROW_HI
   ⟨0x2120, 0x0, 1, 0x0, 1, 0x0, 0x0, 0x0, 0x0, 0x0⟩, -- SEQ_CNT_NOT_RIPE
   ⟨0x2124, 0x0, 1, 0x0, 1, 0x0, 0x0, 0x0, 0x0, 0x0⟩, -- SEQ_CNT_OVERRUN
   ⟨0x2128, 0x0, 1, 0x0, 1, 0x0, 0x0, 0x0, 0x0, 0x0⟩, -- SEQ_CNT_BUSY
   ⟨0x212C, 0x0, 1, 0x0, 1, 0x0, 0x0, 0x0, 0x0, 0x0⟩, -- SEQ_CNT_STALE
   ⟨0x2130, 0x0, 1, 0x0, 1, 0x0, 0x0, 0x0, 0x0, 0x0⟩, -- SEQ_CNT_ROW_SKIP
   ⟨0x2134, 0x0, 1, 0x0, 1, 0x0, 0x0, 0x0, 0x0, 0x0⟩, -- SEQ_CNT_LATE_CMD
   ⟨0x2138, 0x0, 1, 0x0, 1, 0x0, 0x0, 0x0, 0x0, 0x0⟩, -- SEQ_CNT_HUNG
   ⟨0x2140, 0x0, 1, 0x0, 1, 0x0, 0x0, 0x0, 0x0, 0x0⟩, -- SEQ_LAST_CHAFF
   ⟨0x2144, 0x0, 1, 0x0, 1, 0x0, 0x0, 0x0, 0x0, 0x0⟩ ] -- SEQ_LAST_CHAFF_LINE

/-- Registers of spec/03_camera_ports.md. -/
def RegRow.rows03 : List RegRow :=
  [⟨0x3000, 0x200, 8, 0x0, 1, 0x0, 0xFF9, 0x0, 0x0, 0x100⟩, -- FE_PORTn_CFG
   ⟨0x3004, 0x200, 8, 0x0, 1, 0x0, 0xFFF7FFF, 0x0, 0x0, 0x1000⟩, -- FE_PORTn_LEN
   ⟨0x3008, 0x200, 8, 0x0, 1, 0x0, 0xFFF0FFF, 0x0, 0x0, 0xC80000⟩, -- FE_PORTn_WIN
   ⟨0x300C, 0x200, 8, 0x0, 1, 0x0, 0xFFF, 0x0, 0x0, 0x4D4⟩, -- FE_PORTn_WIN_END
   ⟨0x3010, 0x200, 8, 0x0, 1, 0x0, 0xFFFF, 0x0, 0x0, 0x400⟩, -- FE_PORTn_FRAME
   ⟨0x3014, 0x200, 8, 0x0, 1, 0x3F, 0x0, 0x0, 0x0, 0x0⟩, -- FE_PORTn_DESKEW
   ⟨0x3018, 0x200, 8, 0x0, 1, 0x0, 0x1FFFF, 0x0, 0x0, 0x0⟩, -- FE_PORTn_LIMIT
   ⟨0x301C, 0x200, 8, 0x0, 1, 0x0, 0x0, 0x100, 0x0, 0x0⟩, -- FE_PORTn_STATUS
   ⟨0x3020, 0x200, 8, 0x0, 1, 0x0, 0x0, 0x0, 0x0, 0x0⟩, -- FE_PORTn_CNT_SHORT
   ⟨0x3024, 0x200, 8, 0x0, 1, 0x0, 0x0, 0x0, 0x0, 0x0⟩, -- FE_PORTn_CNT_LONG
   ⟨0x3028, 0x200, 8, 0x0, 1, 0x0, 0x0, 0x0, 0x0, 0x0⟩, -- FE_PORTn_CNT_LATE_END
   ⟨0x302C, 0x200, 8, 0x0, 1, 0x0, 0x0, 0x0, 0x0, 0x0⟩, -- FE_PORTn_CNT_MISSING
   ⟨0x3030, 0x200, 8, 0x0, 1, 0x0, 0x0, 0x0, 0x0, 0x0⟩, -- FE_PORTn_CNT_EXTRA
   ⟨0x3034, 0x200, 8, 0x0, 1, 0x0, 0x0, 0x0, 0x0, 0x0⟩, -- FE_PORTn_CNT_FRAME
   ⟨0x3040, 0x200, 8, 0x0, 1, 0x0, 0x0, 0x0, 0x0, 0x0⟩, -- FE_PORTn_LAST_HDR2
   ⟨0x3044, 0x200, 8, 0x0, 1, 0x0, 0x0, 0x0, 0x0, 0x0⟩ ] -- FE_PORTn_LAST_LINE

/-- Registers of spec/04_front_end_lanes.md. -/
def RegRow.rows04 : List RegRow :=
  [⟨0x3060, 0x200, 8, 0x0, 1, 0x0, 0x1FF3F, 0x0, 0x0, 0x0⟩, -- FE_LANEn_CTRL
   ⟨0x3064, 0x200, 8, 0x0, 1, 0x0, 0xFFFFFF, 0x0, 0x0, 0x80⟩, -- FE_LANEn_SNR
   ⟨0x3068, 0x200, 8, 0x0, 1, 0x0, 0xFFF0FFF, 0x0, 0x0, 0xFFF⟩, -- FE_LANEn_NR_THR
   ⟨0x306C, 0x200, 8, 0x0, 1, 0x0, 0xFF, 0x0, 0x0, 0x0⟩, -- FE_LANEn_TNR
   ⟨0x3070, 0x200, 8, 0x0, 1, 0x0, 0xFFFF0FFF, 0x0, 0x0, 0x10000000⟩, -- FE_LANEn_LEVEL
   ⟨0x3074, 0x200, 8, 0x0, 1, 0x0, 0xFF, 0x0, 0x0, 0x0⟩, -- FE_LANEn_TAG
   ⟨0x3078, 0x200, 8, 0x0, 1, 0x0, 0x0, 0x5F, 0x0, 0x0⟩, -- FE_LANEn_STATUS
   ⟨0x307C, 0x200, 8, 0x0, 1, 0x0, 0xFF31F7F, 0x0, 0x0, 0x0⟩, -- FE_LANEn_HEAD
   ⟨0x3080, 0x200, 8, 0x4, 16, 0x0, 0xFFFFFFFF, 0x0, 0x0, 0x0⟩, -- FE_LANEn_HEADm
   ⟨0x30C0, 0x200, 8, 0x8, 4, 0x0, 0x7F, 0x0, 0x0, 0x0⟩, -- FE_LANEn_OUTo_CFG
   ⟨0x30C4, 0x200, 8, 0x8, 4, 0x0, 0x7FFF3FFF, 0x0, 0x0, 0x10000000⟩, -- FE_LANEn_OUTo_CROP
   ⟨0x30E0, 0x200, 8, 0x0, 1, 0x13FFFF, 0x0, 0x0, 0x0, 0x0⟩, -- FE_LANEn_TBL_ADDR
   ⟨0x30E4, 0x200, 8, 0x0, 1, 0xFFFFFFFF, 0x0, 0x0, 0x0, 0x0⟩, -- FE_LANEn_TBL_DATA
   ⟨0x30E8, 0x200, 8, 0x0, 1, 0x0, 0xFFFFE000, 0x0, 0x0, 0x0⟩, -- FE_LANEn_STAT_BASE_LO
   ⟨0x30EC, 0x200, 8, 0x0, 1, 0x0, 0x3, 0x0, 0x0, 0x0⟩, -- FE_LANEn_STAT_BASE_HI
   ⟨0x30F0, 0x200, 8, 0x0, 1, 0x0, 0x0, 0x0, 0x0, 0x0⟩, -- FE_LANEn_STAT_SEQ
   ⟨0x30F4, 0x200, 8, 0x0, 1, 0x0, 0x0, 0x0, 0x0, 0x0⟩, -- FE_LANEn_CNT_DPC_UNFIX
   ⟨0x30F8, 0x200, 8, 0x0, 1, 0x0, 0x0, 0x0, 0x0, 0x0⟩ ] -- FE_LANEn_CNT_TNR_RESET

/-- Registers of spec/05_warp_and_pyramid.md. -/
def RegRow.rows05 : List RegRow :=
  [⟨0x4000, 0x20, 16, 0x0, 1, 0x0, 0xFFFF1, 0x0, 0x0, 0xA7040⟩, -- WP_SETs_CFG
   ⟨0x4004, 0x20, 16, 0x0, 1, 0x0, 0x7FFF7FFF, 0x0, 0x0, 0x10001000⟩, -- WP_SETs_SIZE
   ⟨0x4008, 0x20, 16, 0x0, 1, 0x0, 0xFFFFFFF, 0x0, 0x0, 0x210000⟩, -- WP_SETs_MESH
   ⟨0x400C, 0x20, 16, 0x0, 1, 0x0, 0xFFFFFFFF, 0x0, 0x0, 0x0⟩, -- WP_SETs_OFF
   ⟨0x4200, 0x0, 1, 0x0, 1, 0x1FFFF, 0x0, 0x0, 0x0, 0x0⟩, -- WP_MESH_ADDR
   ⟨0x4204, 0x0, 1, 0x0, 1, 0xFFFFFFFF, 0x0, 0x0, 0x0, 0x0⟩, -- WP_MESH_DATA
   ⟨0x4208, 0x0, 1, 0x0, 1, 0x0, 0x0, 0x3, 0x0, 0x0⟩, -- WP_STATUS
   ⟨0x4400, 0x10, 9, 0x0, 1, 0x0, 0x0, 0x0, 0x0, 0x0⟩, -- WP_n_CNT_OOB
   ⟨0x4404, 0x10, 9, 0x0, 1, 0x0, 0x0, 0x0, 0x0, 0x0⟩, -- WP_n_CNT_INV
   ⟨0x4800, 0x10, 16, 0x0, 1, 0x0, 0x7FFF1FF3, 0x0, 0x0, 0x10000011⟩, -- PY_SETs_CFG
   ⟨0x4804, 0x10, 16, 0x0, 1, 0x0, 0xFFFFFF, 0x0, 0x0, 0x41018⟩, -- PY_SETs_COEF
   ⟨0x4A00, 0x0, 1, 0x0, 1, 0x0, 0x0, 0x1, 0x0, 0x0⟩, -- PY_STATUS
   ⟨0x4C00, 0x10, 9, 0x0, 1, 0x0, 0x0, 0x0, 0x0, 0x0⟩, -- PY_n_CNT_GAP
   ⟨0x4C04, 0x10, 9, 0x0, 1, 0x0, 0x0, 0x0, 0x0, 0x0⟩ ] -- PY_n_CNT_INV

/-- Registers of spec/06_tuft_features.md. -/
def RegRow.rows06 : List RegRow :=
  [⟨0x5000, 0x20, 16, 0x0, 1, 0x0, 0x3FE, 0x0, 0x0, 0x188⟩, -- FT_SETs_CFG
   ⟨0x5004, 0x20, 16, 0x0, 1, 0x0, 0x1FFFF, 0x0, 0x0, 0x9000⟩, -- FT_SETs_FMT
   ⟨0x5008, 0x20, 16, 0x0, 1, 0x0, 0xFFFFF, 0x0, 0x0, 0x0⟩, -- FT_SETs_COL0
   ⟨0x500C, 0x20, 16, 0x0, 1, 0x0, 0x7FFF7FFF, 0x0, 0x0, 0x10000000⟩, -- FT_SETs_REP
   ⟨0x5010, 0x20, 16, 0x0, 1, 0x0, 0xFFFFFFFF, 0x0, 0x0, 0x10000⟩, -- FT_SETs_THR
   ⟨0x5014, 0x20, 16, 0x0, 1, 0x0, 0xFFC0FFFF, 0x0, 0x0, 0x20004024⟩, -- FT_SETs_LIMIT
   ⟨0x5200, 0x0, 1, 0x0, 1, 0x1FFF, 0x0, 0x0, 0x0, 0x0⟩, -- FT_PAT_ADDR
   ⟨0x5204, 0x0, 1, 0x0, 1, 0x0, 0x0, 0x0, 0x0, 0x7FBFD01⟩, -- FT_PAT_DATA
   ⟨0x5208, 0x0, 1, 0x0, 1, 0x0, 0x0, 0x1, 0x0, 0x0⟩, -- FT_STATUS
   ⟨0x5400, 0x20, 9, 0x0, 1, 0x0, 0x0, 0x0, 0x0, 0x0⟩, -- FT_n_CNT_FEAT
   ⟨0x5404, 0x20, 9, 0x0, 1, 0x0, 0x0, 0x0, 0x0, 0x0⟩, -- FT_n_CNT_DROP
   ⟨0x5408, 0x20, 9, 0x0, 1, 0x0, 0x0, 0x0, 0x0, 0x0⟩, -- FT_n_CNT_REF
   ⟨0x540C, 0x20, 9, 0x0, 1, 0x0, 0x0, 0x0, 0x0, 0x0⟩, -- FT_n_CNT_REF_SKIP
   ⟨0x5410, 0x20, 9, 0x0, 1, 0x0, 0x0, 0x0, 0x0, 0x0⟩, -- FT_n_CNT_GAP
   ⟨0x5414, 0x20, 9, 0x0, 1, 0x0, 0x0, 0x0, 0x0, 0x0⟩ ] -- FT_n_CNT_INV

/-- Registers of spec/07_stereo.md. -/
def RegRow.rows07 : List RegRow :=
  [⟨0x5800, 0x20, 16, 0x0, 1, 0x0, 0xF73, 0x0, 0x0, 0x631⟩, -- ST_SETs_CFG
   ⟨0x5804, 0x20, 16, 0x0, 1, 0x0, 0x7FFF, 0x0, 0x0, 0x1000⟩, -- ST_SETs_SIZE
   ⟨0x5808, 0x20, 16, 0x0, 1, 0x0, 0xFFFFF, 0x0, 0x0, 0x0⟩, -- ST_SETs_COL0
   ⟨0x580C, 0x20, 16, 0x0, 1, 0x0, 0x7FFF7FFF, 0x0, 0x0, 0x10000000⟩, -- ST_SETs_REP
   ⟨0x5810, 0x20, 16, 0x0, 1, 0x0, 0xFF0703FF, 0x0, 0x0, 0x8010000⟩, -- ST_SETs_DISP
   ⟨0x5814, 0x20, 16, 0x0, 1, 0x0, 0xFF3F, 0x0, 0x0, 0x6008⟩, -- ST_SETs_PEN
   ⟨0x5818, 0x20, 16, 0x0, 1, 0x0, 0xFFFFFF7F, 0x0, 0x0, 0x6040⟩, -- ST_SETs_REF
   ⟨0x581C, 0x20, 16, 0x0, 1, 0x0, 0xFFFFFFFF, 0x0, 0x0, 0x10000⟩, -- ST_SETs_HK
   ⟨0x5A00, 0x0, 1, 0x0, 1, 0x0, 0x0, 0x1, 0x0, 0x0⟩, -- ST_STATUS
   ⟨0x5C00, 0x20, 9, 0x0, 1, 0x0, 0x0, 0x0, 0x0, 0x0⟩, -- ST_n_CNT_REF
   ⟨0x5C04, 0x20, 9, 0x0, 1, 0x0, 0x0, 0x0, 0x0, 0x0⟩, -- ST_n_CNT_REF_SKIP
   ⟨0x5C08, 0x20, 9, 0x0, 1, 0x0, 0x0, 0x0, 0x0, 0x0⟩, -- ST_n_CNT_REF_KEEP
   ⟨0x5C0C, 0x20, 9, 0x0, 1, 0x0, 0x0, 0x0, 0x0, 0x0⟩, -- ST_n_CNT_NOTEX
   ⟨0x5C10, 0x20, 9, 0x0, 1, 0x0, 0x0, 0x0, 0x0, 0x0⟩, -- ST_n_CNT_OCC
   ⟨0x5C14, 0x20, 9, 0x0, 1, 0x0, 0x0, 0x0, 0x0, 0x0⟩, -- ST_n_CNT_OOR
   ⟨0x5C18, 0x20, 9, 0x0, 1, 0x0, 0x0, 0x0, 0x0, 0x0⟩, -- ST_n_CNT_GAP
   ⟨0x5C1C, 0x20, 9, 0x0, 1, 0x0, 0x0, 0x0, 0x0, 0x0⟩ ] -- ST_n_CNT_INV

/-- Registers of spec/08_flow.md. -/
def RegRow.rows08 : List RegRow :=
  [⟨0x6000, 0x20, 16, 0x0, 1, 0x0, 0x7FF3, 0x0, 0x0, 0x2481⟩, -- FL_SETs_CFG
   ⟨0x6004, 0x20, 16, 0x0, 1, 0x0, 0x1FF, 0x0, 0x0, 0x140⟩, -- FL_SETs_GAP
   ⟨0x6008, 0x20, 16, 0x0, 1, 0x0, 0x7FFF, 0x0, 0x0, 0x1000⟩, -- FL_SETs_SIZE
   ⟨0x600C, 0x20, 16, 0x0, 1, 0x0, 0xFFFFF, 0x0, 0x0, 0x0⟩, -- FL_SETs_COL0
   ⟨0x6010, 0x20, 16, 0x0, 1, 0x0, 0x7FFF7FFF, 0x0, 0x0, 0x10000000⟩, -- FL_SETs_REP
   ⟨0x6014, 0x20, 16, 0x0, 1, 0x0, 0xFFFFFF00, 0x0, 0x0, 0x1002000⟩, -- FL_SETs_CONF
   ⟨0x6018, 0x20, 16, 0x0, 1, 0x0, 0x7FFF, 0x0, 0x0, 0x200⟩, -- FL_SETs_MINV
   ⟨0x6200, 0x0, 1, 0x0, 1, 0x0, 0x0, 0x1, 0x0, 0x0⟩, -- FL_STATUS
   ⟨0x6300, 0x10, 4, 0x0, 1, 0x0, 0x0, 0x0, 0x0, 0x0⟩, -- FL_SUMq_SHEAF
   ⟨0x6304, 0x10, 4, 0x0, 1, 0x0, 0x0, 0x0, 0x0, 0x0⟩, -- FL_SUMq_DFLOW
   ⟨0x6308, 0x10, 4, 0x0, 1, 0x0, 0x0, 0x0, 0x0, 0x0⟩, -- FL_SUMq_XFLOW
   ⟨0x630C, 0x10, 4, 0x0, 1, 0x0, 0x0, 0x0, 0x0, 0x0⟩, -- FL_SUMq_STAT
   ⟨0x6400, 0x20, 5, 0x0, 1, 0x0, 0x0, 0x0, 0x0, 0x0⟩, -- FL_n_CNT_VEC
   ⟨0x6404, 0x20, 5, 0x0, 1, 0x0, 0x0, 0x0, 0x0, 0x0⟩, -- FL_n_CNT_USED
   ⟨0x6408, 0x20, 5, 0x0, 1, 0x0, 0x0, 0x0, 0x0, 0x0⟩, -- FL_n_CNT_NOTEX
   ⟨0x640C, 0x20, 5, 0x0, 1, 0x0, 0x0, 0x0, 0x0, 0x0⟩, -- FL_n_CNT_OOR
   ⟨0x6410, 0x20, 5, 0x0, 1, 0x0, 0x0, 0x0, 0x0, 0x0⟩ ] -- FL_n_CNT_INV

/-- Registers of spec/09_tillers.md. -/
def RegRow.rows09 : List RegRow :=
  [⟨0x8000, 0x100, 36, 0x0, 1, 0x0, 0x0, 0x0, 0x0, 0x0⟩, -- TLR_t_ID
   ⟨0x8004, 0x100, 36, 0x0, 1, 0x0, 0x0, 0x0, 0x0, 0x0⟩, -- TLR_t_FW_VER
   ⟨0x8008, 0x100, 36, 0x0, 1, 0x0, 0x0, 0x0, 0x0, 0x0⟩, -- TLR_t_FAULT
   ⟨0x800C, 0x100, 36, 0x0, 1, 0x0, 0x0, 0x0, 0x0, 0x0⟩, -- TLR_t_FAULT_PC
   ⟨0x8010, 0x100, 36, 0x0, 1, 0x0, 0x0, 0x0, 0x0, 0x0⟩, -- TLR_t_CNT_TASK
   ⟨0x8014, 0x100, 36, 0x0, 1, 0x0, 0x0, 0x0, 0x0, 0x0⟩, -- TLR_t_CNT_ABORT
   ⟨0x8018, 0x100, 36, 0x0, 1, 0x0, 0x0, 0x0, 0x0, 0x0⟩, -- TLR_t_CNT_ARRAY
   ⟨0x801C, 0x100, 36, 0x0, 1, 0x0, 0x0, 0x0, 0x0, 0x0⟩, -- TLR_t_CNT_VEC
   ⟨0x8020, 0x100, 36, 0x0, 1, 0x0, 0x0, 0x0, 0x0, 0x0⟩, -- TLR_t_CNT_FAULT
   ⟨0xA400, 0x0, 1, 0x0, 1, 0x0, 0x0, 0x0, 0x0, 0x420⟩, -- TLR_INFO
   ⟨0xA404, 0x0, 1, 0x0, 1, 0x0, 0x0, 0x0, 0x0, 0x800⟩, -- TLR_SPAD_SIZE
   ⟨0xA408, 0x0, 1, 0x0, 1, 0x0, 0x0, 0x1, 0x0, 0x0⟩, -- TLR_STATUS
   ⟨0xA500, 0x10, 16, 0x0, 1, 0x0, 0xFFFFFFFF, 0x0, 0x0, 0x5CF00000⟩, -- TLR_PQq_CFG
   ⟨0xA504, 0x10, 16, 0x0, 1, 0x0, 0x0, 0x0, 0x0, 0x0⟩, -- TLR_PQq_CNT_CAP
   ⟨0xA508, 0x10, 16, 0x0, 1, 0x0, 0x0, 0x0, 0x0, 0x0⟩, -- TLR_PQq_CNT_LATE
   ⟨0xA50C, 0x10, 16, 0x0, 1, 0x0, 0x0, 0x0, 0x0, 0x0⟩ ] -- TLR_PQq_CNT_KEPT

/-- Registers of spec/11_scratchpad_and_granary.md. -/
def RegRow.rows11 : List RegRow :=
  [⟨0x8040, 0x100, 36, 0x0, 1, 0x0, 0x7, 0x0, 0x0, 0x0⟩, -- TLR_t_SPAD_CFG
   ⟨0x8044, 0x100, 36, 0x0, 1, 0x0, 0x7, 0x0, 0x0, 0x0⟩, -- TLR_t_CACHE_BASE
   ⟨0x8048, 0x100, 36, 0x0, 1, 0x0, 0x0, 0x0, 0x0, 0x0⟩, -- TLR_t_TASK_AWIN
   ⟨0x804C, 0x100, 36, 0x0, 1, 0x0, 0x0, 0x0, 0x0, 0x0⟩, -- TLR_t_TASK_CWIN
   ⟨0x8050, 0x100, 36, 0x0, 1, 0x0, 0x0, 0x0, 0x0, 0x0⟩, -- TLR_t_TASK_KBASE
   ⟨0x8054, 0x100, 36, 0x0, 1, 0x0, 0x0, 0x0, 0x0, 0x0⟩, -- TLR_t_ECC_LAST
   ⟨0x8058, 0x100, 36, 0x0, 1, 0x0, 0x0, 0x0, 0x0, 0x0⟩, -- TLR_t_CNT_ECC_CE
   ⟨0x805C, 0x100, 36, 0x0, 1, 0x0, 0x0, 0x0, 0x0, 0x0⟩, -- TLR_t_CNT_ECC_UE
   ⟨0x8060, 0x100, 36, 0x0, 1, 0x0, 0x0, 0x0, 0x0, 0x0⟩, -- TLR_t_CNT_SB_STALL
   ⟨0x8064, 0x100, 36, 0x0, 1, 0x0, 0x0, 0x0, 0x0, 0x0⟩, -- TLR_t_CNT_SB_FULL
   ⟨0x8068, 0x100, 36, 0x0, 1, 0x0, 0x0, 0x0, 0x0, 0x0⟩, -- TLR_t_CNT_GLUME_REJ
   ⟨0x806C, 0x100, 36, 0x0, 1, 0x0, 0x0, 0x0, 0x0, 0x0⟩, -- TLR_t_CNT_CACHE_MISS
   ⟨0x8070, 0x100, 36, 0x0, 1, 0x0, 0x0, 0x0, 0x0, 0x0⟩, -- TLR_t_REPAIR_LO
   ⟨0x8074, 0x100, 36, 0x0, 1, 0x0, 0x0, 0x0, 0x0, 0x0⟩, -- TLR_t_REPAIR_HI
   ⟨0x8080, 0x100, 36, 0x10, 4, 0x0, 0x1FFFC0, 0x0, 0x0, 0x0⟩, -- TLR_t_GLUMEw_BASE
   ⟨0x8084, 0x100, 36, 0x10, 4, 0x0, 0x3FFFC0, 0x0, 0x0, 0x0⟩, -- TLR_t_GLUMEw_SIZE
   ⟨0x8088, 0x100, 36, 0x10, 4, 0x0, 0xF7, 0x0, 0x0, 0x0⟩, -- TLR_t_GLUMEw_CTRL
   ⟨0x7000, 0x0, 1, 0x0, 1, 0x0, 0x0, 0x0, 0x0, 0x4000FF40⟩, -- GRN_INFO
   ⟨0x7004, 0x0, 1, 0x0, 1, 0x0, 0x0, 0xB, 0x0, 0x0⟩, -- GRN_STATUS
   ⟨0x7008, 0x0, 1, 0x0, 1, 0x0, 0x0, 0x0, 0x0, 0x0⟩, -- GRN_RT_INFO
   ⟨0x700C, 0x0, 1, 0x0, 1, 0x0, 0x0, 0x0, 0x0, 0x0⟩, -- GRN_ECC_LAST
   ⟨0x7010, 0x0, 1, 0x0, 1, 0x0, 0x0, 0x0, 0x0, 0x0⟩, -- GRN_CNT_CE
   ⟨0x7014, 0x0, 1, 0x0, 1, 0x0, 0x0, 0x0, 0x0, 0x0⟩, -- GRN_CNT_UE
   ⟨0x7018, 0x0, 1, 0x0, 1, 0x0, 0x0, 0x0, 0x0, 0x0⟩, -- GRN_CNT_BOUND
   ⟨0x7020, 0x0, 1, 0x0, 1, 0x1FF, 0x0, 0x0, 0x0, 0x0⟩, -- GRN_FLAG_ADDR
   ⟨0x7024, 0x0, 1, 0x0, 1, 0x0, 0x0, 0x0, 0x0, 0x0⟩, -- GRN_FLAG_DATA
   ⟨0x7100, 0x4, 16, 0x0, 1, 0x0, 0x3FFF3FFF, 0x0, 0x0, 0x3FFF0000⟩ ] -- GRN_CTXc_WIN

/-- Registers of spec/12_streams_and_dma.md. -/
def RegRow.rows12 : List RegRow :=
  [⟨0xB000, 0x0, 1, 0x0, 1, 0x0, 0x30FFF, 0x0, 0x0, 0x30040⟩, -- STRM_ARB
   ⟨0xB004, 0x0, 1, 0x0, 1, 0x0, 0xFFFFFFFF, 0x0, 0x0, 0x84108410⟩, -- STRM_WHEEL
   ⟨0xB008, 0x0, 1, 0x0, 1, 0x0, 0x0, 0x1, 0x0, 0x0⟩, -- STRM_STATUS
   ⟨0xB100, 0x10, 36, 0x0, 1, 0x0, 0x0, 0x0, 0x0, 0x0⟩, -- STRM_t_CNT_PAD_SKIP
   ⟨0xB104, 0x10, 36, 0x0, 1, 0x0, 0x0, 0x0, 0x0, 0x0⟩, -- STRM_t_CNT_SCAT_DUP
   ⟨0xB108, 0x10, 36, 0x0, 1, 0x0, 0x0, 0x0, 0x0, 0x0⟩, -- STRM_t_CNT_IDX_OOR
   ⟨0xB10C, 0x10, 36, 0x0, 1, 0x0, 0x0, 0x0, 0x0, 0x0⟩, -- STRM_t_CNT_ARM_REJ
   ⟨0xB800, 0x20, 36, 0x0, 1, 0x0, 0xF, 0x0, 0x0, 0x8⟩, -- DMA_t_STAGE
   ⟨0xB804, 0x20, 36, 0x0, 1, 0x0, 0x0, 0x0, 0x0, 0x0⟩, -- DMA_t_CHSTAT
   ⟨0xB808, 0x20, 36, 0x0, 1, 0x0, 0x0, 0x0, 0xFFFF, 0x0⟩, -- DMA_t_RESUME
   ⟨0xB80C, 0x20, 36, 0x0, 1, 0x0, 0x0, 0x0, 0x0, 0x0⟩, -- DMA_t_LAST_BAD
   ⟨0xB810, 0x20, 36, 0x0, 1, 0x0, 0x0, 0x0, 0x0, 0x0⟩, -- DMA_t_CNT_BAD
   ⟨0xB814, 0x20, 36, 0x0, 1, 0x0, 0x0, 0x0, 0x0, 0x0⟩, -- DMA_t_CNT_XLATE
   ⟨0xB818, 0x20, 36, 0x0, 1, 0x0, 0x0, 0x0, 0x0, 0x0⟩, -- DMA_t_XLATE_LO
   ⟨0xB81C, 0x20, 36, 0x0, 1, 0x0, 0x0, 0x0, 0x0, 0x0⟩ ] -- DMA_t_XLATE_HI

/-- Registers of spec/13_synchronisation.md. -/
def RegRow.rows13 : List RegRow :=
  [⟨0xC000, 0x0, 1, 0x0, 1, 0x0, 0x0, 0x0, 0x0, 0x80040010⟩, -- SYNC_INFO
   ⟨0xC004, 0x0, 1, 0x0, 1, 0x0, 0x0, 0xFF, 0x0, 0x0⟩, -- SYNC_STATUS
   ⟨0xC010, 0x0, 1, 0x0, 1, 0xFFF, 0x0, 0x0, 0x0, 0x0⟩, -- SYNC_CELL_ADDR
   ⟨0xC014, 0x0, 1, 0x0, 1, 0xFFC007FF, 0x0, 0x0, 0x0, 0x0⟩, -- SYNC_CELL_CFG
   ⟨0xC018, 0x0, 1, 0x0, 1, 0xFFFFFFFF, 0x0, 0x0, 0x0, 0x0⟩, -- SYNC_CELL_VAL_LO
   ⟨0xC01C, 0x0, 1, 0x0, 1, 0xFFFF, 0x0, 0x0, 0x0, 0x0⟩, -- SYNC_CELL_VAL_HI
   ⟨0xC020, 0x0, 1, 0x0, 1, 0xFFFFFFFF, 0x0, 0x0, 0x0, 0x0⟩, -- SYNC_CELL_AUX_LO
   ⟨0xC024, 0x0, 1, 0x0, 1, 0xFFFF, 0x0, 0x0, 0x0, 0x0⟩, -- SYNC_CELL_AUX_HI
   ⟨0xC028, 0x0, 1, 0x0, 1, 0x0, 0x0, 0x0, 0x3, 0x0⟩, -- SYNC_CELL_CMD
   ⟨0xC030, 0x0, 1, 0x0, 1, 0x3FFF, 0x0, 0x0, 0x0, 0x0⟩, -- SYNC_VT_ADDR
   ⟨0xC034, 0x0, 1, 0x0, 1, 0x0, 0x0, 0x0, 0x0, 0x0⟩, -- SYNC_VT_DATA
   ⟨0xC038, 0x0, 1, 0x0, 1, 0x0, 0x0, 0x0, 0x0, 0x0⟩, -- SYNC_LAST_FAULT
   ⟨0xC040, 0x0, 1, 0x0, 1, 0x0, 0x0, 0x0, 0x0, 0x0⟩, -- SYNC_CNT_UNDER
   ⟨0xC044, 0x0, 1, 0x0, 1, 0x0, 0x0, 0x0, 0x0, 0x0⟩, -- SYNC_CNT_OVER
   ⟨0xC048, 0x0, 1, 0x0, 1, 0x0, 0x0, 0x0, 0x0, 0x0⟩, -- SYNC_CNT_DEAD_SIG
   ⟨0xC04C, 0x0, 1, 0x0, 1, 0x0, 0x0, 0x0, 0x0, 0x0⟩, -- SYNC_CNT_PERM
   ⟨0xC050, 0x0, 1, 0x0, 1, 0x0, 0x0, 0x0, 0x0, 0x0⟩, -- SYNC_CNT_KIND
   ⟨0xC054, 0x0, 1, 0x0, 1, 0x0, 0x0, 0x0, 0x0, 0x0⟩, -- SYNC_CNT_MANUAL
   ⟨0xC058, 0x0, 1, 0x0, 1, 0x0, 0x0, 0x0, 0x0, 0x0⟩, -- SYNC_CNT_ECC
   ⟨0xC100, 0x10, 16, 0x0, 1, 0x0, 0x4000FFFF, 0x0, 0x0, 0x0⟩, -- SYNC_CTXc_CFG
   ⟨0xC104, 0x10, 16, 0x0, 1, 0x0, 0x0, 0x0, 0x1, 0x0⟩, -- SYNC_CTXc_CTRL
   ⟨0xC108, 0x10, 16, 0x0, 1, 0x0, 0x0, 0x0, 0x0, 0x0⟩, -- SYNC_CTXc_DL_SET
   ⟨0xC10C, 0x10, 16, 0x0, 1, 0x0, 0x0, 0x0, 0x0, 0x0⟩ ] -- SYNC_CTXc_DL_CELL

/-- Registers of spec/14_task_dispatch.md. -/
def RegRow.rows14 : List RegRow :=
  [⟨0xC400, 0x20, 64, 0x0, 1, 0x0, 0x0, 0x0, 0x0, 0x0⟩, -- DSP_RLn_CFG
   ⟨0xC404, 0x20, 64, 0x0, 1, 0x0, 0x0, 0x0, 0x0, 0x0⟩, -- DSP_RLn_DEPTH
   ⟨0xC408, 0x20, 64, 0x0, 1, 0x0, 0x0, 0x0, 0x0, 0x0⟩, -- DSP_RLn_CNT_POST
   ⟨0xC40C, 0x20, 64, 0x0, 1, 0x0, 0x0, 0x0, 0x0, 0x0⟩, -- DSP_RLn_CNT_FULL
   ⟨0xC410, 0x20, 64, 0x0, 1, 0x0, 0x0, 0x0, 0x0, 0x0⟩, -- DSP_RLn_CNT_GRANT
   ⟨0xC414, 0x20, 64, 0x0, 1, 0x0, 0x0, 0x0, 0x0, 0x0⟩, -- DSP_RLn_CNT_LATE
   ⟨0xC418, 0x20, 64, 0x0, 1, 0x0, 0x0, 0x0, 0x0, 0x0⟩, -- DSP_RLn_WAIT_SUM
   ⟨0xC41C, 0x20, 64, 0x0, 1, 0x0, 0x0, 0x0, 0x0, 0x0⟩, -- DSP_RLn_WAIT_MAX
   ⟨0xCF00, 0x0, 1, 0x0, 1, 0x0, 0x0, 0x0, 0xFF, 0x0⟩, -- DSP_CLR
   ⟨0xCF04, 0x0, 1, 0x0, 1, 0x0, 0x0, 0x3, 0x0, 0x0⟩, -- DSP_STATUS
   ⟨0xCC00, 0x10, 36, 0x0, 1, 0x0, 0x0, 0x0, 0x0, 0x0⟩, -- DSP_t_PULL
   ⟨0xCC04, 0x10, 36, 0x0, 1, 0x0, 0x0, 0x0, 0x0, 0x0⟩, -- DSP_t_RUN
   ⟨0xCC08, 0x10, 36, 0x0, 1, 0x0, 0x0, 0x0, 0x0, 0x0⟩ ] -- DSP_t_LAST

/-- Registers of spec/16_host_port.md. -/
def RegRow.rows16 : List RegRow :=
  [⟨0xD000, 0x0, 1, 0x0, 1, 0xFFFF000F, 0x0, 0x0, 0x0, 0x0⟩, -- HOST_CTRL
   ⟨0xD004, 0x0, 1, 0x0, 1, 0x0, 0x0, 0x3, 0x0, 0x0⟩, -- HOST_STATUS
   ⟨0xD008, 0x0, 1, 0x0, 1, 0x0, 0x0, 0xEC, 0x0, 0x0⟩, -- HOST_ATTN_STATUS
   ⟨0xD00C, 0x0, 1, 0x0, 1, 0xFF, 0x0, 0x0, 0x0, 0x1⟩, -- HOST_ATTN_MASK
   ⟨0xD010, 0x0, 1, 0x0, 1, 0xFFFFFFFF, 0x0, 0x0, 0x0, 0x0⟩, -- HOST_EVT_RD
   ⟨0xD014, 0x0, 1, 0x0, 1, 0x0, 0x0, 0x0, 0x0, 0x0⟩, -- HOST_CNT_STEP_EARLY
   ⟨0xD018, 0x0, 1, 0x0, 1, 0x0, 0x0, 0x0, 0x0, 0x0⟩, -- HOST_CNT_DISCARD
   ⟨0xD01C, 0x0, 1, 0x0, 1, 0x0, 0x0, 0x0, 0x0, 0x0⟩, -- HOST_CNT_PEND_FULL
   ⟨0xD020, 0x0, 1, 0x0, 1, 0xFC0FFFFC, 0x0, 0x0, 0x0, 0x0⟩, -- HOST_RRD_ADDR
   ⟨0xD024, 0x0, 1, 0x0, 1, 0x0, 0x0, 0x0, 0x1, 0x0⟩, -- HOST_RRD_CMD
   ⟨0xD028, 0x0, 1, 0x0, 1, 0x0, 0x0, 0x0, 0x0, 0x0⟩, -- HOST_RRD_DATA
   ⟨0xD100, 0x10, 16, 0x0, 1, 0xF7FFF, 0x0, 0x0, 0x0, 0x40000⟩, -- HOST_CRc_CFG
   ⟨0xD104, 0x10, 16, 0x0, 1, 0xFFFF, 0x0, 0x0, 0x0, 0x0⟩, -- HOST_CRc_TAIL
   ⟨0xD108, 0x10, 16, 0x0, 1, 0x0, 0x0, 0x0, 0x0, 0x0⟩, -- HOST_CRc_HEAD
   ⟨0xD10C, 0x10, 16, 0x0, 1, 0x0, 0x0, 0x0, 0x0, 0x0⟩, -- HOST_CRc_CNT_REJ
   ⟨0xD200, 0x20, 16, 0x0, 1, 0x0, 0xF1FFFFF, 0x0, 0x0, 0x4002000⟩, -- HOST_RRr_CFG
   ⟨0xD204, 0x20, 16, 0x0, 1, 0x0, 0x0, 0x0, 0x0, 0x0⟩, -- HOST_RRr_SEQ
   ⟨0xD208, 0x20, 16, 0x0, 1, 0xFFFFFFFF, 0x0, 0x0, 0x0, 0x0⟩, -- HOST_RRr_RD
   ⟨0xD20C, 0x20, 16, 0x0, 1, 0xFFFF, 0x0, 0x0, 0x0, 0x1⟩, -- HOST_RRr_WM
   ⟨0xD210, 0x20, 16, 0x0, 1, 0x0, 0x0, 0x0, 0x0, 0x0⟩, -- HOST_RRr_CNT_OVWR
   ⟨0xD400, 0x8, 64, 0x0, 1, 0x3FFFF, 0x0, 0x0, 0x0, 0x0⟩, -- HOST_FRAMEf_ADDR
   ⟨0xD404, 0x8, 64, 0x0, 1, 0x0, 0x0, 0x0, 0x7, 0x0⟩ ] -- HOST_FRAMEf_CTRL

/-- Registers of spec/17_multi_device.md. -/
def RegRow.rows17 : List RegRow :=
  [⟨0xD800, 0x0, 1, 0x0, 1, 0x8000, 0x0, 0x0, 0x0, 0x0⟩, -- LNK_SYS
   ⟨0xD804, 0x0, 1, 0x0, 1, 0x0, 0x0, 0x0, 0x0, 0x0⟩, -- LNK_SYS_ID
   ⟨0xD808, 0x0, 1, 0x0, 1, 0x0, 0x0, 0xF0000, 0x0, 0x0⟩, -- LNK_STATUS
   ⟨0xD80C, 0x0, 1, 0x0, 1, 0x10F, 0x0, 0x0, 0xF0, 0x10F⟩, -- LNK_CTRL
   ⟨0xD810, 0x0, 1, 0x0, 1, 0x0, 0xFFFFFFFF, 0x0, 0x0, 0x765D9D65⟩, -- LNK_VC_WHEEL
   ⟨0xD820, 0x8, 8, 0x0, 1, 0x0, 0xFFFFFFFF, 0x0, 0x0, 0x0⟩, -- LNK_GMg_LO
   ⟨0xD824, 0x8, 8, 0x0, 1, 0x0, 0xFFFFFFFF, 0x0, 0x0, 0x0⟩, -- LNK_GMg_HI
   ⟨0xD880, 0x0, 1, 0x0, 1, 0x0, 0x0, 0x0, 0x0, 0x0⟩, -- LNK_CNT_UNREACH
   ⟨0xD884, 0x0, 1, 0x0, 1, 0x0, 0x0, 0x0, 0x0, 0x0⟩, -- LNK_CNT_EVT_LOST
   ⟨0xD888, 0x0, 1, 0x0, 1, 0x0, 0x0, 0x0, 0x0, 0x0⟩, -- LNK_CNT_MC_DROP
   ⟨0xD900, 0x20, 4, 0x0, 1, 0x0, 0x0, 0x0, 0x0, 0x0⟩, -- LNK_l_CNT_PKT
   ⟨0xD904, 0x20, 4, 0x0, 1, 0x0, 0x0, 0x0, 0x0, 0x0⟩, -- LNK_l_CNT_RETRY
   ⟨0xD908, 0x20, 4, 0x0, 1, 0x0, 0x0, 0x0, 0x0, 0x0⟩, -- LNK_l_CNT_RETRAIN
   ⟨0xD90C, 0x20, 4, 0x0, 1, 0x0, 0x0, 0x0, 0x0, 0x0⟩, -- LNK_l_CNT_REROUTE
   ⟨0xDA00, 0x4, 16, 0x0, 1, 0x0, 0x0, 0x0, 0x0, 0x0⟩ ] -- LNK_PNp_STAT

/-- Registers of spec/18_configuration_bitstream.md. -/
def RegRow.rows18 : List RegRow :=
  [⟨0xE000, 0x0, 1, 0x0, 1, 0xFFFFFFC0, 0x0, 0x0, 0x0, 0x0⟩, -- CFG_LOAD_LO
   ⟨0xE004, 0x0, 1, 0x0, 1, 0x3, 0x0, 0x0, 0x0, 0x0⟩, -- CFG_LOAD_HI
   ⟨0xE008, 0x0, 1, 0x0, 1, 0xFFFFFC0, 0x0, 0x0, 0x0, 0x0⟩, -- CFG_LOAD_LEN
   ⟨0xE00C, 0x0, 1, 0x0, 1, 0x0, 0x0, 0x0, 0x7, 0x0⟩, -- CFG_CMD
   ⟨0xE010, 0x0, 1, 0x0, 1, 0x0, 0x0, 0x300, 0x0, 0x0⟩, -- CFG_STATUS
   ⟨0xE014, 0x0, 1, 0x0, 1, 0xFFFFFFFF, 0x0, 0x0, 0x0, 0x0⟩, -- CFG_COMMIT
   ⟨0xE018, 0x0, 1, 0x0, 1, 0x0, 0x0, 0x0, 0x0, 0x0⟩, -- CFG_BASE_VER
   ⟨0xE020, 0x0, 1, 0x0, 1, 0xFFFFF800, 0x0, 0x0, 0x0, 0x0⟩, -- CFG_REPORT_LO
   ⟨0xE024, 0x0, 1, 0x0, 1, 0x3, 0x0, 0x0, 0x0, 0x0⟩, -- CFG_REPORT_HI
   ⟨0xE028, 0x0, 1, 0x0, 1, 0x0, 0x0, 0x0, 0x0, 0x0⟩, -- CFG_CNT_REJECT
   ⟨0xE02C, 0x0, 1, 0x0, 1, 0x0, 0x0, 0x0, 0x0, 0x0⟩, -- CFG_CNT_DISCARD
   ⟨0xE030, 0x0, 1, 0x0, 1, 0x0, 0x0, 0x0, 0x0, 0x0⟩, -- CFG_CNT_FENCE_DROP
   ⟨0xE040, 0x8, 8, 0x0, 1, 0x0, 0x0, 0x0, 0x0, 0x0⟩, -- CFG_PARTp_STAT
   ⟨0xE044, 0x8, 8, 0x0, 1, 0x0, 0x0, 0x0, 0x0, 0x0⟩, -- CFG_PARTp_VER
   ⟨0xE080, 0x4, 8, 0x0, 1, 0x0, 0x0, 0x0, 0x0, 0x0⟩, -- CFG_KEYk
   ⟨0xE100, 0x4, 16, 0x0, 1, 0x0, 0x0, 0x0, 0x0, 0x0⟩, -- CFG_ID_HASHi
   ⟨0xE200, 0x0, 1, 0x0, 1, 0x0, 0x0, 0x0, 0xF0F0003F, 0x0⟩, -- CFG_UNIT_CMD
   ⟨0xE204, 0x0, 1, 0x0, 1, 0xF0003F, 0x0, 0x0, 0x0, 0x0⟩, -- CFG_UNIT_SEL
   ⟨0xE208, 0x0, 1, 0x0, 1, 0x0, 0x0, 0x0, 0x0, 0x3F⟩ ] -- CFG_UNIT_INFO

/-- Registers of spec/19_safety.md. -/
def RegRow.rows19 : List RegRow :=
  [⟨0xE800, 0x40, 16, 0x0, 1, 0x0, 0xFFCF0FFF, 0x0, 0x0, 0x420000⟩, -- SAFE_WCHw_CFG
   ⟨0xE804, 0x40, 16, 0x0, 1, 0x0, 0xFFFFFFFF, 0x0, 0x0, 0x400000⟩, -- SAFE_WCHw_TOL
   ⟨0xE808, 0x40, 16, 0x0, 1, 0x0, 0xFFFFF, 0x0, 0x0, 0x0⟩, -- SAFE_WCHw_COLA
   ⟨0xE80C, 0x40, 16, 0x0, 1, 0x0, 0xFFFFF, 0x0, 0x0, 0x0⟩, -- SAFE_WCHw_COLB
   ⟨0xE810, 0x40, 16, 0x0, 1, 0x0, 0xFF3F0FFF, 0x0, 0x0, 0x10070000⟩, -- SAFE_WCHw_THR
   ⟨0xE814, 0x40, 16, 0x0, 1, 0x0, 0xFFFFFFFF, 0x0, 0x0, 0x7FFF8001⟩, -- SAFE_WCHw_BAND
   ⟨0xE818, 0x40, 16, 0x0, 1, 0x0, 0x0, 0x0, 0x0, 0x0⟩, -- SAFE_WCHw_STAT
   ⟨0xE81C, 0x40, 16, 0x0, 1, 0x0, 0x0, 0x0, 0x0, 0x0⟩, -- SAFE_WCHw_CNT_CMP
   ⟨0xE820, 0x40, 16, 0x0, 1, 0x0, 0x0, 0x0, 0x0, 0x0⟩, -- SAFE_WCHw_CNT_DIS
   ⟨0xE824, 0x40, 16, 0x0, 1, 0x0, 0x0, 0x0, 0x0, 0x0⟩, -- SAFE_WCHw_CNT_VOID
   ⟨0xE828, 0x40, 16, 0x0, 1, 0x0, 0x0, 0x0, 0x0, 0x0⟩, -- SAFE_WCHw_CNT_GFAIL
   ⟨0xE82C, 0x40, 16, 0x0, 1, 0x0, 0x7FFF7FFF, 0x0, 0x0, 0x0⟩, -- SAFE_WCHw_WID
   ⟨0xE830, 0x40, 16, 0x4, 4, 0x0, 0xFFFFFFFF, 0x0, 0x0, 0x0⟩, -- SAFE_WCHw_GREFi
   ⟨0xEC00, 0x0, 1, 0x0, 1, 0x0, 0x0, 0x100, 0x0, 0x0⟩, -- SAFE_STATUS
   ⟨0xEC04, 0x0, 1, 0x0, 1, 0x0, 0x33100, 0x0, 0x3, 0x11100⟩, -- SAFE_CTRL
   ⟨0xEC08, 0x0, 1, 0x0, 1, 0x0, 0x0, 0x0, 0x0, 0x1⟩, -- SAFE_CAUSE
   ⟨0xEC0C, 0x0, 1, 0x0, 1, 0x0, 0x0, 0x0, 0x0, 0x0⟩, -- SAFE_FIRST
   ⟨0xEC10, 0x0, 1, 0x0, 1, 0x0, 0x0, 0x0, 0x0, 0x0⟩, -- SAFE_POS_LO
   ⟨0xEC14, 0x0, 1, 0x0, 1, 0x0, 0x0, 0x0, 0x0, 0x0⟩, -- SAFE_POS_HI
   ⟨0xEC18, 0x0, 1, 0x0, 1, 0x0, 0x0, 0x0, 0x0, 0x0⟩, -- SAFE_LFT
   ⟨0xEC1C, 0x0, 1, 0x0, 1, 0x0, 0x0, 0x0, 0x80F0003F, 0x0⟩, -- SAFE_STEST_CMD
   ⟨0xEC20, 0x0, 1, 0x0, 1, 0x0, 0x0, 0x0, 0x0, 0x0⟩, -- SAFE_STEST_STAT
   ⟨0xEC24, 0x0, 1, 0x0, 1, 0x0, 0x0, 0x0, 0x0, 0x0⟩, -- SAFE_GREQ
   ⟨0xEC28, 0x0, 1, 0x0, 1, 0x0, 0x0, 0x0, 0x0, 0x0⟩, -- SAFE_WDOG_LAST
   ⟨0xEC30, 0x0, 1, 0x0, 1, 0x0, 0x0, 0x0, 0x0, 0x0⟩, -- SAFE_CNT_ENTRY
   ⟨0xEC34, 0x0, 1, 0x0, 1, 0x0, 0x0, 0x0, 0x0, 0x0⟩, -- SAFE_CNT_REQ
   ⟨0xEC38, 0x0, 1, 0x0, 1, 0x0, 0x0, 0x0, 0x0, 0x0⟩, -- SAFE_CNT_WDOG
   ⟨0xEC3C, 0x0, 1, 0x0, 1, 0x0, 0x0, 0x0, 0x0, 0x0⟩, -- SAFE_CNT_GREQ_MERGE
   ⟨0xED00, 0x4, 64, 0x0, 1, 0x0, 0xFFFF8FFF, 0x0, 0x0, 0x0⟩ ] -- SAFE_WDw

/-- Registers of spec/20_determinism_and_replay.md. -/
def RegRow.rows20 : List RegRow :=
  [⟨0xF000, 0x0, 1, 0x0, 1, 0x8FF0000F, 0x0, 0x0, 0x0, 0xF⟩, -- DBG_REC_CTRL
   ⟨0xF004, 0x0, 1, 0x0, 1, 0xFFFF0000, 0x0, 0x0, 0x0, 0x0⟩, -- DBG_REC_BASE_LO
   ⟨0xF008, 0x0, 1, 0x0, 1, 0x3, 0x0, 0x0, 0x0, 0x0⟩, -- DBG_REC_BASE_HI
   ⟨0xF00C, 0x0, 1, 0x0, 1, 0x3FFFF, 0x0, 0x0, 0x0, 0x10⟩, -- DBG_REC_SIZE
   ⟨0xF010, 0x0, 1, 0x0, 1, 0x0, 0x0, 0x0, 0x0, 0x0⟩, -- DBG_REC_CNT_LOST
   ⟨0xF020, 0x0, 1, 0x0, 1, 0x1, 0x0, 0x0, 0x0, 0x0⟩, -- DBG_RPL_CTRL
   ⟨0xF024, 0x0, 1, 0x0, 1, 0x0, 0x0, 0xC, 0x0, 0x0⟩, -- DBG_RPL_STATUS
   ⟨0xF028, 0x0, 1, 0x0, 1, 0x0, 0x0, 0x0, 0x0, 0x0⟩, -- DBG_RPL_DIV_LO
   ⟨0xF02C, 0x0, 1, 0x0, 1, 0x0, 0x0, 0x0, 0x0, 0x0⟩, -- DBG_RPL_DIV_HI
   ⟨0xF030, 0x0, 1, 0x0, 1, 0x0, 0x0, 0x0, 0x0, 0x0⟩, -- DBG_NONDET_COUNT
   ⟨0xF034, 0x0, 1, 0x0, 1, 0x0, 0x0, 0x7F, 0x0, 0x0⟩, -- DBG_NONDET_SRC
   ⟨0xF038, 0x0, 1, 0x0, 1, 0x0, 0x0, 0x0, 0x0, 0x0⟩, -- DBG_DSET_CRC
   ⟨0xF03C, 0x0, 1, 0x0, 1, 0x0, 0x0, 0x0, 0x0, 0x0⟩ ] -- DBG_DSET_CRC_B

/-- Registers of spec/21_gddr6_memory.md. -/
def RegRow.rows21 : List RegRow :=
  [⟨0xA800, 0x0, 1, 0x0, 1, 0x0, 0x0, 0x0, 0x0, 0x10F7⟩, -- MEM_INFO
   ⟨0xA804, 0x0, 1, 0x0, 1, 0x0, 0x0, 0x7, 0x0, 0x0⟩, -- MEM_STATUS
   ⟨0xA808, 0x0, 1, 0x0, 1, 0x0, 0x0, 0x0, 0x0, 0x0⟩, -- MEM_ECC_LAST
   ⟨0xA810, 0x0, 1, 0x0, 1, 0x0, 0x0, 0x0, 0x0, 0x0⟩, -- MEM_CNT_CE
   ⟨0xA814, 0x0, 1, 0x0, 1, 0x0, 0x0, 0x0, 0x0, 0x0⟩, -- MEM_CNT_UE
   ⟨0xA818, 0x0, 1, 0x0, 1, 0x0, 0x0, 0x0, 0x0, 0x0⟩, -- MEM_CNT_RCRC
   ⟨0xA81C, 0x0, 1, 0x0, 1, 0x0, 0x0, 0x0, 0x0, 0x0⟩, -- MEM_CNT_WCRC
   ⟨0xA820, 0x0, 1, 0x0, 1, 0x0, 0x0, 0x0, 0x0, 0x0⟩, -- MEM_CNT_REF_DELAY
   ⟨0xA824, 0x0, 1, 0x0, 1, 0x0, 0x0, 0x0, 0x0, 0x0⟩, -- MEM_CNT_BOUND
   ⟨0xA830, 0x0, 1, 0x0, 1, 0xFFFF, 0x0, 0x0, 0x0, 0x0⟩, -- MEM_PD_CTRL
   ⟨0xA834, 0x0, 1, 0x0, 1, 0x0, 0x0, 0x0, 0x0, 0x0⟩, -- MEM_PD_STAT
   ⟨0xA838, 0x0, 1, 0x0, 1, 0x0, 0x0, 0x0, 0x10F, 0x0⟩, -- MEM_PT_INV
   ⟨0xA900, 0x10, 16, 0x0, 1, 0x0, 0x3FFFF, 0x0, 0x0, 0x0⟩, -- MEM_CTXc_GLO
   ⟨0xA904, 0x10, 16, 0x0, 1, 0x0, 0x3FFFF, 0x0, 0x0, 0x0⟩, -- MEM_CTXc_GHI
   ⟨0xA908, 0x10, 16, 0x0, 1, 0x0, 0x3FFFF, 0x0, 0x0, 0x0⟩, -- MEM_CTXc_PT_BASE
   ⟨0xA90C, 0x10, 16, 0x0, 1, 0x0, 0x1FFFFF, 0x0, 0x0, 0x0⟩ ] -- MEM_CTXc_PT_LEN

/-- Registers of spec/22_power_clocks_reset.md. -/
def RegRow.rows22 : List RegRow :=
  [⟨0xF400, 0x0, 1, 0x0, 1, 0x0, 0x0, 0x6, 0x0, 0x0⟩, -- PWR_STATUS
   ⟨0xF404, 0x0, 1, 0x0, 1, 0x0, 0x0, 0x0, 0x0, 0x0⟩, -- PWR_RESET_CAUSE
   ⟨0xF408, 0x0, 1, 0x0, 1, 0x0, 0x0, 0x0, 0xFF000001, 0x0⟩, -- PWR_CTRL
   ⟨0xF40C, 0x0, 1, 0x0, 1, 0x0, 0x0, 0x0, 0x0, 0x0⟩, -- PWR_BOOT
   ⟨0xF410, 0x0, 1, 0x0, 1, 0xFFFF, 0x0, 0x0, 0x0, 0x3E8⟩, -- PWR_DIP_CFG
   ⟨0xF414, 0x0, 1, 0x0, 1, 0x0, 0x0, 0x0, 0x0, 0x0⟩, -- PWR_CNT_DIP
   ⟨0xF418, 0x0, 1, 0x0, 1, 0x0, 0x0, 0x0, 0x0, 0x0⟩, -- PWR_CNT_DIP_ESC
   ⟨0xF41C, 0x0, 1, 0x0, 1, 0x0, 0x0, 0x0, 0x0, 0x0⟩, -- PWR_VCORE
   ⟨0xF420, 0x0, 1, 0x0, 1, 0x0, 0x0, 0x0, 0x0, 0x0⟩, -- PWR_DIP_LAST_LO
   ⟨0xF424, 0x0, 1, 0x0, 1, 0x0, 0x0, 0x0, 0x0, 0x0⟩, -- PWR_DIP_LAST_HI
   ⟨0xF440, 0x4, 5, 0x0, 1, 0xFFFFFFFF, 0x0, 0x0, 0x0, 0x0⟩, -- PWR_DOM_OFFn
   ⟨0xF460, 0x4, 9, 0x0, 1, 0x0, 0x0, 0x0, 0x0, 0x0⟩, -- PWR_DOM_STATEn
   ⟨0xF500, 0x4, 36, 0x0, 1, 0xF, 0x0, 0x0, 0x0, 0x0⟩, -- PWR_SPADt
   ⟨0xF800, 0x0, 1, 0x0, 1, 0x0, 0x0, 0x0, 0x0, 0x0⟩, -- CLK_STATUS
   ⟨0xF804, 0x0, 1, 0x0, 1, 0x0, 0x0, 0x0, 0x0, 0x0⟩, -- CLK_CCY_LO
   ⟨0xF808, 0x0, 1, 0x0, 1, 0x0, 0x0, 0x0, 0x0, 0x0⟩, -- CLK_CCY_HI
   ⟨0xF810, 0x4, 10, 0x0, 1, 0x0, 0x0, 0x0, 0x0, 0x0⟩ ] -- CLK_FREQq

/-- Registers of spec/24_register_summary.md. -/
def RegRow.rows24 : List RegRow :=
  [⟨0x0000, 0x0, 1, 0x0, 1, 0x0, 0x0, 0x0, 0x0, 0x564B8064⟩, -- PANEL_ID
   ⟨0x0004, 0x0, 1, 0x0, 1, 0x0, 0x0, 0x0, 0x0, 0x100⟩, -- PANEL_STEP
   ⟨0x0008, 0x0, 1, 0x0, 1, 0x0, 0x0, 0x0, 0x0, 0x1⟩, -- PANEL_ROM
   ⟨0x000C, 0x0, 1, 0x0, 1, 0xFFFFFFFF, 0x0, 0x0, 0x0, 0x0⟩ ] -- PANEL_SCRATCH

/-- Every register row of the panel region (R525). -/
def RegRow.all : List RegRow :=
  RegRow.rows01 ++ RegRow.rows02 ++ RegRow.rows03 ++ RegRow.rows04 ++ RegRow.rows05 ++ RegRow.rows06 ++ RegRow.rows07 ++ RegRow.rows08 ++ RegRow.rows09 ++ RegRow.rows11 ++ RegRow.rows12 ++ RegRow.rows13 ++ RegRow.rows14 ++ RegRow.rows16 ++ RegRow.rows17 ++ RegRow.rows18 ++ RegRow.rows19 ++ RegRow.rows20 ++ RegRow.rows21 ++ RegRow.rows22 ++ RegRow.rows24

/-- Does offset `a` belong to row `r`? -/
def RegRow.holds (r : RegRow) (a : Nat) : Bool :=
  r.base ≤ a &&
  (let d := a - r.base
   let i := if r.stride = 0 then 0 else d / r.stride
   let e := if r.stride = 0 then d else d % r.stride
   i < r.count &&
   (if r.stride2 = 0 then e = 0 else e % r.stride2 = 0 && e / r.stride2 < r.count2))

/-- The row of offset `a`, if a register lies there (R527: elsewhere reads are 0 and writes have no effect). -/
def regRow? (a : Nat) : Option RegRow := RegRow.all.find? (·.holds a)

/-- Is `a` a register's offset? -/
def isReg (a : Nat) : Bool := (regRow? a).isSome

/-- FE_PORTn_CFG.HEAD_ID resets to 16n or as the field table gives it: the whole register is 0x100 + 0x20·n
(spec/24 register list), and TLR_t_ID to 0x101·t for t < 32 and 0x3F + 0x100·t otherwise (R234). -/
def regResetNat (a : Nat) : Nat :=
  if 0x3000 ≤ a ∧ a < 0x4000 ∧ (a - 0x3000) % 0x200 = 0 then 0x100 + 0x20 * ((a - 0x3000) / 0x200)
  else if 0x8000 ≤ a ∧ a < 0xA400 ∧ (a - 0x8000) % 0x100 = 0 then
    (let t := (a - 0x8000) / 0x100; if t < 32 then 0x101 * t else 0x3F + 0x100 * t)
  else match regRow? a with
    | some r => r.reset
    | none   => 0

/-- The value of the register at `a` right after part reset (R526); 0 where no register lies (R527). -/
def regReset (a : Nat) : Word := BitVec.ofNat 32 (regResetNat a)

/-! ## Register offsets by name -/

abbrev Reg.TB_CTRL : Nat := 0x2000
abbrev Reg.TB_STATUS : Nat := 0x2004
abbrev Reg.TB_SCALE : Nat := 0x2008
abbrev Reg.TB_POS_LO : Nat := 0x2010
abbrev Reg.TB_POS_HI : Nat := 0x2014
abbrev Reg.TB_POS_SET_LO : Nat := 0x2018
abbrev Reg.TB_POS_SET_HI : Nat := 0x201C
abbrev Reg.TB_FRONTIER_LO : Nat := 0x2020
abbrev Reg.TB_FRONTIER_HI : Nat := 0x2024
abbrev Reg.TB_LPERIOD : Nat := 0x2028
abbrev Reg.TB_SHEAF_TIME : Nat := 0x202C
abbrev Reg.TB_STOP_TIME : Nat := 0x2030
abbrev Reg.TB_REV_LIMIT : Nat := 0x2034
abbrev Reg.TB_Z_EXPECT : Nat := 0x2038
abbrev Reg.TB_Z_LATCH_LO : Nat := 0x2040
abbrev Reg.TB_Z_LATCH_HI : Nat := 0x2044
abbrev Reg.TB_MISS : Nat := 0x2048
abbrev Reg.TB_CNT_LATE : Nat := 0x204C
abbrev Reg.TB_CNT_MISSED : Nat := 0x2050
abbrev Reg.TB_CNT_QUAD : Nat := 0x2054
abbrev Reg.TB_SLIP_CTRL : Nat := 0x2058
abbrev Reg.TB_SLIP_STAT : Nat := 0x205C
abbrev Reg.TB_TRIG_CFG (i : Nat) : Nat := 0x2080 + 0x4 * i
abbrev Reg.SEQ_CTRL : Nat := 0x2100
abbrev Reg.SEQ_STATUS : Nat := 0x2104
abbrev Reg.SEQ_LAG : Nat := 0x2108
abbrev Reg.SEQ_GOLD : Nat := 0x210C
abbrev Reg.SEQ_SCAN : Nat := 0x2110
abbrev Reg.SEQ_TBL_INFO : Nat := 0x2114
abbrev Reg.SEQ_ROW_LO : Nat := 0x2118
abbrev Reg.SEQ_ROW_HI : Nat := 0x211C
abbrev Reg.SEQ_CNT_NOT_RIPE : Nat := 0x2120
abbrev Reg.SEQ_CNT_OVERRUN : Nat := 0x2124
abbrev Reg.SEQ_CNT_BUSY : Nat := 0x2128
abbrev Reg.SEQ_CNT_STALE : Nat := 0x212C
abbrev Reg.SEQ_CNT_ROW_SKIP : Nat := 0x2130
abbrev Reg.SEQ_CNT_LATE_CMD : Nat := 0x2134
abbrev Reg.SEQ_CNT_HUNG : Nat := 0x2138
abbrev Reg.SEQ_LAST_CHAFF : Nat := 0x2140
abbrev Reg.SEQ_LAST_CHAFF_LINE : Nat := 0x2144
abbrev Reg.FE_PORT_CFG (i : Nat) : Nat := 0x3000 + 0x200 * i
abbrev Reg.FE_PORT_LEN (i : Nat) : Nat := 0x3004 + 0x200 * i
abbrev Reg.FE_PORT_WIN (i : Nat) : Nat := 0x3008 + 0x200 * i
abbrev Reg.FE_PORT_WIN_END (i : Nat) : Nat := 0x300C + 0x200 * i
abbrev Reg.FE_PORT_FRAME (i : Nat) : Nat := 0x3010 + 0x200 * i
abbrev Reg.FE_PORT_DESKEW (i : Nat) : Nat := 0x3014 + 0x200 * i
abbrev Reg.FE_PORT_LIMIT (i : Nat) : Nat := 0x3018 + 0x200 * i
abbrev Reg.FE_PORT_STATUS (i : Nat) : Nat := 0x301C + 0x200 * i
abbrev Reg.FE_PORT_CNT_SHORT (i : Nat) : Nat := 0x3020 + 0x200 * i
abbrev Reg.FE_PORT_CNT_LONG (i : Nat) : Nat := 0x3024 + 0x200 * i
abbrev Reg.FE_PORT_CNT_LATE_END (i : Nat) : Nat := 0x3028 + 0x200 * i
abbrev Reg.FE_PORT_CNT_MISSING (i : Nat) : Nat := 0x302C + 0x200 * i
abbrev Reg.FE_PORT_CNT_EXTRA (i : Nat) : Nat := 0x3030 + 0x200 * i
abbrev Reg.FE_PORT_CNT_FRAME (i : Nat) : Nat := 0x3034 + 0x200 * i
abbrev Reg.FE_PORT_LAST_HDR2 (i : Nat) : Nat := 0x3040 + 0x200 * i
abbrev Reg.FE_PORT_LAST_LINE (i : Nat) : Nat := 0x3044 + 0x200 * i
abbrev Reg.FE_LANE_CTRL (i : Nat) : Nat := 0x3060 + 0x200 * i
abbrev Reg.FE_LANE_SNR (i : Nat) : Nat := 0x3064 + 0x200 * i
abbrev Reg.FE_LANE_NR_THR (i : Nat) : Nat := 0x3068 + 0x200 * i
abbrev Reg.FE_LANE_TNR (i : Nat) : Nat := 0x306C + 0x200 * i
abbrev Reg.FE_LANE_LEVEL (i : Nat) : Nat := 0x3070 + 0x200 * i
abbrev Reg.FE_LANE_TAG (i : Nat) : Nat := 0x3074 + 0x200 * i
abbrev Reg.FE_LANE_STATUS (i : Nat) : Nat := 0x3078 + 0x200 * i
abbrev Reg.FE_LANE_HEAD (i : Nat) : Nat := 0x307C + 0x200 * i
abbrev Reg.FE_LANE_HEADM (i j : Nat) : Nat := 0x3080 + 0x200 * i + 0x4 * j
abbrev Reg.FE_LANE_OUT_CFG (i j : Nat) : Nat := 0x30C0 + 0x200 * i + 0x8 * j
abbrev Reg.FE_LANE_OUT_CROP (i j : Nat) : Nat := 0x30C4 + 0x200 * i + 0x8 * j
abbrev Reg.FE_LANE_TBL_ADDR (i : Nat) : Nat := 0x30E0 + 0x200 * i
abbrev Reg.FE_LANE_TBL_DATA (i : Nat) : Nat := 0x30E4 + 0x200 * i
abbrev Reg.FE_LANE_STAT_BASE_LO (i : Nat) : Nat := 0x30E8 + 0x200 * i
abbrev Reg.FE_LANE_STAT_BASE_HI (i : Nat) : Nat := 0x30EC + 0x200 * i
abbrev Reg.FE_LANE_STAT_SEQ (i : Nat) : Nat := 0x30F0 + 0x200 * i
abbrev Reg.FE_LANE_CNT_DPC_UNFIX (i : Nat) : Nat := 0x30F4 + 0x200 * i
abbrev Reg.FE_LANE_CNT_TNR_RESET (i : Nat) : Nat := 0x30F8 + 0x200 * i
abbrev Reg.WP_SET_CFG (i : Nat) : Nat := 0x4000 + 0x20 * i
abbrev Reg.WP_SET_SIZE (i : Nat) : Nat := 0x4004 + 0x20 * i
abbrev Reg.WP_SET_MESH (i : Nat) : Nat := 0x4008 + 0x20 * i
abbrev Reg.WP_SET_OFF (i : Nat) : Nat := 0x400C + 0x20 * i
abbrev Reg.WP_MESH_ADDR : Nat := 0x4200
abbrev Reg.WP_MESH_DATA : Nat := 0x4204
abbrev Reg.WP_STATUS : Nat := 0x4208
abbrev Reg.WP_CNT_OOB (i : Nat) : Nat := 0x4400 + 0x10 * i
abbrev Reg.WP_CNT_INV (i : Nat) : Nat := 0x4404 + 0x10 * i
abbrev Reg.PY_SET_CFG (i : Nat) : Nat := 0x4800 + 0x10 * i
abbrev Reg.PY_SET_COEF (i : Nat) : Nat := 0x4804 + 0x10 * i
abbrev Reg.PY_STATUS : Nat := 0x4A00
abbrev Reg.PY_CNT_GAP (i : Nat) : Nat := 0x4C00 + 0x10 * i
abbrev Reg.PY_CNT_INV (i : Nat) : Nat := 0x4C04 + 0x10 * i
abbrev Reg.FT_SET_CFG (i : Nat) : Nat := 0x5000 + 0x20 * i
abbrev Reg.FT_SET_FMT (i : Nat) : Nat := 0x5004 + 0x20 * i
abbrev Reg.FT_SET_COL0 (i : Nat) : Nat := 0x5008 + 0x20 * i
abbrev Reg.FT_SET_REP (i : Nat) : Nat := 0x500C + 0x20 * i
abbrev Reg.FT_SET_THR (i : Nat) : Nat := 0x5010 + 0x20 * i
abbrev Reg.FT_SET_LIMIT (i : Nat) : Nat := 0x5014 + 0x20 * i
abbrev Reg.FT_PAT_ADDR : Nat := 0x5200
abbrev Reg.FT_PAT_DATA : Nat := 0x5204
abbrev Reg.FT_STATUS : Nat := 0x5208
abbrev Reg.FT_CNT_FEAT (i : Nat) : Nat := 0x5400 + 0x20 * i
abbrev Reg.FT_CNT_DROP (i : Nat) : Nat := 0x5404 + 0x20 * i
abbrev Reg.FT_CNT_REF (i : Nat) : Nat := 0x5408 + 0x20 * i
abbrev Reg.FT_CNT_REF_SKIP (i : Nat) : Nat := 0x540C + 0x20 * i
abbrev Reg.FT_CNT_GAP (i : Nat) : Nat := 0x5410 + 0x20 * i
abbrev Reg.FT_CNT_INV (i : Nat) : Nat := 0x5414 + 0x20 * i
abbrev Reg.ST_SET_CFG (i : Nat) : Nat := 0x5800 + 0x20 * i
abbrev Reg.ST_SET_SIZE (i : Nat) : Nat := 0x5804 + 0x20 * i
abbrev Reg.ST_SET_COL0 (i : Nat) : Nat := 0x5808 + 0x20 * i
abbrev Reg.ST_SET_REP (i : Nat) : Nat := 0x580C + 0x20 * i
abbrev Reg.ST_SET_DISP (i : Nat) : Nat := 0x5810 + 0x20 * i
abbrev Reg.ST_SET_PEN (i : Nat) : Nat := 0x5814 + 0x20 * i
abbrev Reg.ST_SET_REF (i : Nat) : Nat := 0x5818 + 0x20 * i
abbrev Reg.ST_SET_HK (i : Nat) : Nat := 0x581C + 0x20 * i
abbrev Reg.ST_STATUS : Nat := 0x5A00
abbrev Reg.ST_CNT_REF (i : Nat) : Nat := 0x5C00 + 0x20 * i
abbrev Reg.ST_CNT_REF_SKIP (i : Nat) : Nat := 0x5C04 + 0x20 * i
abbrev Reg.ST_CNT_REF_KEEP (i : Nat) : Nat := 0x5C08 + 0x20 * i
abbrev Reg.ST_CNT_NOTEX (i : Nat) : Nat := 0x5C0C + 0x20 * i
abbrev Reg.ST_CNT_OCC (i : Nat) : Nat := 0x5C10 + 0x20 * i
abbrev Reg.ST_CNT_OOR (i : Nat) : Nat := 0x5C14 + 0x20 * i
abbrev Reg.ST_CNT_GAP (i : Nat) : Nat := 0x5C18 + 0x20 * i
abbrev Reg.ST_CNT_INV (i : Nat) : Nat := 0x5C1C + 0x20 * i
abbrev Reg.FL_SET_CFG (i : Nat) : Nat := 0x6000 + 0x20 * i
abbrev Reg.FL_SET_GAP (i : Nat) : Nat := 0x6004 + 0x20 * i
abbrev Reg.FL_SET_SIZE (i : Nat) : Nat := 0x6008 + 0x20 * i
abbrev Reg.FL_SET_COL0 (i : Nat) : Nat := 0x600C + 0x20 * i
abbrev Reg.FL_SET_REP (i : Nat) : Nat := 0x6010 + 0x20 * i
abbrev Reg.FL_SET_CONF (i : Nat) : Nat := 0x6014 + 0x20 * i
abbrev Reg.FL_SET_MINV (i : Nat) : Nat := 0x6018 + 0x20 * i
abbrev Reg.FL_STATUS : Nat := 0x6200
abbrev Reg.FL_SUM_SHEAF (i : Nat) : Nat := 0x6300 + 0x10 * i
abbrev Reg.FL_SUM_DFLOW (i : Nat) : Nat := 0x6304 + 0x10 * i
abbrev Reg.FL_SUM_XFLOW (i : Nat) : Nat := 0x6308 + 0x10 * i
abbrev Reg.FL_SUM_STAT (i : Nat) : Nat := 0x630C + 0x10 * i
abbrev Reg.FL_CNT_VEC (i : Nat) : Nat := 0x6400 + 0x20 * i
abbrev Reg.FL_CNT_USED (i : Nat) : Nat := 0x6404 + 0x20 * i
abbrev Reg.FL_CNT_NOTEX (i : Nat) : Nat := 0x6408 + 0x20 * i
abbrev Reg.FL_CNT_OOR (i : Nat) : Nat := 0x640C + 0x20 * i
abbrev Reg.FL_CNT_INV (i : Nat) : Nat := 0x6410 + 0x20 * i
abbrev Reg.TLR_ID (i : Nat) : Nat := 0x8000 + 0x100 * i
abbrev Reg.TLR_FW_VER (i : Nat) : Nat := 0x8004 + 0x100 * i
abbrev Reg.TLR_FAULT (i : Nat) : Nat := 0x8008 + 0x100 * i
abbrev Reg.TLR_FAULT_PC (i : Nat) : Nat := 0x800C + 0x100 * i
abbrev Reg.TLR_CNT_TASK (i : Nat) : Nat := 0x8010 + 0x100 * i
abbrev Reg.TLR_CNT_ABORT (i : Nat) : Nat := 0x8014 + 0x100 * i
abbrev Reg.TLR_CNT_ARRAY (i : Nat) : Nat := 0x8018 + 0x100 * i
abbrev Reg.TLR_CNT_VEC (i : Nat) : Nat := 0x801C + 0x100 * i
abbrev Reg.TLR_CNT_FAULT (i : Nat) : Nat := 0x8020 + 0x100 * i
abbrev Reg.TLR_INFO : Nat := 0xA400
abbrev Reg.TLR_SPAD_SIZE : Nat := 0xA404
abbrev Reg.TLR_STATUS : Nat := 0xA408
abbrev Reg.TLR_PQ_CFG (i : Nat) : Nat := 0xA500 + 0x10 * i
abbrev Reg.TLR_PQ_CNT_CAP (i : Nat) : Nat := 0xA504 + 0x10 * i
abbrev Reg.TLR_PQ_CNT_LATE (i : Nat) : Nat := 0xA508 + 0x10 * i
abbrev Reg.TLR_PQ_CNT_KEPT (i : Nat) : Nat := 0xA50C + 0x10 * i
abbrev Reg.TLR_SPAD_CFG (i : Nat) : Nat := 0x8040 + 0x100 * i
abbrev Reg.TLR_CACHE_BASE (i : Nat) : Nat := 0x8044 + 0x100 * i
abbrev Reg.TLR_TASK_AWIN (i : Nat) : Nat := 0x8048 + 0x100 * i
abbrev Reg.TLR_TASK_CWIN (i : Nat) : Nat := 0x804C + 0x100 * i
abbrev Reg.TLR_TASK_KBASE (i : Nat) : Nat := 0x8050 + 0x100 * i
abbrev Reg.TLR_ECC_LAST (i : Nat) : Nat := 0x8054 + 0x100 * i
abbrev Reg.TLR_CNT_ECC_CE (i : Nat) : Nat := 0x8058 + 0x100 * i
abbrev Reg.TLR_CNT_ECC_UE (i : Nat) : Nat := 0x805C + 0x100 * i
abbrev Reg.TLR_CNT_SB_STALL (i : Nat) : Nat := 0x8060 + 0x100 * i
abbrev Reg.TLR_CNT_SB_FULL (i : Nat) : Nat := 0x8064 + 0x100 * i
abbrev Reg.TLR_CNT_GLUME_REJ (i : Nat) : Nat := 0x8068 + 0x100 * i
abbrev Reg.TLR_CNT_CACHE_MISS (i : Nat) : Nat := 0x806C + 0x100 * i
abbrev Reg.TLR_REPAIR_LO (i : Nat) : Nat := 0x8070 + 0x100 * i
abbrev Reg.TLR_REPAIR_HI (i : Nat) : Nat := 0x8074 + 0x100 * i
abbrev Reg.TLR_GLUME_BASE (i j : Nat) : Nat := 0x8080 + 0x100 * i + 0x10 * j
abbrev Reg.TLR_GLUME_SIZE (i j : Nat) : Nat := 0x8084 + 0x100 * i + 0x10 * j
abbrev Reg.TLR_GLUME_CTRL (i j : Nat) : Nat := 0x8088 + 0x100 * i + 0x10 * j
abbrev Reg.GRN_INFO : Nat := 0x7000
abbrev Reg.GRN_STATUS : Nat := 0x7004
abbrev Reg.GRN_RT_INFO : Nat := 0x7008
abbrev Reg.GRN_ECC_LAST : Nat := 0x700C
abbrev Reg.GRN_CNT_CE : Nat := 0x7010
abbrev Reg.GRN_CNT_UE : Nat := 0x7014
abbrev Reg.GRN_CNT_BOUND : Nat := 0x7018
abbrev Reg.GRN_FLAG_ADDR : Nat := 0x7020
abbrev Reg.GRN_FLAG_DATA : Nat := 0x7024
abbrev Reg.GRN_CTX_WIN (i : Nat) : Nat := 0x7100 + 0x4 * i
abbrev Reg.STRM_ARB : Nat := 0xB000
abbrev Reg.STRM_WHEEL : Nat := 0xB004
abbrev Reg.STRM_STATUS : Nat := 0xB008
abbrev Reg.STRM_CNT_PAD_SKIP (i : Nat) : Nat := 0xB100 + 0x10 * i
abbrev Reg.STRM_CNT_SCAT_DUP (i : Nat) : Nat := 0xB104 + 0x10 * i
abbrev Reg.STRM_CNT_IDX_OOR (i : Nat) : Nat := 0xB108 + 0x10 * i
abbrev Reg.STRM_CNT_ARM_REJ (i : Nat) : Nat := 0xB10C + 0x10 * i
abbrev Reg.DMA_STAGE (i : Nat) : Nat := 0xB800 + 0x20 * i
abbrev Reg.DMA_CHSTAT (i : Nat) : Nat := 0xB804 + 0x20 * i
abbrev Reg.DMA_RESUME (i : Nat) : Nat := 0xB808 + 0x20 * i
abbrev Reg.DMA_LAST_BAD (i : Nat) : Nat := 0xB80C + 0x20 * i
abbrev Reg.DMA_CNT_BAD (i : Nat) : Nat := 0xB810 + 0x20 * i
abbrev Reg.DMA_CNT_XLATE (i : Nat) : Nat := 0xB814 + 0x20 * i
abbrev Reg.DMA_XLATE_LO (i : Nat) : Nat := 0xB818 + 0x20 * i
abbrev Reg.DMA_XLATE_HI (i : Nat) : Nat := 0xB81C + 0x20 * i
abbrev Reg.SYNC_INFO : Nat := 0xC000
abbrev Reg.SYNC_STATUS : Nat := 0xC004
abbrev Reg.SYNC_CELL_ADDR : Nat := 0xC010
abbrev Reg.SYNC_CELL_CFG : Nat := 0xC014
abbrev Reg.SYNC_CELL_VAL_LO : Nat := 0xC018
abbrev Reg.SYNC_CELL_VAL_HI : Nat := 0xC01C
abbrev Reg.SYNC_CELL_AUX_LO : Nat := 0xC020
abbrev Reg.SYNC_CELL_AUX_HI : Nat := 0xC024
abbrev Reg.SYNC_CELL_CMD : Nat := 0xC028
abbrev Reg.SYNC_VT_ADDR : Nat := 0xC030
abbrev Reg.SYNC_VT_DATA : Nat := 0xC034
abbrev Reg.SYNC_LAST_FAULT : Nat := 0xC038
abbrev Reg.SYNC_CNT_UNDER : Nat := 0xC040
abbrev Reg.SYNC_CNT_OVER : Nat := 0xC044
abbrev Reg.SYNC_CNT_DEAD_SIG : Nat := 0xC048
abbrev Reg.SYNC_CNT_PERM : Nat := 0xC04C
abbrev Reg.SYNC_CNT_KIND : Nat := 0xC050
abbrev Reg.SYNC_CNT_MANUAL : Nat := 0xC054
abbrev Reg.SYNC_CNT_ECC : Nat := 0xC058
abbrev Reg.SYNC_CTX_CFG (i : Nat) : Nat := 0xC100 + 0x10 * i
abbrev Reg.SYNC_CTX_CTRL (i : Nat) : Nat := 0xC104 + 0x10 * i
abbrev Reg.SYNC_CTX_DL_SET (i : Nat) : Nat := 0xC108 + 0x10 * i
abbrev Reg.SYNC_CTX_DL_CELL (i : Nat) : Nat := 0xC10C + 0x10 * i
abbrev Reg.DSP_RL_CFG (i : Nat) : Nat := 0xC400 + 0x20 * i
abbrev Reg.DSP_RL_DEPTH (i : Nat) : Nat := 0xC404 + 0x20 * i
abbrev Reg.DSP_RL_CNT_POST (i : Nat) : Nat := 0xC408 + 0x20 * i
abbrev Reg.DSP_RL_CNT_FULL (i : Nat) : Nat := 0xC40C + 0x20 * i
abbrev Reg.DSP_RL_CNT_GRANT (i : Nat) : Nat := 0xC410 + 0x20 * i
abbrev Reg.DSP_RL_CNT_LATE (i : Nat) : Nat := 0xC414 + 0x20 * i
abbrev Reg.DSP_RL_WAIT_SUM (i : Nat) : Nat := 0xC418 + 0x20 * i
abbrev Reg.DSP_RL_WAIT_MAX (i : Nat) : Nat := 0xC41C + 0x20 * i
abbrev Reg.DSP_CLR : Nat := 0xCF00
abbrev Reg.DSP_STATUS : Nat := 0xCF04
abbrev Reg.DSP_PULL (i : Nat) : Nat := 0xCC00 + 0x10 * i
abbrev Reg.DSP_RUN (i : Nat) : Nat := 0xCC04 + 0x10 * i
abbrev Reg.DSP_LAST (i : Nat) : Nat := 0xCC08 + 0x10 * i
abbrev Reg.HOST_CTRL : Nat := 0xD000
abbrev Reg.HOST_STATUS : Nat := 0xD004
abbrev Reg.HOST_ATTN_STATUS : Nat := 0xD008
abbrev Reg.HOST_ATTN_MASK : Nat := 0xD00C
abbrev Reg.HOST_EVT_RD : Nat := 0xD010
abbrev Reg.HOST_CNT_STEP_EARLY : Nat := 0xD014
abbrev Reg.HOST_CNT_DISCARD : Nat := 0xD018
abbrev Reg.HOST_CNT_PEND_FULL : Nat := 0xD01C
abbrev Reg.HOST_RRD_ADDR : Nat := 0xD020
abbrev Reg.HOST_RRD_CMD : Nat := 0xD024
abbrev Reg.HOST_RRD_DATA : Nat := 0xD028
abbrev Reg.HOST_CR_CFG (i : Nat) : Nat := 0xD100 + 0x10 * i
abbrev Reg.HOST_CR_TAIL (i : Nat) : Nat := 0xD104 + 0x10 * i
abbrev Reg.HOST_CR_HEAD (i : Nat) : Nat := 0xD108 + 0x10 * i
abbrev Reg.HOST_CR_CNT_REJ (i : Nat) : Nat := 0xD10C + 0x10 * i
abbrev Reg.HOST_RR_CFG (i : Nat) : Nat := 0xD200 + 0x20 * i
abbrev Reg.HOST_RR_SEQ (i : Nat) : Nat := 0xD204 + 0x20 * i
abbrev Reg.HOST_RR_RD (i : Nat) : Nat := 0xD208 + 0x20 * i
abbrev Reg.HOST_RR_WM (i : Nat) : Nat := 0xD20C + 0x20 * i
abbrev Reg.HOST_RR_CNT_OVWR (i : Nat) : Nat := 0xD210 + 0x20 * i
abbrev Reg.HOST_FRAME_ADDR (i : Nat) : Nat := 0xD400 + 0x8 * i
abbrev Reg.HOST_FRAME_CTRL (i : Nat) : Nat := 0xD404 + 0x8 * i
abbrev Reg.LNK_SYS : Nat := 0xD800
abbrev Reg.LNK_SYS_ID : Nat := 0xD804
abbrev Reg.LNK_STATUS : Nat := 0xD808
abbrev Reg.LNK_CTRL : Nat := 0xD80C
abbrev Reg.LNK_VC_WHEEL : Nat := 0xD810
abbrev Reg.LNK_GM_LO (i : Nat) : Nat := 0xD820 + 0x8 * i
abbrev Reg.LNK_GM_HI (i : Nat) : Nat := 0xD824 + 0x8 * i
abbrev Reg.LNK_CNT_UNREACH : Nat := 0xD880
abbrev Reg.LNK_CNT_EVT_LOST : Nat := 0xD884
abbrev Reg.LNK_CNT_MC_DROP : Nat := 0xD888
abbrev Reg.LNK_L_CNT_PKT (i : Nat) : Nat := 0xD900 + 0x20 * i
abbrev Reg.LNK_L_CNT_RETRY (i : Nat) : Nat := 0xD904 + 0x20 * i
abbrev Reg.LNK_L_CNT_RETRAIN (i : Nat) : Nat := 0xD908 + 0x20 * i
abbrev Reg.LNK_L_CNT_REROUTE (i : Nat) : Nat := 0xD90C + 0x20 * i
abbrev Reg.LNK_PN_STAT (i : Nat) : Nat := 0xDA00 + 0x4 * i
abbrev Reg.CFG_LOAD_LO : Nat := 0xE000
abbrev Reg.CFG_LOAD_HI : Nat := 0xE004
abbrev Reg.CFG_LOAD_LEN : Nat := 0xE008
abbrev Reg.CFG_CMD : Nat := 0xE00C
abbrev Reg.CFG_STATUS : Nat := 0xE010
abbrev Reg.CFG_COMMIT : Nat := 0xE014
abbrev Reg.CFG_BASE_VER : Nat := 0xE018
abbrev Reg.CFG_REPORT_LO : Nat := 0xE020
abbrev Reg.CFG_REPORT_HI : Nat := 0xE024
abbrev Reg.CFG_CNT_REJECT : Nat := 0xE028
abbrev Reg.CFG_CNT_DISCARD : Nat := 0xE02C
abbrev Reg.CFG_CNT_FENCE_DROP : Nat := 0xE030
abbrev Reg.CFG_PART_STAT (i : Nat) : Nat := 0xE040 + 0x8 * i
abbrev Reg.CFG_PART_VER (i : Nat) : Nat := 0xE044 + 0x8 * i
abbrev Reg.CFG_KEY (i : Nat) : Nat := 0xE080 + 0x4 * i
abbrev Reg.CFG_ID_HASH (i : Nat) : Nat := 0xE100 + 0x4 * i
abbrev Reg.CFG_UNIT_CMD : Nat := 0xE200
abbrev Reg.CFG_UNIT_SEL : Nat := 0xE204
abbrev Reg.CFG_UNIT_INFO : Nat := 0xE208
abbrev Reg.SAFE_WCH_CFG (i : Nat) : Nat := 0xE800 + 0x40 * i
abbrev Reg.SAFE_WCH_TOL (i : Nat) : Nat := 0xE804 + 0x40 * i
abbrev Reg.SAFE_WCH_COLA (i : Nat) : Nat := 0xE808 + 0x40 * i
abbrev Reg.SAFE_WCH_COLB (i : Nat) : Nat := 0xE80C + 0x40 * i
abbrev Reg.SAFE_WCH_THR (i : Nat) : Nat := 0xE810 + 0x40 * i
abbrev Reg.SAFE_WCH_BAND (i : Nat) : Nat := 0xE814 + 0x40 * i
abbrev Reg.SAFE_WCH_STAT (i : Nat) : Nat := 0xE818 + 0x40 * i
abbrev Reg.SAFE_WCH_CNT_CMP (i : Nat) : Nat := 0xE81C + 0x40 * i
abbrev Reg.SAFE_WCH_CNT_DIS (i : Nat) : Nat := 0xE820 + 0x40 * i
abbrev Reg.SAFE_WCH_CNT_VOID (i : Nat) : Nat := 0xE824 + 0x40 * i
abbrev Reg.SAFE_WCH_CNT_GFAIL (i : Nat) : Nat := 0xE828 + 0x40 * i
abbrev Reg.SAFE_WCH_WID (i : Nat) : Nat := 0xE82C + 0x40 * i
abbrev Reg.SAFE_WCH_GREF (i j : Nat) : Nat := 0xE830 + 0x40 * i + 0x4 * j
abbrev Reg.SAFE_STATUS : Nat := 0xEC00
abbrev Reg.SAFE_CTRL : Nat := 0xEC04
abbrev Reg.SAFE_CAUSE : Nat := 0xEC08
abbrev Reg.SAFE_FIRST : Nat := 0xEC0C
abbrev Reg.SAFE_POS_LO : Nat := 0xEC10
abbrev Reg.SAFE_POS_HI : Nat := 0xEC14
abbrev Reg.SAFE_LFT : Nat := 0xEC18
abbrev Reg.SAFE_STEST_CMD : Nat := 0xEC1C
abbrev Reg.SAFE_STEST_STAT : Nat := 0xEC20
abbrev Reg.SAFE_GREQ : Nat := 0xEC24
abbrev Reg.SAFE_WDOG_LAST : Nat := 0xEC28
abbrev Reg.SAFE_CNT_ENTRY : Nat := 0xEC30
abbrev Reg.SAFE_CNT_REQ : Nat := 0xEC34
abbrev Reg.SAFE_CNT_WDOG : Nat := 0xEC38
abbrev Reg.SAFE_CNT_GREQ_MERGE : Nat := 0xEC3C
abbrev Reg.SAFE_WD (i : Nat) : Nat := 0xED00 + 0x4 * i
abbrev Reg.DBG_REC_CTRL : Nat := 0xF000
abbrev Reg.DBG_REC_BASE_LO : Nat := 0xF004
abbrev Reg.DBG_REC_BASE_HI : Nat := 0xF008
abbrev Reg.DBG_REC_SIZE : Nat := 0xF00C
abbrev Reg.DBG_REC_CNT_LOST : Nat := 0xF010
abbrev Reg.DBG_RPL_CTRL : Nat := 0xF020
abbrev Reg.DBG_RPL_STATUS : Nat := 0xF024
abbrev Reg.DBG_RPL_DIV_LO : Nat := 0xF028
abbrev Reg.DBG_RPL_DIV_HI : Nat := 0xF02C
abbrev Reg.DBG_NONDET_COUNT : Nat := 0xF030
abbrev Reg.DBG_NONDET_SRC : Nat := 0xF034
abbrev Reg.DBG_DSET_CRC : Nat := 0xF038
abbrev Reg.DBG_DSET_CRC_B : Nat := 0xF03C
abbrev Reg.MEM_INFO : Nat := 0xA800
abbrev Reg.MEM_STATUS : Nat := 0xA804
abbrev Reg.MEM_ECC_LAST : Nat := 0xA808
abbrev Reg.MEM_CNT_CE : Nat := 0xA810
abbrev Reg.MEM_CNT_UE : Nat := 0xA814
abbrev Reg.MEM_CNT_RCRC : Nat := 0xA818
abbrev Reg.MEM_CNT_WCRC : Nat := 0xA81C
abbrev Reg.MEM_CNT_REF_DELAY : Nat := 0xA820
abbrev Reg.MEM_CNT_BOUND : Nat := 0xA824
abbrev Reg.MEM_PD_CTRL : Nat := 0xA830
abbrev Reg.MEM_PD_STAT : Nat := 0xA834
abbrev Reg.MEM_PT_INV : Nat := 0xA838
abbrev Reg.MEM_CTX_GLO (i : Nat) : Nat := 0xA900 + 0x10 * i
abbrev Reg.MEM_CTX_GHI (i : Nat) : Nat := 0xA904 + 0x10 * i
abbrev Reg.MEM_CTX_PT_BASE (i : Nat) : Nat := 0xA908 + 0x10 * i
abbrev Reg.MEM_CTX_PT_LEN (i : Nat) : Nat := 0xA90C + 0x10 * i
abbrev Reg.PWR_STATUS : Nat := 0xF400
abbrev Reg.PWR_RESET_CAUSE : Nat := 0xF404
abbrev Reg.PWR_CTRL : Nat := 0xF408
abbrev Reg.PWR_BOOT : Nat := 0xF40C
abbrev Reg.PWR_DIP_CFG : Nat := 0xF410
abbrev Reg.PWR_CNT_DIP : Nat := 0xF414
abbrev Reg.PWR_CNT_DIP_ESC : Nat := 0xF418
abbrev Reg.PWR_VCORE : Nat := 0xF41C
abbrev Reg.PWR_DIP_LAST_LO : Nat := 0xF420
abbrev Reg.PWR_DIP_LAST_HI : Nat := 0xF424
abbrev Reg.PWR_DOM_OFF (i : Nat) : Nat := 0xF440 + 0x4 * i
abbrev Reg.PWR_DOM_STATE (i : Nat) : Nat := 0xF460 + 0x4 * i
abbrev Reg.PWR_SPAD (i : Nat) : Nat := 0xF500 + 0x4 * i
abbrev Reg.CLK_STATUS : Nat := 0xF800
abbrev Reg.CLK_CCY_LO : Nat := 0xF804
abbrev Reg.CLK_CCY_HI : Nat := 0xF808
abbrev Reg.CLK_FREQ (i : Nat) : Nat := 0xF810 + 0x4 * i
abbrev Reg.PANEL_ID : Nat := 0x0000
abbrev Reg.PANEL_STEP : Nat := 0x0004
abbrev Reg.PANEL_ROM : Nat := 0x0008
abbrev Reg.PANEL_SCRATCH : Nat := 0x000C

end Sys2Proof.Machine
end

