-- ==== Sys2Proof/Machine/State.lean ====
section
/-! DEFINITION. The whole state of the block as plain data: the queue of waiting commands, what the thresher and the pins
show, and everything that the specification gives the part; the state right after reset; faults and refusals. -/

namespace Sys2Proof.Machine

/-! ## Values of the indexed parts before anything has happened to them -/

/-- An idle timebase at position 0 (R45, R526). -/
def Tb.init : Tb :=
  { pos := 0, acc := 0, frontier := 0, a := false, b := false, z := false, lt := false, zcount := 0, zfirst := true, zrev := false,
    revDone := false, zlost := false, lastArr := none, lastTb := none, sheafTb := none, issued := none, phase := 0,
    late := false, sheafSt := false, holdTb := none, flight := none, lastTick := none, tickLine := 0, lastCount := 0 }

/-- A trigger output that has not fired. -/
def Trig.init : Trig := { last := none, due := [], pulses := [], count := 0, cfgd := false }

/-- A camera port with no record and no entry, FVAL low (log entry 58). -/
def Port.init : Port :=
  { recs := [], intake := [], lval := false, fval := false, discard := false, extra := false, shortF := false, frameN := 0,
    missRun := 0, closing := .none }

/-- A lane with no history. -/
def LaneSt.init : LaneSt :=
  { tnr := [], tnrLine := none, tnrOk := 0, msgs := [], headWr := false, applies := [], stats := [], malfs := [],
    headErr := [] }

/-- An empty pyramid level store (R130). -/
def PyrSt.init : PyrSt := { levels := [], last := none }

/-- A logical tuft slot with no lines. -/
def TuftSt.init : TuftSt := { rows := [], last := none, sheaf := 0, load := none, used := [], told := false }

/-- A logical stereo slot at a path start. -/
def StereoSt.init : StereoSt :=
  { path := [], last := none, gap := false, ue := false, susp := false, mal := false, word2 := none, chaff := none }

/-- A flow slot that has accumulated nothing. -/
def FlowAcc.init : FlowAcc := ⟨0, 0, 0, 0⟩

/-- An empty transposition buffer. -/
def TBuf.init : TBuf := { elems := [], width := 0, rows := 0, cols := 0, full := false }

/-- A tiller right after reset: registers 0 (DESIGN CHOICE, log entry 1), no task. -/
def Tiller.init : Tiller :=
  { x := [], v := [], mask := 2 ^ 64 - 1, acc := [], tb0 := TBuf.init, tb1 := TBuf.init, fillIdx := 0,
    blocked := .none, woken := none, handler := false, task := none, run := none, pend := none, opId := 0,
    chainIn := [], slots := [], chans := [], sb := [], fc := none, scrub := [], cache := [], cacheSz := 0,
    resizing := false, imgLen := 0, tlb := [], poison := [], stall := none }

/-- An unbound patch queue. -/
def PQueue.init : PQueue :=
  { bound := false, consumer := 0, base := 0, count := 1, depth := 1, last := none, lines := [] }

/-- A FREE sync cell (R308). -/
def Cell.init : Cell :=
  { kind := .counter, state := .free, owner := 0, shared := false, attn := false, bound := 0, val := 0, aux := 0 }

/-- A stream slot that holds nothing. -/
def StrmSlot.init : StrmSlot :=
  { state := .empty, cause := 0, desc := [], awin := 0#32, cwin := 0#32, ctx := 0, pos := 0, startC := 0,
    half := false, full := false, chain := none, asked := [], askE := 0, askT := false, askN := 0,
    carry := 0#8, began := false }

/-- A unit of CFG_UNIT_INFO's reset value: OFF, epoch 0, unmapped (R435). -/
def UnitSt.init : UnitSt := ⟨0, 0, 0x3F, 0, 0x3F⟩

/-- A panicle receiver that has dropped nothing. -/
def PnState.init : PnState := { dropped := false, spoilT := false, spoil := none }

/-- An empty schedule. -/
def Sched.init : Sched := { tbl := [], chk := [], out := [], rings := [], templ := [], recs := [] }

/-- The values of the calibration tables right after reset (R112), by key `lane * 2^21 + TBL_ADDR` with INDEX, TABLE and
BANK at their places in TBL_ADDR. -/
def calReset (k : Nat) : Word :=
  let tbl := k / 2 ^ 16 % 4
  if tbl = 0 then 0x40000000#32 else if tbl = 2 then wd (min 4095 (64 * (k % 2 ^ 16))) else 0#32

/-- Every mesh point is 0 after reset (log entry 2). -/
def meshReset : Nat → Word := fun _ => 0#32

/-! ## The registers and memories -/

/-- The panel registers: as read in their own domain (`cur`), the SH values in force (`force`) and those in force one and
two sheaves earlier (R107, R118), the port's register mirror (R367), the HI registers that a LO read has snapped, and the
engine sets written in this sheaf. -/
structure Regs where
  cur    : List (Nat × Word)
  force  : List (Nat × Word)
  prev   : List (Nat × Word)
  prev2  : List (Nat × Word)
  mirror : List (Nat × Word)
  snap   : List (Nat × Word)
  /-- the sheaves whose boundaries formed `force` and `prev` (R108, R119; log entry 72) -/
  forceAt : Nat
  prevAt  : Nat
  /-- engine sets, by first offset, written since the last sheaf boundary (R118) -/
  wrote  : List Nat
  deriving DecidableEq, Repr

/-- The addressed memories: GDDR6 (34 bits, R480), Granary (26 bits, R271), scratchpads (key `t * 2^21 + P`, R250),
instruction memories (key `t * 2^16 + a`, R262), the SRAM of the host window (R365), firmware images of logical slots in
the staging region (R417), calibration tables and the warp mesh. -/
structure Mems where
  gddr  : List Host.Cell
  gran  : List Host.Cell
  spad  : List Host.Cell
  imem  : List Host.Cell
  win   : List Host.Cell
  image : List Host.Cell
  cal   : List (Nat × Word)
  mesh  : List (Nat × Word)
  deriving DecidableEq, Repr

/-- Nothing has happened in this cycle. -/
def Now.init : Now :=
  { bits := [], flags := [], ops := [], waits := [], grants := 0, reqs := [], via := 0, once := [] }

/-- The part, but for the queue of commands and what the thresher and pins show. -/
structure Block where
  regs   : Regs
  mems   : Mems
  pwr    : Pwr
  tb     : Tb
  trigs  : List (Nat × Trig)
  seq    : Seq
  sched  : Sched
  ports  : List (Nat × Port)
  lanes  : List (Nat × LaneSt)
  /-- engine stores by logical slot -/
  pyr    : List (Nat × PyrSt)
  tuft   : List (Nat × TuftSt)
  stereo : List (Nat × StereoSt)
  flow   : List (Nat × FlowAcc)
  /-- ripe flags (R275) -/
  flags  : List (Nat × Bool)
  tlr    : List (Nat × Tiller)
  chains : List Chain
  /-- ready lists (R331) and patch queues (R227) -/
  lists  : List (Nat × List Posted)
  pqs    : List (Nat × PQueue)
  /-- blocked TPULLs' issue order number (R339) -/
  issueN : Nat
  sync   : SyncSt
  host   : HostSt
  links  : Links
  cfg    : CfgSt
  safe   : SafeSt
  dbg    : DbgSt
  mem    : MemSt
  /-- next slot of STRM_WHEEL and last port granted, by arbitration point (R299) -/
  arb    : List (Nat × (Nat × Nat))
  /-- events raised in this command and not yet taken by the thresher -/
  raised : List Ev
  /-- (CODE, item) pairs already raised in this sheaf, for events raised at the first occurrence per sheaf -/
  once   : List (Nat × Nat)
  /-- what the core cycle in progress has seen -/
  now    : Now
  /-- instructions that the scoreboard holds at issue, by tiller (R258), and whether something has happened since they were
  last tried -/
  held   : List (Nat × Instr)
  retry  : Bool
  /-- the cycle in which HOST_EVT_OVWR is to be raised (R378) -/
  ovwr   : Option Nat
  deriving DecidableEq, Repr

/-- The state of the block. -/
structure State where
  pending : List Instr
  pub     : Published
  blk     : Block
  deriving DecidableEq, Repr

/-- No command of this block ends in a fault (log entry 4): there is none. -/
inductive Fault where
  deriving DecidableEq, Repr

/-- Refusals. -/
inductive Refusal where
  /-- Raised by an arm of `exec` for a command that has no meaning yet. Safe. -/
  | notModelled (mnemonic : String)
  deriving DecidableEq, Repr

/-! ## Reset -/

/-- Registers at their reset values (R526). -/
def Regs.init : Regs :=
  { cur := [], force := [], prev := [], prev2 := [], mirror := [], snap := [], forceAt := 0, prevAt := 2 ^ 34 - 1, wrote := [] }

/-- Memories with nothing listed (log entry 2). -/
def Mems.init : Mems :=
  { gddr := [], gran := [], spad := [], imem := [], win := [], image := [], cal := [], mesh := [] }

/-- The rachis before any row. -/
def Seq.init : Seq :=
  { invs := [], missed := [], unticked := [], base := none, skipped := [], row := none, rowC := 0, pend := [],
    marks := [], opened := [], prevRow := none, restart := false, stale := [], scanned := false, ticks := [], pubLine := [], goldQ := [], later := [], arrived := none, dup := false }

/-- The sync block right after reset: every cell FREE (R308). -/
def SyncSt.init : SyncSt := { cells := [], vt := [], run := [], broken := [], flagged := [] }

/-- The host port before the host has trained it. -/
def HostSt.init : HostSt :=
  { modeRegs := [], port0 := .idle, port1 := .idle, trained := 0, zq := 0, wrFifo := [], refreshes := 0, stepC := [],
    tails := [], touched := [], frameOp := [], rdata := 0#32, mrData := 0 }

/-- Links down, no system section. -/
def Links.init : Links :=
  { replay := [], txSeq := [], rxSeq := [], lostTx := [], voidRx := [], parts := [], early := [], nak := [], alt := [], wasUp := false, route := [], pans := [],
    largest := [], pn := [], vcq := [], pnq := [], rrd := false }

/-- Nothing loaded; the spare map is formed at boot (R421). -/
def CfgSt.init : CfgSt :=
  { loading := none, ready := none, commit := none, envs := [], old := [], keyHash := [], baseHash := [], unitHash := [],
    partHash := [], idHash := [], nonce := [], units := [], epochs := [], waits := [], fences := [], marked := [],
    reload := [], imgs := [], gold := none }

/-- Chombe in START (R458); no request waits. -/
def SafeSt.init : SafeSt :=
  { req := [], since := none, tillC := none, wdog := [], cond := [], clkSeen := false, greq := none, greqRow := 0 }

/-- Recorder and replayer off. -/
def DbgSt.init : DbgSt :=
  { mask := 0, cam := 0, queue := [], wrOff := 0, wraps := 0, lost := 0, midrun := false, rdOff := 0, digPos := [],
    ports := [] }

/-- The always-on domain held in reset by PORST_N, before its rising edge (R499). -/
def Pwr.init : Pwr :=
  { ccy := 0, core := false, held := false, port := false, devid := 0, straps := 0, low := none, suspect := false, dipReq := false, dipTicks := 0, dipC := 0,
    dipEndC := 0, wakeQ := [], offLater := [], fillC := [], fresh := false }

/-- No poisoned unit, nothing queued. -/
def MemSt.init : MemSt := { poison := [], wback := [], grScrub := [], refresh := [], hot := [] }

/-- The part right after part reset. -/
def Block.init : Block :=
  { regs := Regs.init, mems := Mems.init, pwr := Pwr.init, tb := Tb.init, trigs := [], seq := Seq.init,
    sched := Sched.init, ports := [], lanes := [], pyr := [], tuft := [], stereo := [], flow := [], flags := [],
    tlr := [], chains := [], lists := [], pqs := [], issueN := 0, sync := SyncSt.init, host := HostSt.init,
    links := Links.init, cfg := CfgSt.init, safe := SafeSt.init, dbg := DbgSt.init, mem := MemSt.init, arb := [],
    raised := [], once := [], now := Now.init, held := [], retry := false, ovwr := none }

/-- The balls during reset (R523). -/
def Balls.init : Balls :=
  { trig := List.replicate 8 .z, cpBus := List.replicate 8 .released, flash := .low, tx := List.replicate 4 .idle, host := .z }

/-- An empty event ring, HOST_ATTN_N released (no bit of HOST_ATTN_STATUS is set), SAFE_N low (R436, R523). -/
def Published.init : Published :=
  { ring := [], seq := 0, attnN := .released, safeN := .low, balls := Balls.init, fwdQ := [], lost := 0 }

/-- The block right after reset: every register at its reset value, an empty queue, nothing listed in any memory. -/
def State.reset : State := { pending := [], pub := Published.init, blk := Block.init }

end Sys2Proof.Machine
end

