-- ==== Sys2Proof/Machine/Ops.lean ====
section
/-! DEFINITION. The named operations over the block: registers, counters, events, requests for the safe state, memories;
the clock; the thresher and the pins. -/

namespace Sys2Proof.Machine

/-! ## Registers (R17, R525) -/

/-- The register at offset `a`, in its own domain. -/
def rg (b : Block) (a : Nat) : Word := spGet regReset b.regs.cur a

/-- The SH value in force (R17). -/
def frc (b : Block) (a : Nat) : Word := spGet regReset b.regs.force a

/-- The SH value that was in force one sheaf earlier. -/
def prv (b : Block) (a : Nat) : Word := spGet regReset b.regs.prev a

/-- The SH value that was in force two sheaves earlier. -/
def prv2 (b : Block) (a : Nat) : Word := spGet regReset b.regs.prev2 a

/-- The port's mirror copy (R367). -/
def mir (b : Block) (a : Nat) : Word := spGet regReset b.regs.mirror a

/-- Write the register at `a`. -/
def setRg (b : Block) (a : Nat) (w : Word) : Block :=
  { b with regs := { b.regs with cur := spPut regReset b.regs.cur a w } }

/-- Write the value in force at `a`. -/
def setFrc (b : Block) (a : Nat) (w : Word) : Block :=
  { b with regs := { b.regs with force := spPut regReset b.regs.force a w } }

/-- Write the value in force in the current and the two earlier generations. -/
def setGen (b : Block) (a : Nat) (w : Word) : Block :=
  { b with regs := { b.regs with force := spPut regReset b.regs.force a w, prev := spPut regReset b.regs.prev a w,
                                 prev2 := spPut regReset b.regs.prev2 a w } }

/-- Set field `hi:lo` of a register. -/
def setF (b : Block) (a hi lo v : Nat) : Block := setRg b a ((rg b a).setFld hi lo v)

/-- A unit sets the bits of `m` in a register; the block remembers for the rest of the core cycle that it did (R369). -/
def orRg (b : Block) (a m : Nat) : Block :=
  setRg { b with now := { b.now with bits := b.now.bits ++ [(a, m)] } } a (rg b a ||| wd m)

/-- Clear the bits of `m` in a register. -/
def clrRg (b : Block) (a m : Nat) : Block := setRg b a (rg b a &&& ~~~ (wd m))

/-- Add to a wrapping counter. -/
def bump (b : Block) (a n : Nat) : Block := setRg b a (rg b a + wd n)

/-- Add one to field `hi:lo`, saturating. -/
def bumpSat (b : Block) (a hi lo : Nat) : Block :=
  let v := (rg b a).fld hi lo
  setF b a hi lo (if v + 1 < 2 ^ (hi + 1 - lo) then v + 1 else v)

/-! ## Events (R400, R530) -/

/-- Raise an event. -/
def raise (b : Block) (code arg : Nat) : Block :=
  { b with raised := b.raised ++ [⟨code, arg % 4096, false, none⟩] }

/-- Raise an event that requests the safe state (word 0 bit 17). -/
def raiseS (b : Block) (code arg : Nat) (safe : Bool) : Block :=
  { b with raised := b.raised ++ [⟨code, arg % 4096, safe, none⟩] }

/-- Raise an event at its first occurrence for `item` in the sheaf. -/
def raiseOnce (b : Block) (code item arg : Nat) : Block :=
  if b.once.contains (code, item) then b else raise { b with once := b.once ++ [(code, item)] } code arg

/-- Send Chombe a request for the safe state (R459). -/
def safeReq (b : Block) (cause arg : Nat) : Block :=
  { b with safe := { b.safe with req := b.safe.req ++ [(cause, arg % 4096)] } }

/-- A condition of a cause comes into force, or ends (R462). -/
def safeCond (b : Block) (cause item : Nat) (on : Bool) : Block :=
  let rest := b.safe.cond.filter (fun e => e ≠ (cause, item))
  { b with safe := { b.safe with cond := if on then rest ++ [(cause, item)] else rest } }

/-! ## Lines and sheaves (R19, R20) -/

/-- Line number of the position. -/
def posLine (b : Block) : Nat := b.tb.pos / 16

/-- Modulus of line numbers. -/
abbrev lineMod : Nat := 2 ^ 44

/-- `a - b` as a line number. -/
def lineSub (a b : Nat) : Nat := subMod 44 a b

/-- `a + b` as a line number. -/
def lineAdd (a b : Nat) : Nat := (a + b) % 2 ^ 44

/-- Does line `a` lie strictly beyond line `b`, by modular difference (R20)? -/
def lineGt (a b : Nat) : Bool := let d := lineSub a b; decide (d ≠ 0 ∧ d < 2 ^ 43)

/-- `a ≥ b` by modular difference. -/
def lineGe (a b : Nat) : Bool := decide (lineSub a b < 2 ^ 43)

/-- Sheaf index of a line. -/
def sheafOf (k : Nat) : Nat := k / 1024

/-- Is sheaf `s` later than sheaf `r` (R20)? -/
def sheafGt (s r : Nat) : Bool := lineGt (s * 1024) (r * 1024)

/-! ## Memories -/

/-- Read bytes of GDDR6. -/
def gdRd (b : Block) (a n : Nat) : List Byte := rdBytes b.mems.gddr a n

/-- Write bytes of GDDR6. -/
def gdWr (b : Block) (a : Nat) (l : List Byte) : Block := { b with mems := { b.mems with gddr := wrBytes b.mems.gddr a l } }

/-- Read bytes of the Granary. -/
def grRd (b : Block) (a n : Nat) : List Byte := rdBytes b.mems.gran a n

/-- A write of `n` bytes at `a` cancels the queued scrubs of the 64-bit Granary words it touches (R255, R273). -/
def grCancel (m : MemSt) (a n : Nat) : MemSt :=
  { m with grScrub := m.grScrub.filter (fun w => !decide (w * 8 < a + n ∧ a < (w + 1) * 8)) }

/-- Write bytes of the Granary. -/
def grWr (b : Block) (a : Nat) (l : List Byte) : Block :=
  { b with mems := { b.mems with gran := wrBytes b.mems.gran a l }, mem := grCancel b.mem a l.length }

/-- Write words of the Granary. -/
def grWords (b : Block) (a : Nat) (ws : List Word) : Block :=
  { b with mems := { b.mems with gran := wrWords b.mems.gran a ws }, mem := grCancel b.mem a (4 * ws.length) }

/-- Read bytes of the scratchpad of physical tiller `t`. -/
def spRd (b : Block) (t a n : Nat) : List Byte := rdBytes b.mems.spad (t * 2 ^ 21 + a) n

/-- Write bytes of the scratchpad of physical tiller `t`. -/
def spWr (b : Block) (t a : Nat) (l : List Byte) : Block :=
  { b with mems := { b.mems with spad := wrBytes b.mems.spad (t * 2 ^ 21 + a) l } }

/-- Read a word of the host window's SRAM. -/
def wiRd (b : Block) (a : Nat) : Word := rdWord b.mems.win a

/-- Write a word of the host window's SRAM. -/
def wiWr (b : Block) (a : Nat) (w : Word) : Block := { b with mems := { b.mems with win := wrWord b.mems.win a w } }

/-! ## Indexed units -/

/-- Tiller `t`. -/
def tl (b : Block) (t : Nat) : Tiller := spGet (fun _ => Tiller.init) b.tlr t

/-- Change tiller `t`. -/
def setTl (b : Block) (t : Nat) (x : Tiller) : Block := { b with tlr := spPut (fun _ => Tiller.init) b.tlr t x }

/-- Sync cell `k`. -/
def cell (b : Block) (k : Nat) : Cell := spGet (fun _ => Cell.init) b.sync.cells k

/-- Write sync cell `k`. -/
def setCell (b : Block) (k : Nat) (x : Cell) : Block :=
  { b with sync := { b.sync with cells := spPut (fun _ => Cell.init) b.sync.cells k x } }

/-- Camera port `n`. -/
def prt (b : Block) (n : Nat) : Port := spGet (fun _ => Port.init) b.ports n

/-- Write camera port `n`. -/
def setPrt (b : Block) (n : Nat) (x : Port) : Block := { b with ports := spPut (fun _ => Port.init) b.ports n x }

/-- Lane `n`. -/
def lane (b : Block) (n : Nat) : LaneSt := spGet (fun _ => LaneSt.init) b.lanes n

/-- Write lane `n`. -/
def setLane (b : Block) (n : Nat) (x : LaneSt) : Block := { b with lanes := spPut (fun _ => LaneSt.init) b.lanes n x }

/-- A unit of the spare map: class code and physical number (R421). -/
def unitOf (b : Block) (cls phys : Nat) : UnitSt := spGet (fun _ => UnitSt.init) b.cfg.units (cls * 64 + phys)

/-- Write a unit of the spare map. -/
def setUnit (b : Block) (cls phys : Nat) (u : UnitSt) : Block :=
  { b with cfg := { b.cfg with units := spPut (fun _ => UnitSt.init) b.cfg.units (cls * 64 + phys) u } }

/-- The epoch of a logical slot (R428). -/
def slotEpoch (b : Block) (cls slot : Nat) : Nat := spGet (fun _ => 0) b.cfg.epochs (cls * 64 + slot)

/-- Physical units of a class (R421). -/
def classSize (cls : Nat) : Nat := if cls = 0 then 36 else if cls = 5 then 5 else 9

/-- Logical slots of a class. -/
def classSlots (cls : Nat) : Nat := if cls = 0 then 32 else if cls = 5 then 4 else 8

/-- The physical unit mapped into a logical slot: the one that is ACTIVE there. -/
def physOf (b : Block) (cls slot : Nat) : Option Nat :=
  (upFrom 0 (classSize cls)).find? (fun p => let u := unitOf b cls p; u.st = 1 && u.slot = slot)

/-- The logical slot of physical tiller `t`; 0x3F where it has none. -/
def slotOfT (b : Block) (t : Nat) : Nat := (rg b (Reg.TLR_ID t)).fld 5 0

/-! ## The clock -/

/-- Cycle counters that advance by `n` core cycles: DSP_t_PULL, DSP_t_RUN (R344), TLR_t_CNT_ARRAY (R234), and
TLR_t_CNT_SB_STALL and TLR_t_CNT_SB_FULL while the scoreboard holds an instruction at issue (R258). -/
def accrue (n : Nat) (b : Block) : Block :=
  b.tlr.foldl (fun b e =>
    let t := e.1; let x := e.2
    let b := match x.blocked with
      | .tpull _ _ => bump b (Reg.DSP_PULL t) n
      | _ => b
    let b := if x.task.isSome then bump b (Reg.DSP_RUN t) n else b
    let b := match x.stall with
      | some .conflict => bump b (Reg.TLR_CNT_SB_STALL t) n
      | some .full => bump (bump b (Reg.TLR_CNT_SB_STALL t) n) (Reg.TLR_CNT_SB_FULL t) n
      | _ => b
    if x.run.isSome then bump b (Reg.TLR_CNT_ARRAY t) n else b) b

/-- The core-cycle count moves forward to `c` (R466). -/
def tickTo (c : Nat) (b : Block) : Block := accrue (c - b.pwr.ccy) { b with pwr := { b.pwr with ccy := c } }

/-! ## The thresher and the pins (R378, R379, R400, R436) -/

/-- The order of R400 within a cycle. -/
def evLt (a b : Ev) : Bool := decide (a.code < b.code) || (decide (a.code = b.code) && decide (a.arg < b.arg))

/-- The four words of an event record (R400) of this device. -/
def evWords (dev pos seq : Nat) (e : Ev) : List Word :=
  match e.fwd with
  | none => [wd (e.code * 2 ^ 24 + dev * 2 ^ 18 + b2n e.safe * 2 ^ 17 + e.arg), wd seq, wd pos,
             wd (seq % 2 ^ 16 * 2 ^ 16 + pos / 2 ^ 32 % 2 ^ 16)]
  | some ws => [wAt ws 0 ||| 0x10000#32, wd seq, wAt ws 2, wAt ws 3]

/-- The record of an empty ring place. -/
def evNone : Nat → List Word := fun _ => []

/-- What the thresher has met while it took events: how many a member discarded, whether a record was overwritten. -/
structure Taken where
  lost : Nat
  ovwr : Bool
  deriving DecidableEq, Repr

/-- Take one event: the next sequence number, the ring, the overwrite (R378), and on a member the forwarding queue
(R401). -/
def takeEvent (dev pos rd : Nat) (p : Published) (k : Taken) (e : Ev) : Published × Taken :=
  let ws := evWords dev pos p.seq e
  let p' := { p with ring := spPut evNone p.ring (p.seq % 4096) ws,
                     seq := (p.seq + 1) % 2 ^ 32,
                     -- R401: EVT_LOST has told how many were discarded
                     lost := if e.code = 0xA6 ∧ e.fwd = none then 0 else p.lost }
  let k := { k with ovwr := k.ovwr || decide (4096 ≤ subMod 32 p.seq rd) }
  if dev = 0 then (p', k)
  else if p.fwdQ.length < 256 then ({ p' with fwdQ := p.fwdQ ++ [ws] }, k)
  else ({ p' with lost := p'.lost + 1 }, { k with lost := k.lost + 1 })

/-- Take a list of events in order. -/
def takeEvents (dev pos rd : Nat) (l : List Ev) (p : Published) : Published × Taken :=
  l.foldl (fun r e => takeEvent dev pos rd r.1 r.2 e) (p, ⟨0, false⟩)

/-- The events of one cycle in the order in which the thresher takes them: its own in ascending CODE and ARG, then the
forwarded ones in order of arrival (R400, R401; that the own ones come first is log entry 57). -/
def cycleEvents (l : List Ev) : List Ev :=
  sortBy evLt (l.filter (fun e => e.fwd.isNone)) ++ l.filter (fun e => e.fwd.isSome)

/-- Is some ring's unread count at its watermark (HOST_ATTN_STATUS.RR)? -/
def rrAttn (b : Block) : Bool :=
  (upFrom 0 16).any (fun r =>
    decide ((rg b (Reg.HOST_RR_WM r)).fld 15 0 ≤
      subMod 32 (rg b (Reg.HOST_RR_SEQ r)).toNat (rg b (Reg.HOST_RR_RD r)).toNat))

/-- SAFE_STATUS.STATE: 0 START, 1 NORMAL, 2 SAFE. -/
def safeState (b : Block) : Nat := (rg b Reg.SAFE_STATUS).fld 1 0

/-- The read-only bits of HOST_ATTN_STATUS: EVENT, RR, SAFE (R386). -/
def attnBits (b : Block) (seq : Nat) : Nat :=
  b2n (decide (wd seq ≠ rg b Reg.HOST_EVT_RD)) * 16 + b2n (rrAttn b) * 2 + b2n (decide (safeState b = 2))

/-- HOST_ATTN_STATUS with its read-only bits as they stand. -/
def attnWord (b : Block) (seq : Nat) : Word := (rg b Reg.HOST_ATTN_STATUS &&& 0xEC#32) ||| wd (attnBits b seq)

/-- Does an enabled bit of HOST_ATTN_STATUS ask for the host's attention (R379)? -/
def attnAsked (b : Block) : Bool := decide ((rg b Reg.HOST_ATTN_STATUS &&& rg b Reg.HOST_ATTN_MASK) ≠ 0#32)

/-- Does every condition hold under which SAFE_N is high (R436)? -/
def safeGood (b : Block) : Bool := !b.pwr.held && b.safe.clkSeen && decide (safeState b = 1)

/-- At the end of a cycle the thresher takes the events raised in it (R400). Where a record was overwritten, HOST_EVT_OVWR is
raised in the next cycle (R378). -/
def takeRaised (p : Published) (b : Block) : Published × Block :=
  let r := takeEvents b.pwr.devid b.tb.pos (rg b Reg.HOST_EVT_RD).toNat (cycleEvents b.raised) p
  let b := { b with raised := [], ovwr := if r.2.ovwr then some (b.pwr.ccy + 1) else b.ovwr }
  (r.1, if r.2.lost = 0 then b else orRg (bump b Reg.LNK_CNT_EVT_LOST r.2.lost) Reg.LNK_STATUS 0x10000)

/-! ## The deadlock condition (R326) -/

/-- Is a tiller blocked in the sense of R326? -/
def tBlocked (x : Tiller) : Bool :=
  match x.blocked with
  | .swait _ _ _ _ => true
  | .fwait _ => true
  | .tdone | .tabort => x.slots.any (fun e => e.2.state = .halted)
  | _ => false

/-- Context of a posted task (R333). -/
def Posted.ctx (p : Posted) : Nat := (wAt p.words 0).fld 19 16

/-- Contexts in which the condition of R326 does not hold now. -/
def notBlockedCtx (b : Block) (c : Nat) : Bool :=
  let l := b.tlr.filter (fun e => match e.2.task with
    | some p => decide (p.ctx = c)
    | none => false)
  l.isEmpty || !l.all (fun e => tBlocked e.2)

/-- Record every context whose condition does not hold. -/
def observe (b : Block) : Block :=
  { b with sync := { b.sync with broken := (upFrom 0 16).foldl (fun m c =>
      if notBlockedCtx b c then spPut (fun _ => true) m c true else m) b.sync.broken } }

end Sys2Proof.Machine
end

