-- ==== Sys2Proof/Machine/Flags.lean ====
section
/-! DEFINITION. Ripe flags (R275 to R277), rings (R51, R276), line headers (R92) and the marks that a stage puts on its
outputs (R54, R93). -/

namespace Sys2Proof.Machine

/-! ## Ripe flags -/

/-- Ripe flag `f`. -/
def flag (b : Block) (f : Nat) : Bool := spGet (fun _ => false) b.flags f

/-- What this cycle has done with flag `f`. -/
def flagNow (b : Block) (f : Nat) : Option FlagNow := b.now.flags.find? (fun e => e.flag = f)

/-- Flag `f` as it stood before this cycle (R51). -/
def flagBefore (b : Block) (f : Nat) : Bool := ((flagNow b f).map FlagNow.before).getD (flag b f)

/-- The record of flag `f` in this cycle. -/
def noteFlag (b : Block) (e : FlagNow) : Block :=
  { b with now := { b.now with flags := b.now.flags.filter (fun x => decide (x.flag ≠ e.flag)) ++ [e] } }

/-- Set or clear ripe flag `f`. Clears are applied before sets in any cycle (R276): a flag that this cycle sets stays set. -/
def setFlag (b : Block) (f : Nat) (v : Bool) : Block :=
  let s := v || ((flagNow b f).map FlagNow.set).getD false
  let b := noteFlag b ⟨f, flagBefore b f, s⟩
  { b with flags := spPut (fun _ => false) b.flags f s }

/-- Set or clear the `n` flags from `f`. -/
def setFlags (b : Block) (f n : Nat) (v : Bool) : Block := (upFrom f n).foldl (fun b i => setFlag b i v) b

/-- Are the `n` flags from `f` all set? -/
def flagsSet (b : Block) (f n : Nat) : Bool := (upFrom f n).all (flag b)

/-- Were the `n` flags from `f` all set before this cycle? -/
def flagsBefore (b : Block) (f n : Nat) : Bool := (upFrom f n).all (flagBefore b)

/-- A table word; 0 where none is loaded. -/
def tabW (m : List (Nat × Word)) (k : Nat) : Word := spGet (fun _ => 0#32) m k

/-! ## Rings -/

/-- A place in the Granary as check lists and output lists name it: first flag, flags per entry, depth. -/
structure RingRef where
  base  : Nat
  count : Nat
  depth : Nat
  deriving DecidableEq, Repr

/-- Index of line `m` in a ring of `depth` entries: `m mod depth` (R51), of the 44-bit line number (log entry 38). -/
def ringIdx (depth m : Nat) : Nat := m % depth

/-- First flag of the entry for line `m` (R51). -/
def RingRef.flag0 (r : RingRef) (m : Nat) : Nat := r.base + ringIdx r.depth m * r.count

/-- Granary address of the entry for line `m` (R275). -/
def RingRef.addr (r : RingRef) (m : Nat) : Nat := 4096 * r.flag0 m

/-- A check of the check list (R50): SYNC (else RIPE), the ring or cell, the line adjustment. -/
structure Check where
  sync : Bool
  ring : RingRef
  adj  : Int
  deriving DecidableEq, Repr

/-- Read check `i` of a schedule. -/
def Sched.check (s : Sched) (i : Nat) : Check :=
  let w0 := tabW s.chk (2 * i); let w1 := tabW s.chk (2 * i + 1)
  { sync := decide (w0.fld 31 30 = 1),
    ring := { base := w0.fld 13 0, count := w0.fld 29 24 + 1, depth := w1.fld 31 22 + 1 }, adj := sext 10 (w1.fld 9 0) }

/-- An output of the output list (R50). -/
structure OutRef where
  sync : Bool
  ring : RingRef
  deriving DecidableEq, Repr

/-- Read output `i` of a schedule. -/
def Sched.output (s : Sched) (i : Nat) : OutRef :=
  let w := tabW s.out i
  { sync := decide (w.fld 31 30 = 1), ring := { base := w.fld 13 0, count := w.fld 29 24 + 1, depth := w.fld 23 14 + 1 } }

/-- An entry of the schedule table (R49). -/
structure Entry where
  kind   : Nat
  gold   : Bool
  valid  : Bool
  safety : Bool
  ctx    : Nat
  unit   : Nat
  arg    : Nat
  offset : Nat
  span   : Nat
  start  : Nat
  period : Nat
  phase  : Nat
  fin    : Nat
  chk0   : Nat
  nchk   : Nat
  out0   : Nat
  nout   : Nat
  deriving DecidableEq, Repr

/-- Read the entry of a stage. -/
def Sched.entry (s : Sched) (st : Nat) : Entry :=
  let w := fun i => tabW s.tbl (4 * st + i)
  { kind := (w 0).fld 31 29, gold := (w 0).bit 28, valid := (w 0).bit 27, safety := (w 0).bit 26, ctx := (w 0).fld 23 20,
    unit := (w 0).fld 19 12, arg := (w 0).fld 11 0, offset := (w 1).fld 31 22, span := (w 1).fld 19 16,
    start := (w 1).fld 10 0, period := (w 2).fld 31 22 + 1, phase := (w 2).fld 21 12, fin := (w 2).fld 10 0,
    chk0 := (w 3).fld 31 19, nchk := (w 3).fld 18 15, out0 := (w 3).fld 14 3, nout := (w 3).fld 2 0 }

/-- The checks of an entry. -/
def Sched.checks (s : Sched) (e : Entry) : List Check := (upFrom e.chk0 e.nchk).map s.check

/-- The outputs of an entry. -/
def Sched.outputs (s : Sched) (e : Entry) : List OutRef := (upFrom e.out0 e.nout).map s.output

/-- The stages that have a valid entry. -/
def Sched.stages (s : Sched) : List Nat :=
  (s.tbl.filterMap (fun p => if p.1 % 4 = 0 && p.2.bit 27 then some (p.1 / 4) else none))

/-- The line that a check or output concerns: `k + adj`, as a line number. -/
def lineAdj (k : Nat) (adj : Int) : Nat := wrapN 44 ((k : Int) + adj)

/-- R51, R312: does the check pass for the invocation that serves line `k`? Flags are seen as they stood before this cycle; a
cell changes only at the end of a cycle. -/
def checkPass (b : Block) (c : Check) (k : Nat) : Bool :=
  let m := lineAdj k c.adj
  if c.sync then
    let x := cell b (c.ring.base % 4096)
    decide (x.state = .live) && !decide (2 ^ 31 ≤ subMod 32 x.val ((m + 1) * c.ring.count))
  else flagsBefore b (c.ring.flag0 m) c.ring.count

/-! ## Line headers (R92) -/

/-- Line number of a header. -/
def hdrLine (h : List Word) : Nat := (wAt h 1).fld 11 0 * 2 ^ 32 + (wAt h 0).toNat

/-- SUSPECT, MALFORMED, CHAFF of a header. -/
def hdrSuspect (h : List Word) : Bool := (wAt h 1).bit 20
def hdrMalformed (h : List Word) : Bool := (wAt h 1).bit 19
def hdrChaff (h : List Word) : Bool := (wAt h 3).bit 0
def hdrCause (h : List Word) : Nat := (wAt h 3).fld 4 1
def hdrOrigin (h : List Word) : Nat := (wAt h 3).fld 16 5
def hdrTag (h : List Word) : Nat := (wAt h 3).fld 31 24
/-- SHEAF_START, LATE and PHASE, bits 17:12 of word 1. -/
def hdrTick (h : List Word) : Nat := (wAt h 1).fld 17 12

/-- Word 3 of a header: tag and chaff mark as (CAUSE, ORIGIN). -/
def hdrW3 (tag : Nat) (chaff : Option (Nat × Nat)) : Word :=
  match chaff with
  | none => wd (tag % 256 * 2 ^ 24)
  | some (c, o) => wd (tag % 256 * 2 ^ 24 + o % 4096 * 32 + c % 16 * 2 + 1)

/-- A header of line `k`. `tick` is bits 17:12 of word 1. -/
def mkHdr (k : Nat) (susp mal gold : Bool) (tick : Nat) (w2 : Word) (tag : Nat) (chaff : Option (Nat × Nat)) : List Word :=
  [wd k, wd (b2n susp * 2 ^ 20 + b2n mal * 2 ^ 19 + b2n gold * 2 ^ 18 + tick % 64 * 2 ^ 12 + k / 2 ^ 32 % 4096), w2,
   hdrW3 tag chaff]

/-- R54: the chaff mark merged from inputs: that of the chaffed input whose ORIGIN is lowest. -/
def mergeChaff : List (List Word) → Option (Nat × Nat)
  | [] => none
  | h :: l => match mergeChaff l with
    | none => if hdrChaff h then some (hdrCause h, hdrOrigin h) else none
    | some r => if hdrChaff h && decide (hdrOrigin h ≤ r.2) then some (hdrCause h, hdrOrigin h) else some r

/-- Does header `g` come before `h` in the choice of R93: MALFORMED first, then the lower line number? -/
def wordTwoBefore (g h : List Word) : Bool :=
  if hdrMalformed g ≠ hdrMalformed h then hdrMalformed g else lineGt (hdrLine h) (hdrLine g)

/-- R93: the input from which word 2 and SETTINGS_TAG are copied; among equals the first. -/
def wordTwoInput : List (List Word) → Option (List Word)
  | [] => none
  | h :: l => match wordTwoInput l with
    | none => some h
    | some g => if wordTwoBefore g h then some g else some h

/-- R54, R93: the header of an output for line `k` from the headers of the inputs read, in check order and then ring
index. `own` is the stage's own mark, `tick` bits 17:12 of the line served. -/
def outHdr (k : Nat) (gold : Bool) (tick : Nat) (ins : List (List Word)) (own : Option (Nat × Nat)) (susp : Bool) :
    List Word :=
  let src := wordTwoInput ins
  mkHdr k (susp || ins.any hdrSuspect) (ins.any hdrMalformed) gold tick ((src.map (fun h => wAt h 2)).getD 0#32)
    ((src.map hdrTag).getD 0) (match own with | some m => some m | none => mergeChaff ins)

/-- Bits 17:12 of word 1 for line `k` (R31, R93): SHEAF_START, LATE and PHASE of its tick; 0 for a line that was not ticked. -/
def tickOf (b : Block) (k : Nat) : Nat := spGet (fun _ => 0) b.seq.ticks k

/-- The order of own marks (R54): SAFE, FENCED, OVERRUN, WINNOW, NOT_RIPE; any other cause after them. -/
def ownRank (c : Nat) : Nat :=
  if c = 6 then 0 else if c = 7 then 1 else if c = 2 then 2 else if c = 5 then 3 else if c = 1 then 4 else 5

/-- The first of two own marks in the order of R54. -/
def ownMark (a b : Option (Nat × Nat)) : Option (Nat × Nat) :=
  match a, b with
  | none, m => m
  | m, none => m
  | some x, some y => if ownRank y.1 < ownRank x.1 then some y else some x

/-- Read the header of the ring entry for line `m`. -/
def ringHdr (b : Block) (r : RingRef) (m : Nat) : List Word := rdWords b.mems.gran (r.addr m) 4

/-- Write words at the start of the ring entry for line `m`. -/
def ringPut (b : Block) (r : RingRef) (m : Nat) (ws : List Word) : Block :=
  grWords b (r.addr m) ws

/-- Write an entry: header and payload bytes. -/
def ringWrite (b : Block) (r : RingRef) (m : Nat) (h : List Word) (payload : List Byte) : Block :=
  grWr (ringPut b r m h) (r.addr m + 16) payload

/-- Set the flags of the entry for line `m`. -/
def ringRipe (b : Block) (r : RingRef) (m : Nat) : Block := setFlags b (r.flag0 m) r.count true

/-- Does R439 admit FORM `form` for the CLASS of a channel's SAFE_WCHw_CFG: FORM 1 for HEIGHT only, FORM 2 for EDGE and BREAK only? -/
def formOk (cfg : Word) (form : Nat) : Bool :=
  let cls := cfg.fld 30 29
  decide (form = 0 ∨ (form = 1 ∧ cls = 2) ∨ (form = 2 ∧ cls < 2))

end Sys2Proof.Machine
end

