-- ==== Sys2Proof/Machine/Cells.lean ====
section
/-! DEFINITION. Sync cells: how operations reach a cell in a cycle and in which order they are applied (R321), what each does to
each kind (R309, R310), cell states (R311, R312), and the release of waiters (R312, R322). SRC codes of SYNC_LAST_FAULT: 0 rachis,
1 lane or engine, 2 tiller, 3 DMA, 4 link, 5 host. -/

namespace Sys2Proof.Machine

/-- Record an error at a cell in SYNC_LAST_FAULT (R330). -/
def lastFault (b : Block) (cause src id k : Nat) : Block :=
  setRg b Reg.SYNC_LAST_FAULT (wd (cause * 2 ^ 28 + src % 8 * 2 ^ 25 + id % 4096 * 2 ^ 12 + k % 4096))

/-- Core register `i`. -/
def xReg (x : Tiller) (i : Nat) : Word := tabW x.x (i % 32)

/-- Write core register `i` of tiller `t`. -/
def setX (b : Block) (t i : Nat) (w : Word) : Block :=
  let x := tl b t
  setTl b t { x with x := spPut (fun _ => 0#32) x.x (i % 32) w }

/-! ## Waits -/

/-- The result of a wait of a mode (0 GE, 1 DATA, 2 CGE) on a cell: a status of R317, or none while it must wait. -/
def waitStatus (x : Cell) (mode arg : Nat) : Option Nat :=
  match x.state with
  | .free => some 2
  | .orphan => some 4
  | .fault => some 5
  | .live =>
    if mode = 0 then
      (if x.kind = .reserved then some 3 else if subMod 32 x.val arg < 2 ^ 31 then some 0 else none)
    else if x.kind ≠ .pair then some 3
    else if mode = 1 then (if arg ≤ subMod 48 x.val x.aux then some 0 else none)
    else (if subMod 32 x.aux arg < 2 ^ 31 then some 0 else none)

/-! ## Errors at a cell -/

/-- SYNC_ATTN for a signal on a cell with ATTN (R308, R329). -/
def attnCell (b : Block) (k : Nat) (x : Cell) : Block := if x.attn then raise b 0x88 k else b

/-- UNDERFLOW (over = false) or OVERFLOW at cell `k`: it enters FAULT (R309, R311). -/
def faultCell (b : Block) (src id k : Nat) (ovf : Bool) : Block :=
  let b := bump b (if ovf then Reg.SYNC_CNT_OVER else Reg.SYNC_CNT_UNDER) 1
  let b := orRg b Reg.SYNC_STATUS (if ovf then 2 else 1)
  let b := raise b (if ovf then 0x81 else 0x80) k
  let b := lastFault b (if ovf then 2 else 1) src id k
  setCell b k { cell b k with state := .fault }

/-- A KIND error at cell `k` (R315). -/
def kindErr (b : Block) (src id k : Nat) : Block :=
  lastFault (raiseOnce (orRg (bump b Reg.SYNC_CNT_KIND 1) Reg.SYNC_STATUS 16) 0x85 0 k) 5 src id k

/-- A refusal for want of a translation or permission (R315, R316). -/
def permErr (b : Block) (src id k : Nat) : Block :=
  lastFault (raiseOnce (orRg (bump b Reg.SYNC_CNT_PERM 1) Reg.SYNC_STATUS 8) 0x84 0 k) 4 src id k

/-- A signal or consumer advance that reaches a cell which is not LIVE (R312). -/
def deadSig (b : Block) (src id k : Nat) : Block :=
  lastFault (raiseOnce (orRg (bump b Reg.SYNC_CNT_DEAD_SIG 1) Reg.SYNC_STATUS 4) 0x83 0 k) 3 src id k

/-- A timing-dependent choice of source `k` (R471). -/
def nondet (b : Block) (k : Nat) : Block := orRg (bump b Reg.DBG_NONDET_COUNT 1) Reg.DBG_NONDET_SRC (2 ^ k)

/-! ## One operation -/

/-- A signal with increment `inc` ≠ 0 is applied to cell `k` (R309, R310). -/
def signalCell (b : Block) (src id k : Nat) (inc : Int) : Block :=
  let x := cell b k
  if x.state ≠ .live then deadSig b src id k
  else match x.kind with
    | .counter =>
      if inc < 0 ∧ x.val < inc.natAbs then faultCell b src id k false
      else setCell (attnCell b k x) k { x with val := wrapN 48 ((x.val : Int) + inc) }
    | .barrier =>
      if inc < 0 then kindErr b src id k
      else if x.bound < x.aux + inc.toNat then faultCell b src id k true
      else setCell (attnCell b k x) k
        (if x.aux + inc.toNat = x.bound then { x with val := (x.val + 1) % 2 ^ 48, aux := 0 }
         else { x with aux := x.aux + inc.toNat })
    | .pair =>
      if inc < 0 then kindErr b src id k
      else
        let p := wrapN 48 ((x.val : Int) + inc)
        if x.bound < subMod 48 p x.aux then faultCell b src id k true
        else setCell (attnCell b k x) k { x with val := p }
    | .reserved => kindErr b src id k

/-- A consumer advance of `inc` is applied to cell `k` (R309). -/
def advanceCell (b : Block) (src id k inc : Nat) : Block :=
  let x := cell b k
  if x.state ≠ .live then deadSig b src id k
  else if x.kind ≠ .pair then kindErr b src id k
  else if subMod 48 x.val x.aux < inc then faultCell b src id k false
  else setCell b k { x with aux := (x.aux + inc) % 2 ^ 48 }

/-- A context is lost (R324): its LIVE and FAULT cells become ORPHAN. -/
def orphanCells (b : Block) (c : Nat) : Block :=
  b.sync.cells.foldl (fun b e =>
    if e.2.owner = c ∧ (e.2.state = .live ∨ e.2.state = .fault) then setCell b e.1 { e.2 with state := .orphan }
    else b) b

/-- The core of tiller `t` goes on with status `st` in `xd`: its barrier arrive or wait ended in the cycle in which it was
issued. -/
def waitDone (b : Block) (t xd st : Nat) : Block :=
  setX (setTl b t { tl b t with blocked := .none, woken := none }) t xd (wd st)

/-- A barrier arrive (R310): a signal of 1, then a wait for the generation after the one read here. The statuses of a cell
that has no barrier are those of R317. -/
def arriveCell (b : Block) (src id k t : Nat) : Block :=
  match (tl b t).blocked with
  | .swait _ _ _ xd =>
    let y := cell b k
    (match y.state with
     | .free => waitDone (deadSig b src id k) t xd 2
     | .orphan => waitDone (deadSig b src id k) t xd 4
     | .fault => waitDone (deadSig b src id k) t xd 5
     | .live =>
       if y.kind ≠ .barrier then waitDone (kindErr b src id k) t xd 3
       else
         let b := signalCell b src id k 1
         setTl b t { tl b t with blocked := .swait k 0 ((y.val + 1) % 2 ^ 32) xd })
  | _ => signalCell b src id k 1

/-- Does cell `k` take an operation of context `ctx` of another device (R316)? -/
def admitsCtx (b : Block) (k ctx : Nat) : Bool := decide ((cell b k).owner = ctx) || (cell b k).shared

/-- An operation of context `ctx` of another device, as the cell stands when it is applied; else PERM (R316). -/
def byCtx (b : Block) (src id k ctx : Nat) (f : Block → Block) : Block := if admitsCtx b k ctx then f b else permErr b src id k

/-- A panicle's signal is applied. After a transfer of which payload was discarded, checks that need it or anything before it
fail (R408). -/
def pnSignalCell (b : Block) (src id k p ctx : Nat) (inc : Option Nat) : Block :=
  match inc with
  | some n => byCtx b src id k ctx (fun b => signalCell b src id k n)
  | none =>
    let x := spGet (fun _ => PnState.init) b.links.pn p
    let x := { x with spoil := some ((cell b k).val % 2 ^ 32) }
    { b with links := { b.links with pn := spPut (fun _ => PnState.init) b.links.pn p x } }

/-- Apply one operation. -/
def applyOp (b : Block) (o : CellOp) : Block :=
  match o.act with
  | .lose c => orphanCells b c
  | .put x => setCell b o.cell x
  | .signal inc => signalCell b o.src o.id o.cell inc
  | .advance n => advanceCell b o.src o.id o.cell n
  | .signalBy ctx inc => byCtx b o.src o.id o.cell ctx (fun b => signalCell b o.src o.id o.cell inc)
  | .advanceBy ctx n => byCtx b o.src o.id o.cell ctx (fun b => advanceCell b o.src o.id o.cell n)
  | .arrive t => arriveCell b o.src o.id o.cell t
  | .pnSignal p ctx inc => pnSignalCell b o.src o.id o.cell p ctx inc

/-! ## The operations of a cycle (R321) -/

/-- An operation reaches its cell in this cycle. -/
def queueOp (b : Block) (o : CellOp) : Block := { b with now := { b.now with ops := b.now.ops ++ [o] } }

/-- Step and keys of R321 by source: the rachis by stage and line, lanes and engines by UNIT code, tillers and DMA by logical
slot with firmware first, then by engine and channel (`k2`), links by link number, the host by channel (`via` is 1 plus its number)
after the commands of the command rings. -/
def opKeys (b : Block) (src id k2 : Nat) : Nat × Nat × Nat :=
  if src = 0 then (3, id, k2) else if src = 1 then (4, id, 0) else if src = 2 then (5, id, 0)
  else if src = 3 then (5, id, 1 + k2) else if src = 4 then (6, b.now.via, 0) else (7, b.now.via, 0)

/-- An operation from source `src` with SRC_ID `id`. -/
def sendOp (b : Block) (src id k2 k : Nat) (act : CellAct) : Block :=
  let q := opKeys b src id k2
  queueOp b ⟨q.1, q.2.1, q.2.2, src, id, k, act⟩

/-- The order of R321; operations that it does not separate stay in the order in which they came. -/
def opLt (a b : CellOp) : Bool :=
  decide (a.step < b.step) || (decide (a.step = b.step) && (decide (a.k1 < b.k1) || (decide (a.k1 = b.k1) && decide (a.k2 < b.k2))))

/-- A context is lost (R324): step 1 of the cycle. -/
def loseCtx (b : Block) (c : Nat) : Block := queueOp (raise b 0x82 c) ⟨1, c, 0, 5, 0, 0, .lose c⟩

/-- Was operation `o`, which took the block from `b` to `b'`, applied to its cell? One that faults or is refused is not. -/
def wasApplied (b b' : Block) (o : CellOp) : Bool :=
  match o.act with
  | .lose _ => false
  | .put _ => true
  | _ => decide (cell b o.cell ≠ cell b' o.cell) && decide ((cell b' o.cell).state ≠ .fault)

/-- Apply operations in order; the second result lists those applied. -/
def applyList : List CellOp → Block → Block × List CellOp
  | [], b => (b, [])
  | o :: l, b =>
    let b' := applyOp b o
    let r := applyList l b'
    (r.1, if wasApplied b b' o then o :: r.2 else r.2)

/-- A link arrival or a host aperture signal. -/
def CellOp.outside (o : CellOp) : Bool := decide (o.step = 6 ∨ (o.step = 7 ∧ 1 ≤ o.k1))

/-- R471 bit 1: cells whose cycle applies two or more operations, one of them a link arrival or a host aperture signal. -/
def mixedCells (l : List CellOp) : List Nat :=
  ((l.filter CellOp.outside).map CellOp.cell).eraseDups.filter (fun k =>
    decide (2 ≤ (l.filter (fun o => decide (o.cell = k))).length))

/-- The cells apply what has reached them in the cycle that ends. -/
def applyOps (b : Block) : Block :=
  let r := applyList (sortBy opLt b.now.ops) { b with now := { b.now with ops := [] } }
  (mixedCells r.2).foldl (fun b _ => nondet b 1) r.1

/-- Waits are evaluated on the final value of the cycle. One issued in this cycle that need not wait goes on at once, with a
KIND error counted; the others are released by their wake. -/
def endWait (b : Block) (t : Nat) : Block :=
  let x := tl b t
  match x.blocked, x.woken with
  | .swait k mode arg xd, none =>
    (match waitStatus (cell b k) mode arg with
     | none => b
     | some st =>
       if b.now.waits.contains t then
         waitDone (if st = 3 then kindErr b 2 ((rg b (Reg.TLR_ID t)).fld 5 0) k else b) t xd st
       else setTl b t { x with woken := some st })
  | _, _ => b

/-- All waits. -/
def endWaits (b : Block) : Block := (b.tlr.map Prod.fst).foldl endWait b

/-! ## Translation and codes -/

/-- Has a cell a KIND that exists and a BOUND that R308 gives it (R330)? -/
def cellOk (x : Cell) : Bool :=
  match x.kind with
  | .reserved => false
  | .counter => decide (x.bound = 0)
  | _ => decide (1 ≤ x.bound ∧ x.bound ≤ 1024)


/-- The translation entry of virtual ID `vid` of context `c` (R313). -/
def vtEntry (b : Block) (c vid : Nat) : Word := tabW b.sync.vt (c * 1024 + vid % 1024)

/-- Cells by their two-bit KIND and STATE codes (R308). -/
def kindOf (n : Nat) : CellKind := if n = 0 then .counter else if n = 1 then .barrier else if n = 2 then .pair else .reserved
def kindCode : CellKind → Nat
  | .counter => 0
  | .barrier => 1
  | .pair => 2
  | .reserved => 3
def stateOf (n : Nat) : CellState := if n = 0 then .free else if n = 1 then .live else if n = 2 then .orphan else .fault
def stateCode : CellState → Nat
  | .free => 0
  | .live => 1
  | .orphan => 2
  | .fault => 3

end Sys2Proof.Machine
end

