-- ==== Sys2Proof/Machine/Run.lean ====
section
/-! DEFINITION. Work that the rachis and the dispatcher put off to a later cycle: chaff-runs, patch-queue entries and the
posting of tasks (spec/02 R52, spec/09 R230, spec/14 R334, R336). -/

namespace Sys2Proof.Machine

/-! ## Posting (R334 to R336) -/

/-- Tasks now in list `n`. -/
def rlist (b : Block) (n : Nat) : List Posted := spGet (fun _ => []) b.lists n

/-- Replace list `n`; DEPTH and HWM follow (R344). -/
def setRlist (b : Block) (n : Nat) (l : List Posted) : Block :=
  let b := { b with lists := spPut (fun _ => []) b.lists n l }
  let b := setF b (Reg.DSP_RL_DEPTH n) 8 0 l.length
  setF b (Reg.DSP_RL_DEPTH n) 24 16 (max ((rg b (Reg.DSP_RL_DEPTH n)).fld 24 16) l.length)

/-- PRIO of a posted task (R333). -/
def Posted.prio (p : Posted) : Nat := (wAt p.words 0).fld 13 12

/-- Post a task to a list in the order of R334. The second result is false where the list was full (R336). -/
def postTask (b : Block) (n : Nat) (p : Posted) : Block × Bool :=
  let l := rlist b n
  if (rg b (Reg.DSP_RL_CFG n)).fld 8 0 ≤ l.length then
    let b := bump (bump b (Reg.DSP_RL_CNT_FULL n) 1) Reg.SEQ_CNT_BUSY 1
    (orRg (raiseOnce b 0x90 n n) Reg.DSP_STATUS 1, false)
  else
    (bump (setRlist b n (insertBy (fun x y => decide (y.prio < x.prio)) p l)) (Reg.DSP_RL_CNT_POST n) 1, true)

/-! ## Work put off to a later cycle -/

/-! ### Which schedule serves a stage -/

/-- The old bank that serves a stage for line `k` (R426): lines before the cutover sheaf. -/
def oldBankOf (b : Block) (st k : Nat) : Option OldBank :=
  b.cfg.old.find? (fun o => (o.sched.entry st).valid && lineGt o.s k)

/-- The schedule that serves a stage for line `k`. -/
def schedFor (b : Block) (st k : Nat) : Sched := ((oldBankOf b st k).map (·.sched)).getD b.sched

/-- R198: a chaff-run of the flow invocation of sheaf-relative line 1 023 shows in the mirror of its slot when its
flags are set. The invocation of that line that is ended as hung (R56) or fenced shows in the same way (DESIGN CHOICE, log entry
76). -/
def flowChaffMirror (b : Block) (w : Later) : Block :=
  let e := (schedFor b w.stage w.line).entry w.stage
  if e.kind = 0 ∧ 0x50 ≤ e.unit ∧ e.unit < 0x54 ∧ e.gold = false ∧ w.line % 1024 = 1023 ∧
      (w.puts.any (fun p => decide (p.2.2.2 ≠ 0))) = true then
    let q := e.unit - 0x50
    let b := setRg (setRg b (Reg.FL_SUM_SHEAF q) (wd (w.line / 1024))) (Reg.FL_SUM_DFLOW q) 16384#32
    setRg (setRg b (Reg.FL_SUM_XFLOW q) 0#32) (Reg.FL_SUM_STAT q) 0x80000000#32
  else b

/-! ### CAUSE SAFE (R459, R462) -/

/-- Do outputs of the result writer and the winnow written now carry CAUSE SAFE: from 8 core cycles after detection, and
in rows that opened before a CLEAR? -/
def safeMarks (b : Block) : Bool :=
  match b.safe.since, b.safe.tillC with
  | some d, _ => decide (d + 8 ≤ b.pwr.ccy)
  | none, some t => b.seq.row.isSome && decide (b.seq.rowC ≤ t)
  | none, none => false

/-- The own mark SAFE of a stage. -/
def safeOwn (b : Block) (st : Nat) : Option (Nat × Nat) := if safeMarks b then some (6, st) else none

/-- A header written without its stage having run, of a RESULT or COMPARE entry: SAFE joins its own mark. -/
def safeHdr (st : Nat) (ws : List Word) : List Word :=
  let w := wAt ws 3
  listSet ws 3 (hdrW3 (w.fld 31 24) (ownMark (some (6, st)) (if w.bit 0 then some (w.fld 4 1, w.fld 16 5) else none)))

/-- Work as it is written now (R459). -/
def safeWork (b : Block) (w : Later) : Later :=
  let k := ((schedFor b w.stage w.line).entry w.stage).kind
  if safeMarks b && decide (k = 3 ∨ k = 4) then { w with puts := w.puts.map (fun p => (p.1, safeHdr w.stage p.2.1, p.2.2)) } else w

/-- Write and ripen the entries, then send the signals, in ascending output order (R321 step 3). -/
def doPuts (b : Block) (w : Later) : Block :=
  let w := safeWork b w
  let b := w.puts.foldl (fun b p => grWords b p.1 p.2.1) b
  let b := flowChaffMirror (w.puts.foldl (fun b p => setFlags b p.2.2.1 p.2.2.2 true) b) w
  w.sigs.foldl (fun b p => sendOp b 0 w.stage w.line p.1 (.signal p.2)) b

/-- The chaff fields of a header, with CAUSE BUSY in place of what they hold (R336). -/
def busyHdr (stage : Nat) (ws : List Word) : List Word :=
  listSet ws 3 (hdrW3 ((wAt ws 3).fld 31 24) (some (4, stage)))

/-- The last chaff decision of the rachis (R74). -/
def lastChaff (b : Block) (cause stage line : Nat) : Block :=
  setRg (setRg b Reg.SEQ_LAST_CHAFF (wd (cause % 16 * 2 ^ 28 + stage % 4096))) Reg.SEQ_LAST_CHAFF_LINE (wd line)

/-- An invocation is now a chaff-run that has completed. -/
def markChaff (b : Block) (stage line : Nat) : Block :=
  { b with seq := { b.seq with invs := b.seq.invs.map (fun v =>
      if v.stage = stage ∧ v.line = line then { v with chaff := true, done := true } else v) } }

/-- The chaff fields of the patch-list entry of a task whose post was refused (R336): written in the cycle of the post. -/
def busyPatch (stage : Nat) (p : Posted) (b : Block) : Block :=
  if (wAt p.words 0).bit 14 then
    let a := (wAt p.words 6).fld 25 0
    grWords b (a + 12) [hdrW3 0 (some (4, stage))]
  else b

/-- Do one piece of work. A refused post becomes a chaff-run with CAUSE BUSY, one cycle later (R336). -/
def doLater (b : Block) (w : Later) : Block :=
  match w.post with
  | none => doPuts b w
  | some (n, p) =>
    let r := postTask b n p
    if r.2 then r.1
    else
      let b := lastChaff (markChaff (busyPatch w.stage p r.1) w.stage w.line) 4 w.stage w.line
      let b := raiseOnce b 0x22 0 w.stage
      { b with seq := { b.seq with later := b.seq.later ++
          [{ w with due := w.due + 1, post := none, puts := w.puts.map (fun q => (q.1, busyHdr w.stage q.2.1, q.2.2)) }] } }

/-- Work in the order of its cycle, then stage ID, then line (R321). -/
def laterLt (a b : Later) : Bool :=
  decide (a.due < b.due) || (decide (a.due = b.due) &&
    (decide (a.stage < b.stage) || (decide (a.stage = b.stage) && decide (a.line < b.line))))

/-- Do all work that is due by the present cycle. -/
def doDueWork (b : Block) : Block :=
  let due := sortBy laterLt (b.seq.later.filter (fun w => decide (w.due ≤ b.pwr.ccy)))
  due.foldl doLater { b with seq := { b.seq with later := b.seq.later.filter (fun w => !decide (w.due ≤ b.pwr.ccy)) } }

/-- Put off a piece of work. -/
def putOff (b : Block) (w : Later) : Block := { b with seq := { b.seq with later := b.seq.later ++ [w] } }

end Sys2Proof.Machine
end

