-- ==== Sys2Proof/Machine/Power.lean ====
section
/-! DEFINITION. Reset, clocks, supply monitoring, power domains and scratchpad bank groups
(spec/22_power_clocks_reset.md R494 to R512). -/

namespace Sys2Proof.Machine

/-! ## Reset (R498, R499) -/

/-- The straps are sampled (R387, R524): the device number, and HEAD and DEV of LNK_SYS, in its mirror too (R526). -/
def sampleStraps (straps : Nat) (b : Block) : Block :=
  let n := straps % 64
  let w := wd (b2n (decide (n = 0)) * 2 ^ 15 + n)
  let b := setRg { b with pwr := { b.pwr with devid := n, straps := n } } Reg.LNK_SYS w
  { b with regs := { b.regs with mirror := spPut regReset b.regs.mirror Reg.LNK_SYS w } }

/-- The block of a cold reset while PORST_N is low (R498: nothing is kept). A rail that is low stays so (log entry 83). -/
def coldBlk (o : Block) : Block :=
  { Block.init with pwr := { Pwr.init with held := true, straps := o.pwr.straps, low := o.pwr.low } }

/-- The block after a rail has fallen below its reset level (R498, R503): PWR_RESET_CAUSE records the rail. Where PORST_N is not
low, the reset ends when the rail is back, and the straps are sampled then (DEDUCED, log entry 11). -/
def supplyBlk (rail straps : Nat) (o : Block) : Block :=
  let b := { Block.init with pwr := { Pwr.init with held := o.pwr.held, straps := o.pwr.straps, low := some (rail % 8) } }
  let b := if o.pwr.held then b else sampleStraps straps b
  setRg b Reg.PWR_RESET_CAUSE (wd (rail % 8 * 256 + 2))

/-- The block after a warm reset: the PWR_ registers of R498 kept, the PLLs still locked, the straps sampled (R524).
`bit` is the bit of PWR_RESET_CAUSE of this reset. -/
def warmBlk (bit straps : Nat) (o : Block) : Block :=
  let b := sampleStraps straps Block.init
  let b := [Reg.PWR_CNT_DIP, Reg.PWR_CNT_DIP_ESC, Reg.PWR_DIP_LAST_LO, Reg.PWR_DIP_LAST_HI].foldl
    (fun b a => setRg b a (rg o a)) b
  let b := setRg b Reg.PWR_RESET_CAUSE (rg o Reg.PWR_RESET_CAUSE ||| wd bit)
  setRg b Reg.CLK_STATUS (rg o Reg.CLK_STATUS &&& 0x3F#32)

/-- The rising edge of PORST_N (R499): the always-on domain starts, SYS_DEVID is sampled, PWR_RESET_CAUSE is written. -/
def porstNRise (devid : Nat) (b : Block) : Block :=
  orRg (sampleStraps devid { b with pwr := { b.pwr with held := false, low := none } }) Reg.PWR_RESET_CAUSE 1

/-- The alignment pulse (R496), once after each reset: CCY reads 0, the core clock runs, every PLL is locked. -/
def alignmentPulse (b : Block) : Block :=
  if (rg b Reg.CLK_STATUS).bit 7 ∨ b.pwr.held = true then b else
  let b := { b with pwr := { b.pwr with ccy := 0, core := true, low := none }, safe := { b.safe with clkSeen := true } }
  orRg b Reg.CLK_STATUS 0xBF

/-- Loss of lock (R497): the core clock is gated, or Chombe switches to its ring oscillator; 6 is REFCLK. -/
def pllLockLoss (pll : Nat) (b : Block) : Block :=
  let coreLost := fun (b : Block) =>
    safeReq { b with pwr := { b.pwr with core := false }, safe := { b.safe with clkSeen := false } } 11 0
  let chbLost := fun (b : Block) => safeReq (orRg b Reg.CLK_STATUS 0x40) 10 0
  if pll = 5 then chbLost (clrRg b Reg.CLK_STATUS 0x20)
  else if pll < 5 then coreLost (clrRg b Reg.CLK_STATUS (2 ^ pll))
  else if pll = 6 then coreLost (chbLost (clrRg b Reg.CLK_STATUS 0x3F))
  else b

/-- The host port leaves high impedance at t0 + 200 µs (R500). -/
def hostPortReady (b : Block) : Block := { b with pwr := { b.pwr with port := true } }

/-! ## Supply dips (R504 to R506) -/

/-- Is a dip under way? -/
def inDip (b : Block) : Bool := (rg b Reg.PWR_STATUS).bit 0

/-- Are marks set and requests made (R506: not while SEQ_CTRL.EN is 0)? -/
def dipMarks (b : Block) : Bool := b.pwr.suspect && (rg b Reg.SEQ_CTRL).bit 0

/-- Headers that the rachis is about to write carry SUSPECT (R505). -/
def suspectLater (w : Later) : Later :=
  { w with puts := w.puts.map (fun p => (p.1, listSet p.2.1 1 (wAt p.2.1 1 ||| 0x100000#32), p.2.2)) }

/-- The start of a dip (R504); within the suspect interval it continues the previous dip. -/
def dipStart (b : Block) : Block :=
  if inDip b then b
  else
    let b1 := setF b Reg.PWR_STATUS 0 0 1
    if b.pwr.suspect then b1
    else
      let mark := (rg b1 Reg.SEQ_CTRL).bit 0
      let b := { b1 with
        pwr := { b1.pwr with suspect := true, dipReq := false, dipTicks := 0, dipC := b1.pwr.ccy },
        seq := { b1.seq with
          invs := b1.seq.invs.map (fun v => if mark && !v.done then { v with suspect := true } else v),
          later := if mark then b1.seq.later.map suspectLater else b1.seq.later } }
      let b := bump (raise b 0xD0 0) Reg.PWR_CNT_DIP 1
      let b := setRg b Reg.PWR_DIP_LAST_LO (wd b.tb.frontier)
      setRg b Reg.PWR_DIP_LAST_HI (wd (b.tb.frontier / 2 ^ 32 % 4096))

/-- The end of a dip (R504). -/
def dipEnd (b : Block) : Block :=
  if inDip b then
    let b := { b with pwr := { b.pwr with dipEndC := b.pwr.ccy } }
    safeCond (raise (setF b Reg.PWR_STATUS 0 0 0) 0xD1 (min 4095 b.pwr.dipTicks)) 17 0 false
  else b

/-- 64 core cycles after the end of a dip (R504). -/
def suspectEnd (b : Block) : Block :=
  if inDip b ∨ b.pwr.ccy < b.pwr.dipEndC + 64 then b else { b with pwr := { b.pwr with suspect := false } }

/-- The escalation of a dip (R506), once per dip and only while SEQ_CTRL.EN is 1. -/
def dipEscalate (b : Block) : Block :=
  if inDip b && !b.pwr.dipReq && (rg b Reg.SEQ_CTRL).bit 0 then
    let b := { b with pwr := { b.pwr with dipReq := true } }
    let b := orRg (bump b Reg.PWR_CNT_DIP_ESC 1) Reg.PWR_STATUS 2
    safeCond (safeReq b 17 0) 17 0 true
  else b

/-- BROWNOUT_TMAX: the dip has lasted TMAX µs, 1 250 core cycles each (R506). -/
def dipTmax (b : Block) : Block :=
  if b.pwr.dipC + 1250 * (rg b Reg.PWR_DIP_CFG).fld 15 0 ≤ b.pwr.ccy then dipEscalate b else b

/-- A line tick that arrives within a dip (R506): the fifth escalates; PWR_DIP_LAST_HI.TICKS saturates. -/
def dipTick (b : Block) : Block :=
  if inDip b then
    let n := b.pwr.dipTicks + 1
    let b := { b with pwr := { b.pwr with dipTicks := n } }
    let b := setF b Reg.PWR_DIP_LAST_HI 31 24 (min 255 n)
    if 5 ≤ n then dipEscalate b else b
  else b

/-! ## Scratchpad bank groups (R509, R510). States: 0 ON, 1 PENDING, 2 OFF, 3 WAKING. -/

/-- State of bank group `g` of tiller `t`. -/
def grpSt (b : Block) (t g : Nat) : Nat := (rg b (Reg.PWR_SPAD t)).fld (9 + 2 * g) (8 + 2 * g)

/-- Set the state of a bank group. -/
def setGrp (b : Block) (t g v : Nat) : Block := setF b (Reg.PWR_SPAD t) (9 + 2 * g) (8 + 2 * g) v

/-- Does the byte range `lo` to `hi` of a scratchpad meet bank group `g` (R509)? -/
def meetsGrp (lo hi g : Nat) : Bool :=
  [g * 0x40000, 0x100000 + g * 0x40000].any (fun a => decide (lo < a + 0x40000 ∧ a ≤ hi))

/-- Is every byte from `lo` to `hi` of tiller `t`'s scratchpad in groups that are powered and not waking? -/
def rangeOn (b : Block) (t lo hi : Nat) : Bool :=
  (upFrom 0 4).all (fun g => !(meetsGrp lo hi g && decide (2 ≤ grpSt b t g)))

/-- A bank group begins its zero-fill. -/
def startFill (b : Block) (t g : Nat) : Block :=
  { b with pwr := { b.pwr with fillC := spPut (fun _ => 0) b.pwr.fillC (t * 4 + g) b.pwr.ccy } }

/-- Zero-fill a bank group with valid check bits (R510). -/
def zeroGrp (b : Block) (t g : Nat) : Block :=
  let x := tl b t
  let out := fun (w : Nat) => !meetsGrp (4 * w) (4 * w) g
  setTl { b with mems := { b.mems with spad := b.mems.spad.filter (fun e =>
      !(decide (e.1 / 2 ^ 21 = t) && meetsGrp (e.1 % 2 ^ 21) (e.1 % 2 ^ 21) g)) } } t
    { x with poison := x.poison.filter out, scrub := x.scrub.filter out }

/-- PWR_DOM of a change of a bank group (R530). -/
def grpArg (t g : Nat) : Nat := 0x800 + t * 4 + g

/-! ## Power domains (R507, R508) -/

/-- State of domain `d`. -/
def domSt (b : Block) (d : Nat) : Nat := (rg b (Reg.PWR_DOM_STATE (d / 16))).fld (2 * (d % 16) + 1) (2 * (d % 16))

/-- Set the state of a domain. -/
def setDom (b : Block) (d v : Nat) : Block := setF b (Reg.PWR_DOM_STATE (d / 16)) (2 * (d % 16) + 1) (2 * (d % 16)) v

/-- The domain that holds a tiller's scratchpad (R509, R510). -/
def spadDom (t : Nat) : Nat := if t < 32 then 3 * t + 2 else 96 + (t - 32)

/-- The domains of a tiller's array and vector unit. -/
def arrayDom (t : Nat) : Nat := if t < 32 then 3 * t else 96 + (t - 32)
def vectorDom (t : Nat) : Nat := if t < 32 then 3 * t + 1 else 96 + (t - 32)

/-- The domain of a unit, by class and physical number; none for a tiller below 32, whose parts have their own. -/
def unitDom (cls phys : Nat) : Option Nat :=
  if cls = 0 then (if 32 ≤ phys then some (96 + (phys - 32)) else none)
  else if cls = 5 then some (136 + phys)
  else some (100 + 9 * (cls - 1) + phys)

/-- Class and physical number of a vision domain. -/
def domUnit (d : Nat) : Nat × Nat := if 136 ≤ d then (5, d - 136) else (1 + (d - 100) / 9, (d - 100) % 9)

/-- Class of a UNIT code of R50 and its logical slot: 6 a front-end lane, 7 any other. -/
def unitCls (u : Nat) : Nat × Nat :=
  if u < 0x08 then (6, u)
  else if 0x10 ≤ u ∧ u < 0x18 then (1, u - 0x10)
  else if 0x20 ≤ u ∧ u < 0x28 then (2, u - 0x20)
  else if 0x30 ≤ u ∧ u < 0x38 then (3, u - 0x30)
  else if 0x40 ≤ u ∧ u < 0x48 then (4, u - 0x40)
  else if 0x50 ≤ u ∧ u < 0x54 then (5, u - 0x50)
  else if 0x60 ≤ u ∧ u < 0x80 then (0, u - 0x60)
  else (7, u)

/-- Is an invocation in flight on the physical unit? -/
def visionBusy (b : Block) (cls phys : Nat) : Bool :=
  b.seq.invs.any (fun v => !v.done && !v.chaff && decide (v.phys = phys) &&
    decide ((unitCls ((schedFor b v.stage v.line).entry v.stage).unit).1 = cls))

/-- The condition under which a PENDING domain becomes OFF (R508). -/
def domCond (b : Block) (d : Nat) : Bool :=
  if d < 96 then
    if d % 3 = 2 then (upFrom 0 4).all (fun g => decide (grpSt b (d / 3) g = 2)) else (tl b (d / 3)).task.isNone
  else if d < 100 then
    let u := unitOf b 0 (32 + (d - 96))
    decide (u.st = 0 ∨ u.st = 2 ∨ u.st = 3) || (tl b (32 + (d - 96))).task.isNone
  else if d < 141 then
    let cp := domUnit d
    let u := unitOf b cp.1 cp.2
    decide (u.st = 0 ∨ u.st = 2 ∨ u.st = 3) || !visionBusy b cp.1 cp.2
  else !(rg b Reg.DBG_REC_CTRL).bit 31 && !(rg b Reg.DBG_RPL_CTRL).bit 0

/-- Start the wake of domains that wait for a place, in ascending number, at most four at once (R508). -/
def wakeNext (b : Block) : Block :=
  let waiting := (upFrom 0 142).filter (fun d => decide (domSt b d = 3) && !b.pwr.wakeQ.contains d)
  { b with pwr := { b.pwr with wakeQ := b.pwr.wakeQ ++ waiting.take (4 - b.pwr.wakeQ.length) } }

/-- R509: the bank groups of a whole-tiller domain are OFF while it is not ON. -/
def wholeGrpsOff (d : Nat) (b : Block) : Block :=
  if 96 ≤ d ∧ d < 100 then (upFrom 0 4).foldl (fun b g => setGrp b (32 + (d - 96)) g 2) b else b

/-- R509: when a whole-tiller domain becomes ON, its bank groups whose OFF bit is 0 wake with it. -/
def wholeGrpsWake (d : Nat) (b : Block) : Block :=
  if 96 ≤ d ∧ d < 100 then
    (upFrom 0 4).foldl (fun b g =>
      if (rg b (Reg.PWR_SPAD (32 + (d - 96)))).bit g then b else startFill (setGrp b (32 + (d - 96)) g 3) (32 + (d - 96)) g) b
  else b

/-- A 1 written to a domain's bit (R508). -/
def domOffReq (d : Nat) (b : Block) : Block :=
  if 142 ≤ d then raise (orRg b Reg.PWR_STATUS 4) 0xD4 0
  else
    let b := setF b (Reg.PWR_DOM_OFF (d / 32)) (d % 32) (d % 32) 1
    if domSt b d = 0 then wholeGrpsOff d (setDom b d 1)
    else if domSt b d = 3 then { b with pwr := { b.pwr with offLater := b.pwr.offLater.filter (· ≠ d) ++ [d] } }
    else b

/-- A 0 written to a domain's bit (R508). A return from PENDING is a domain reaching ON, so PWR_DOM is raised (R511). -/
def domWakeReq (d : Nat) (b : Block) : Block :=
  if 142 ≤ d then b
  else
    let b := setF b (Reg.PWR_DOM_OFF (d / 32)) (d % 32) (d % 32) 0
    let b := { b with pwr := { b.pwr with offLater := b.pwr.offLater.filter (· ≠ d) } }
    if domSt b d = 1 then wholeGrpsWake d (raise (setDom b d 0) 0xD2 d)
    else if domSt b d = 2 then wakeNext (setDom b d 3)
    else b

/-- A PENDING domain meets its condition (R508). -/
def domOff (d : Nat) (b : Block) : Block :=
  if d < 142 ∧ domSt b d = 1 ∧ domCond b d = true then
    raise (setDom b d 2) 0xD2 d
  else b

/-- The reset state of what a domain holds (R508). -/
def domReset (d : Nat) (b : Block) : Block :=
  let arr := fun (x : Tiller) => { x with acc := [], run := none, pend := none, chainIn := [] }
  let vec := fun (x : Tiller) =>
    { x with v := [], mask := 2 ^ 64 - 1, tb0 := TBuf.init, tb1 := TBuf.init, fillIdx := 0 }
  if d < 96 then
    let t := d / 3
    if d % 3 = 0 then setTl b t (arr (tl b t)) else if d % 3 = 1 then setTl b t (vec (tl b t)) else b
  else if d < 100 then setTl b (32 + (d - 96)) (vec (arr (tl b (32 + (d - 96)))))
  else if d = 141 then { b with dbg := DbgSt.init }
  else if 109 ≤ d ∧ d < 118 then { b with pyr := spErase (d - 109) b.pyr }
  else b

/-- The zero-fill of bank groups that waited for their domain begins (R510). -/
def domFills (d : Nat) (b : Block) : Block :=
  if d < 96 ∧ d % 3 = 2 then
    (upFrom 0 4).foldl (fun b g => if grpSt b (d / 3) g = 3 then startFill b (d / 3) g else b) b
  else b

/-- A WAKING domain becomes ON (R508). A 1 written meanwhile takes effect now. -/
def domOn (d : Nat) (b : Block) : Block :=
  if domSt b d = 3 ∧ b.pwr.wakeQ.contains d = true then
    let b := domFills d (raise (domReset d (setDom b d 0)) 0xD2 d)
    let b := wakeNext { b with pwr := { b.pwr with wakeQ := b.pwr.wakeQ.filter (· ≠ d) } }
    if b.pwr.offLater.contains d then
      wholeGrpsOff d (setDom { b with pwr := { b.pwr with offLater := b.pwr.offLater.filter (· ≠ d) } } d 1)
    else wholeGrpsWake d b
  else b

/-- A 1 written to a bank group's bit (R509). -/
def grpOffReq (t g : Nat) (b : Block) : Block :=
  if t < 36 ∧ g < 4 then
    let b := setF b (Reg.PWR_SPAD t) g g 1
    if grpSt b t g = 0 then setGrp b t g 1 else b
  else b

/-- A 0 written to a bank group's bit (R510): the domain that holds it wakes first where it is OFF; a group of a whole-tiller
domain that is not ON stays OFF and wakes with it (R509). A PENDING group returns to ON, as R508 says of a domain
(DEDUCED, log entry 39). -/
def grpWakeReq (t g : Nat) (b : Block) : Block :=
  if t < 36 ∧ g < 4 then
    let b := setF b (Reg.PWR_SPAD t) g g 0
    if grpSt b t g = 1 then raise (setGrp b t g 0) 0xD2 (grpArg t g)
    else if grpSt b t g = 2 then
      let b := if 32 ≤ t ∧ domSt b (spadDom t) ≠ 0 then b else startFill (setGrp b t g 3) t g
      if domSt b (spadDom t) = 2 then domWakeReq (spadDom t) b else b
    else b
  else b

/-- A WAKING group ends its zero-fill of 8 192 cycles (R510). A 1 written meanwhile takes effect now, as R508 says of a domain (DEDUCED, log
entry 39). -/
def grpOn (t g : Nat) (b : Block) : Block :=
  if t < 36 ∧ g < 4 ∧ grpSt b t g = 3 ∧ domSt b (spadDom t) ≤ 1 ∧
      spGet (fun _ => 0) b.pwr.fillC (t * 4 + g) + 8192 ≤ b.pwr.ccy then
    let b := raise (setGrp (zeroGrp b t g) t g 0) 0xD2 (grpArg t g)
    if (rg b (Reg.PWR_SPAD t)).bit g then setGrp b t g 1 else b
  else b

/-- The first refusal per sheaf and tiller of an access to a group that is not powered (R510). -/
def bankOffEvt (b : Block) (t : Nat) : Block := raiseOnce b 0xD3 t t

end Sys2Proof.Machine
end

