-- ==== Sys2Proof/Machine/Recorder.lean ====
section
/-! DEFINITION. The recording queue (spec/20_determinism_and_replay.md R472 to R475): what a record holds and how it enters
the queue. -/

namespace Sys2Proof.Machine

/-- CRC-32 of IEEE 802.3, one byte (reflected polynomial 0xEDB88320). -/
def crcByte (c : Word) (v : Byte) : Word :=
  (upFrom 0 8).foldl (fun c _ => if c.bit 0 then (c >>> 1) ^^^ 0xEDB88320#32 else c >>> 1) (c ^^^ v.setWidth 32)

/-- CRC-32 of a list of bytes. -/
def crc32 (l : List Byte) : Word := ~~~ (l.foldl crcByte 0xFFFFFFFF#32)

/-- The bytes of a list of words. -/
def wordBytes (l : List Word) : List Byte := l.flatMap (fun w => leBytes 4 w.toNat)

/-- Bytes waiting in the recording queue. -/
def recBytes (b : Block) : Nat := (b.dbg.queue.map List.length).foldl (· + ·) 0

/-- A record (R473) enters the 64 KiB queue, or is dropped and counted (R472). -/
def recPush (b : Block) (r : List Byte) : Block :=
  if recBytes b + r.length ≤ 65536 then { b with dbg := { b.dbg with queue := b.dbg.queue ++ [r] } }
  else bump { b with dbg := { b.dbg with lost := b.dbg.lost + 1 } } Reg.DBG_REC_CNT_LOST 1

/-- Is the recorder on? -/
def recOn (b : Block) : Bool := (rg b Reg.DBG_REC_CTRL).bit 31

/-- Is the part in replay (R476)? -/
def replayOn (b : Block) : Bool := (rg b Reg.DBG_RPL_CTRL).bit 0

/-- An event of a pin that replay ignores. -/
def livePin (f : Block → Block) (b : Block) : Block := if replayOn b then b else f b

/-- A record of R473 with payload, padded to 32 bytes. -/
def recOf (b : Block) (type sub src bmask off32 : Nat) (x y z : Word) (payload : List Byte) : List Byte :=
  let n := payload.length
  wordBytes [wd (type * 2 ^ 28 + sub % 16 * 2 ^ 24 + src % 32 * 2 ^ 16 + n % 65536), wd b.pwr.ccy, wd (b.pwr.ccy / 2 ^ 32),
    wd b.tb.frontier, wd (bmask % 16 * 2 ^ 28 + off32 % 2 * 2 ^ 27 + b.tb.frontier / 2 ^ 32 % 4096), x, y, z]
  ++ payload ++ List.replicate ((32 - n % 32) % 32) 0#8

/-- Push a record when the recorder is on and `want` holds. -/
def record (b : Block) (want : Bool) (type sub src bmask off32 : Nat) (x y z : Word) (payload : List Byte) : Block :=
  if recOn b && want then recPush b (recOf b type sub src bmask off32 x y z payload) else b

/-- The timebase cycle that a core cycle falls in (R29). -/
def coreToTb (c : Nat) : Nat :=
  let r := c % 25
  4 * (c / 25) + (if r < 6 then 0 else if r < 12 then 1 else if r < 18 then 2 else 3)

/-- An ENC record (R474), for an input that is applied. -/
def recEnc (b : Block) (sub : Nat) : Block :=
  let t := coreToTb b.pwr.ccy
  record b (nbit b.dbg.mask 0) 1 sub 0 0 0 (wd t) (wd (t / 2 ^ 32 % 65536)) 0#32 []

/-- A HOST record (R474, R475): window offset and data, with the mask of bytes written; SRC is the link by which a write has arrived. -/
def recHost (b : Block) (sub off : Nat) (data : Word) (bmask : Nat) : Block :=
  record b (nbit b.dbg.mask 1) 2 sub (if sub = 3 then b.now.via else 0) bmask (off / 2 ^ 32) (wd off) data 0#32 []

/-- A LATE record (R474, R483); SRC is the link of a retry. -/
def recLate (b : Block) (sub x y : Nat) : Block := record b (nbit b.dbg.mask 3) 4 sub (if sub = 1 then x else 0) 0 0 (wd x) (wd y) 0#32 []

end Sys2Proof.Machine
end

