-- ==== Sys2Proof/Machine/Timebase.lean ====
section
/-! DEFINITION. The position timebase (spec/01_position_timebase.md R19 to R45), but for the tick itself and the triggers,
which stand with the rachis and the camera ports. -/

namespace Sys2Proof.Machine

/-- TB_STATUS.STATE: 0 DISABLED, 1 RUNNING, 2 STOPPED, 3 ENC_LOST. -/
def tbState (b : Block) : Nat := (rg b Reg.TB_STATUS).fld 1 0

/-- Set TB_STATUS.STATE. -/
def setTbState (b : Block) (v : Nat) : Block := setF b Reg.TB_STATUS 1 0 v

/-- TB_CTRL.EN. -/
def tbEn (b : Block) : Bool := (rg b Reg.TB_CTRL).bit 0

/-- Does the position lie below the frontier's line boundary (R39)? -/
def revActive (b : Block) : Bool := decide (2 ^ 47 ≤ subMod 48 b.tb.pos (b.tb.frontier * 16))

/-- TB_POS, TB_FRONTIER and REV_ACTIVE follow the timebase. -/
def tbPublish (b : Block) : Block :=
  let b := setRg (setRg b Reg.TB_POS_LO (wd b.tb.pos)) Reg.TB_POS_HI (wd (b.tb.pos / 2 ^ 32))
  let b := setRg (setRg b Reg.TB_FRONTIER_LO (wd b.tb.frontier)) Reg.TB_FRONTIER_HI (wd (b.tb.frontier / 2 ^ 32))
  setF b Reg.TB_STATUS 3 3 (b2n (revActive b))

/-! ## Timebase cycles and core cycles (R29) -/

/-- The core cycle during which timebase cycle `t` begins. -/
def tbBegin (t : Nat) : Nat := 25 * (t / 4) + 25 * (t % 4) / 4

/-- The core cycle in which a tick detected in timebase cycle `t` arrives: 11 + 2p cycles later. -/
def tbArrive (t : Nat) : Nat := tbBegin t + 11 + 2 * (t % 4)

/-- The present timebase cycle. -/
def nowTb (b : Block) : Nat := coreToTb b.pwr.ccy

/-- Would a tick detected in timebase cycle `t` arrive at least 1 250 core cycles after the one before (R28)? -/
def spaced (b : Block) (t : Nat) : Bool :=
  match b.tb.lastArr with
  | none => true
  | some a => decide (a + 1250 ≤ tbArrive t)

/-- The first timebase cycle in which a tick arrives 1 250 core cycles after one that arrived at `a`. -/
def holdEnd (a : Nat) : Nat :=
  ((upFrom (4 * ((a + 1250) / 25) - 8) 16).find? (fun t => decide (a + 1250 ≤ tbArrive t))).getD 0

/-! ## Triggers that are due (R32) -/

/-- Has the position crossed `p`, by modular difference? -/
def crossed (b : Block) (p : Nat) : Bool := decide (subMod 48 b.tb.pos (p % 2 ^ 48) < 2 ^ 47)

/-- Trigger output `n`. -/
def trigOf (b : Block) (n : Nat) : Trig := spGet (fun _ => Trig.init) b.trigs n

/-- Write trigger output `n`. -/
def setTrig (b : Block) (n : Nat) (t : Trig) : Block := { b with trigs := spPut (fun _ => Trig.init) b.trigs n t }

/-- Does output `n` fire for lines such as `k`? -/
def trigServes (b : Block) (n k : Nat) : Bool :=
  let cfg := frc b (Reg.TB_TRIG_CFG n)
  cfg.bit 0 && decide (k % (cfg.fld 11 8 + 1) = 0)

/-- Has output `n` fired for line `k`, or is its firing for that line due? -/
def trigHad (x : Trig) (k : Nat) : Bool := decide (x.last = some k) || x.due.any (fun f => decide (f.line = k))

/-- Outputs that have a firing due from timebase cycle `t` on: the line has been ticked, the position has crossed PHASE, and
the output has not fired for the line. -/
def trigDue (t : Nat) (b : Block) : Block :=
  match b.tb.issued with
  | none => b
  | some k => (upFrom 0 8).foldl (fun b n =>
      let x := trigOf b n
      if trigServes b n k && crossed b (k * 16 + (frc b (Reg.TB_TRIG_CFG n)).fld 7 4) && !trigHad x k then
        setTrig b n { x with due := x.due ++ [⟨k, t, b.tb.phase, b.tb.late, b.tb.sheafSt⟩] }
      else b) b

/-! ## The tick leaves the timebase (R28, R31, R36 to R38) -/

/-- R38: does the `i`th of `n` missed lines request the safe state? The last of two or more does, and the one at which
MISS_SHEAF reaches MISS_LIMIT. -/
def missSafe (m : Word) (n i : Nat) : Bool :=
  decide (2 ≤ n ∧ i = n) || decide (m.fld 7 0 ≠ 0 ∧ m.fld 15 8 + i = m.fld 7 0)

/-- R37, R38: the missed lines of a tick are counted; the event of a line that requests the safe state says so. -/
def missLines (b : Block) (n : Nat) : Block :=
  if n = 0 then b
  else
    let m := rg b Reg.TB_MISS
    let b := (upFrom 1 n).foldl (fun b i =>
      raiseS (bump b Reg.TB_CNT_MISSED 1) 0x14 (min 255 (m.fld 15 8 + i)) (missSafe m n i)) b
    let b := setF b Reg.TB_MISS 15 8 (min 255 (m.fld 15 8 + n))
    if (upFrom 1 n).any (missSafe m n) then safeReq b 13 0 else b

/-- TB_LPERIOD and TB_SHEAF_TIME (R45), saturating. -/
def tickTimes (b : Block) (t : Nat) (bound : Bool) : Block :=
  let b := match b.tb.lastTb with
    | some t0 => setRg b Reg.TB_LPERIOD (wd (min (2 ^ 24 - 1) (t - t0)))
    | none => b
  let b := if bound then
      (let b := match b.tb.sheafTb with
        | some t0 => setRg b Reg.TB_SHEAF_TIME (wd (min (2 ^ 32 - 1) (t - t0)))
        | none => b
       { b with tb := { b.tb with sheafTb := some t } })
    else b
  { b with tb := { b.tb with lastTb := some t } }

/-- The tick issued in timebase cycle `t`: for line F + 1, or, where it was held, for the line of the position, the lines
between being missed. -/
def flightOf (b : Block) (t : Nat) (held : Bool) : Flight :=
  let n := lineAdd b.tb.frontier 1
  let line := if held then posLine b else n
  { line := line, miss := if held then (upFrom 0 (lineSub (posLine b) n)).map (fun i => lineAdd n i) else [],
    phase := b.tb.pos % 16, late := held, bound := decide (sheafOf line ≠ sheafOf b.tb.frontier), arrive := tbArrive t }

/-- The timebase issues a tick in timebase cycle `t`. -/
def issueTick (t : Nat) (held : Bool) (b : Block) : Block :=
  let i := flightOf b t held
  let b := tickTimes b t i.bound
  let b := if i.late then bump b Reg.TB_CNT_LATE 1 else b
  let b := missLines b i.miss.length
  -- the clearing takes effect after the boundary tick has been counted (R38)
  let b := if i.bound then setF b Reg.TB_MISS 15 8 0 else b
  let b := { b with tb := { b.tb with frontier := i.line, issued := some i.line, phase := i.phase, late := i.late,
                                      sheafSt := i.bound, lastArr := some i.arrive, holdTb := none, flight := some i } }
  trigDue t (tbPublish (setF b Reg.TB_STATUS 4 4 0))

/-- Has replay reached its end, at which the timebase holds (R476)? -/
def rplDone (b : Block) : Bool := replayOn b && decide ((rg b Reg.DBG_RPL_STATUS).fld 1 0 = 2)

/-- Ticks are issued while counts are applied; a tick already held when the encoder is lost is still issued (R42). -/
def mayTick (b : Block) : Bool :=
  tbEn b && !rplDone b && (decide (tbState b = 1 ∨ tbState b = 2) || (decide (tbState b = 3) && b.tb.holdTb.isSome))

/-- What timebase cycle `t` detects (R28): a tick that is issued, one that is held (HOLD, R36), or none. A held tick is issued when
its hold ends (`holdDue`), whatever is counted until then. -/
def detect (t : Nat) (b : Block) : Block :=
  if lineGt (posLine b) b.tb.frontier && mayTick b then
    if b.tb.holdTb.isSome then b
    else if spaced b t then issueTick t false b
    else setF { b with tb := { b.tb with holdTb := b.tb.lastArr.map holdEnd } } Reg.TB_STATUS 4 4 1
  else setF { b with tb := { b.tb with holdTb := none } } Reg.TB_STATUS 4 4 0

/-- The core cycle by which a held tick is issued: its timebase cycle has ended (DEDUCED, log entry 49). -/
def holdDueC (b : Block) : Option Nat := b.tb.holdTb.map (fun t => tbBegin (t + 1))

/-- A held tick is issued when its hold ends. -/
def holdDue (b : Block) : Block :=
  match b.tb.holdTb with
  | some t => if tbBegin (t + 1) ≤ b.pwr.ccy && mayTick b then issueTick t true b else b
  | none => b

/-! ## The position -/

/-- R40: the reverse limit, once per excursion. -/
def revCheck (b : Block) : Block :=
  if revActive b then
    if !b.tb.revDone && decide ((rg b Reg.TB_REV_LIMIT).fld 23 0 < subMod 48 (b.tb.frontier * 16) b.tb.pos) then
      raise { b with tb := { b.tb with revDone := true } } 0x15 0
    else b
  else { b with tb := { b.tb with revDone := false } }

/-- After a change of position: firings for the line ticked last come due before a tick of the same timebase cycle takes its
place (R32). -/
def afterMove (b : Block) : Block :=
  let t := nowTb b
  revCheck (tbPublish (detect t (trigDue t b)))

/-- Move the position by TB_SCALE (R21, R22, R26). -/
def movePos (b : Block) (fwd : Bool) : Block :=
  let sc := (frc b Reg.TB_SCALE).toNat
  let v := b.tb.pos * 2 ^ 24 + b.tb.acc
  let v' := if fwd then (v + sc) % 2 ^ 72 else subMod 72 v sc
  { b with tb := { b.tb with pos := v' / 2 ^ 24, acc := v' % 2 ^ 24 } }

/-- Z_CHK_EN. -/
def zChk (b : Block) : Bool := (rg b Reg.TB_CTRL).bit 3

/-- The Z count of R25 after an applied count, and Z loss, for which there must be no Z edge (`edge`: one in the count's own sample).
A reverse count is remembered whether or not counts are checked. -/
def zCountStep (b : Block) (fwd edge : Bool) : Block :=
  let b := { b with tb := { b.tb with zrev := b.tb.zrev || !fwd } }
  if zChk b then
    let z := if fwd then b.tb.zcount + 1 else b.tb.zcount - 1
    let b := { b with tb := { b.tb with zcount := z } }
    if decide (((rg b Reg.TB_Z_EXPECT).toNat : Int) < z) && !edge && !b.tb.zrev && !b.tb.zlost then
      raise (orRg { b with tb := { b.tb with zlost := true, zfirst := true } } Reg.TB_STATUS 0x400) 0x11 1
    else b
  else b

/-- A count is applied (R21, R34): START at the first one while STOPPED. `edge`: there is a Z edge in its sample. -/
def applyCount (b : Block) (fwd edge : Bool) : Block :=
  if tbEn b && decide (tbState b = 1 ∨ tbState b = 2) then
    let b := if tbState b = 2 then raise (setTbState b 1) 0x13 0 else b
    let b := zCountStep (movePos b fwd) fwd edge
    afterMove { b with tb := { b.tb with lastCount := b.pwr.ccy } }
  else b

/-! ## The inputs -/

/-- R23: does a level held for `held` timebase cycles pass the glitch filter? -/
def filterPass (b : Block) (held : Nat) : Bool := decide ((rg b Reg.TB_CTRL).fld 6 4 + 1 ≤ held)

/-- Forward sense of a step from levels (a, b) to (a', b') (R21): A leads B forward when DIR = 0. -/
def quadForward (a b a' b' dir : Bool) : Bool :=
  -- A leading B runs 00, 10, 11, 01
  let up := if a ≠ a' then (a' ≠ b) else (b' = a)
  if dir then !up else up

/-- An input after the filter (R23): the new level where it has been held for long enough, else the level before. -/
def filtered (b : Block) (held : Nat) (new old : Bool) : Bool := if filterPass b held then new else old

/-- New levels of A and B after the filter (R21, R24); `edge`: a Z edge in the same sample. R24 has no condition on EN or STATE
(log entry 59). -/
def encSample (a' b' edge : Bool) (s : Block) : Block :=
  let a := s.tb.a; let b := s.tb.b
  let s := { s with tb := { s.tb with a := a', b := b' } }
  if (rg s Reg.TB_CTRL).bit 1 then s
  else if a ≠ a' ∧ b ≠ b' then
    raise (orRg (bump (recEnc s 4) Reg.TB_CNT_QUAD 1) Reg.TB_STATUS 0x200) 0x10 0
  else if a = a' ∧ b = b' then s
  else
    let fwd := quadForward a b a' b' ((rg s Reg.TB_CTRL).bit 2)
    applyCount (if tbEn s && decide (tbState s ≠ 3) then recEnc s (if fwd then 0 else 1) else s) fwd edge

/-- ENCODER_COUNT: the levels of A and B in sample `c`. -/
def encoderCount (a b : Bool) (c : Sampled) (s : Block) : Block :=
  encSample (filtered s c.heldA a s.tb.a) (filtered s c.heldB b s.tb.b) false s

/-- Is a rise a rising edge after the filter, whose output was at `level` (R23)? A low level that was too short has not been
seen. -/
def edgeSeen (b : Block) (r : Rise) (level : Bool) : Bool :=
  filterPass b r.high && (filterPass b r.low || !level)

/-- The filter's output after a rise. -/
def riseLevel (b : Block) (r : Rise) (level : Bool) : Bool :=
  if filterPass b r.high then true else if filterPass b r.low then false else level

/-- A rising edge on Z (R25), after the count of the same sample. -/
def zLatch (b : Block) : Block :=
  let b := recEnc b 2
  let b := setRg (setRg b Reg.TB_Z_LATCH_LO (wd b.tb.pos)) Reg.TB_Z_LATCH_HI (wd (b.tb.pos / 2 ^ 32))
  let bad := zChk b && !b.tb.zfirst && !b.tb.zrev && decide (b.tb.zcount ≠ ((rg b Reg.TB_Z_EXPECT).toNat : Int))
  let b := { b with tb := { b.tb with zcount := if zChk b then 0 else b.tb.zcount, zfirst := false, zrev := false,
                                      zlost := false } }
  if bad then raise (orRg b Reg.TB_STATUS 0x400) 0x11 0 else b

/-- Z_EDGE with the levels of its sample (R25). Z belongs to the encoder; R25 has no condition on EN or STATE (log entry
59). -/
def zEdge (a b : Bool) (c : ZSampled) (s : Block) : Block :=
  let edge := edgeSeen s c.rise s.tb.z
  let s := { s with tb := { s.tb with z := riseLevel s c.rise s.tb.z } }
  let s := encSample (filtered s c.sample.heldA a s.tb.a) (filtered s c.sample.heldB b s.tb.b) edge s
  if edge && !(rg s Reg.TB_CTRL).bit 1 then zLatch s else s

/-- R26: a rising edge of LTRIG in line-trigger mode. -/
def ltrigEdge (r : Rise) (b : Block) : Block :=
  let edge := edgeSeen b r b.tb.lt
  let b := { b with tb := { b.tb with lt := riseLevel b r b.tb.lt } }
  if edge && (rg b Reg.TB_CTRL).bit 1 && tbEn b && decide (tbState b ≠ 3) then applyCount (recEnc b 3) true false
  else b

/-- R34: no count for TB_STOP_TIME µs. -/
def tbStop (b : Block) : Block :=
  if tbState b = 1 ∧ rplDone b = false ∧ b.tb.lastCount + (rg b Reg.TB_STOP_TIME).fld 23 0 * 1250 ≤ b.pwr.ccy then
    raise (setTbState b 2) 0x12 0
  else b

/-- R42: an open or shorted pair of the selected source. 0 A, 1 B, 2 LTRIG. -/
def encLoss (pair : Nat) (b : Block) : Block :=
  let sel := if (rg b Reg.TB_CTRL).bit 1 then decide (pair = 2) else decide (pair < 2)
  if tbEn b && sel && decide (tbState b ≠ 3) then
    safeCond (safeReq (raiseS (setTbState (recEnc b 5) 3) 0x16 pair true) 12 0) 12 0 true
  else b

/-! ## Writes -/

/-- A rejected write to the timebase: CFG_ERR and its event (R44, R530). -/
def tbCfgErr (b : Block) (off : Nat) : Block := raise (orRg b Reg.TB_STATUS 0x100) 0x18 off

/-- While EN is 0 the SH fields of the block take effect at once (R45). -/
def tbForce (b : Block) (off : Nat) : Block :=
  if 0x2000 ≤ off ∧ off < 0x2100 ∧ tbEn b = false then setGen b off (rg b off) else b

/-- Line numbers begin anew: rows and published lines of before say nothing of lines to come (R5, R47, R74). -/
def linesAnew (b : Block) : Block := { b with seq := { b.seq with restart := true, pubLine := [] } }

/-- A preset puts the position into sheaf `sh`: where boundaries of later sheaves lie behind, they count no more, and the sets
stand as at the boundary of `sh` (log entry 72). -/
def gensAnew (sh : Nat) (b : Block) : Block :=
  if sheafGt b.regs.forceAt sh then { b with regs := { b.regs with forceAt := sh, prevAt := subMod 34 sh 1 } } else b

/-- EN goes from 0 to 1 (R22, R25, R34, R45). -/
def tbStart (b : Block) : Block :=
  let pos := ((rg b Reg.TB_POS_SET_HI).fld 15 0) * 2 ^ 32 + (rg b Reg.TB_POS_SET_LO).toNat
  let b := { b with
    tb := { b.tb with pos := pos, acc := 0, frontier := pos / 16, zcount := 0, zfirst := true, zrev := false,
                      zlost := false, revDone := false, holdTb := none, issued := none, tickLine := pos / 16, sheafTb := none },
    seq := { b.seq with base := some (pos / 16) } }
  tbPublish (setF (setTbState (gensAnew (sheafOf (pos / 16)) (linesAnew b)) 2) Reg.TB_STATUS 4 4 0)

/-- EN goes from 1 to 0 (R42, R45): a held tick is not issued. -/
def tbEndEn (b : Block) : Block :=
  safeCond (setF (setTbState { b with tb := { b.tb with holdTb := none } } 0) Reg.TB_STATUS 4 4 0) 12 0 false

/-- A write to TB_CTRL (R41, R45): SRC and DIR are judged by EN and STATE as they stood before it. A change of DIR puts the
frontier at the position, so no tick is held and REV_ACTIVE returns to 0 (R39, R40). -/
def tbCtrlWrite (w : Word) (b : Block) : Block :=
  let o := rg b Reg.TB_CTRL
  let en := o.bit 0
  let srcBad := en && (w.bit 1 != o.bit 1)
  let dirChg := w.bit 2 != o.bit 2
  let dirOk := decide (tbState b = 2 ∨ tbState b = 0)
  let src := if srcBad then o.bit 1 else w.bit 1
  let dir := if dirChg && !dirOk then o.bit 2 else w.bit 2
  let n := wd (w.fld 6 3 * 8 + b2n dir * 4 + b2n src * 2 + b2n (w.bit 0))
  let b := setRg b Reg.TB_CTRL n
  let b := if dirChg && dirOk then
      tbPublish (setF { linesAnew b with tb := { b.tb with frontier := posLine b, issued := none, holdTb := none, revDone := false } } Reg.TB_STATUS 4 4 0)
    else b
  let b := if srcBad || (dirChg && !dirOk) then tbCfgErr b 0x2000 else b
  if !en && w.bit 0 then tbStart b else if en && !w.bit 0 then tbEndEn b else b

end Sys2Proof.Machine
end

