-- ==== Sys2Proof/Machine/RachisBase.lean ====
section
/-! DEFINITION. Invocations (spec/02 R46 to R59): which ring entries they write, how a chaff-run writes them, how an
invocation completes, its window watchdog (spec/19 R449, R450), and how a unit is declared dead (spec/18 R428). -/

namespace Sys2Proof.Machine

/-! ## Which settings -/

/-- The sheaf now in progress (R30). -/
def curSheaf (b : Block) : Nat := sheafOf b.tb.tickLine

/-- R119: a parameter register of the generation in force at the tick of the first line of the sheaf of line `k`. -/
def lineGen (b : Block) (k a : Nat) : Word := if sheafGt b.regs.forceAt (sheafOf k) then prv b a else frc b a

/-- R119, R133: the parameter registers that an invocation for line `k` uses; a golden one those that the golden section holds. -/
def setReader (b : Block) (k : Nat) (gold : Bool) (a : Nat) : Word :=
  ((if gold then b.cfg.gold.bind (fun g => (g.sets.find? (fun e => e.1 = a)).map (·.2)) else none)).getD (lineGen b k a)

/-! ## Stages and lines -/

/-- The stages that an entry of the schedule or of an old bank has. -/
def allStages (b : Block) : List Nat := (b.sched.stages ++ b.cfg.old.flatMap (fun o => o.sched.stages)).eraseDups

/-- R426: the entries of a replaced partition serve only lines from the cutover sheaf on. -/
def newBankHolds (b : Block) (st k : Nat) : Bool :=
  b.cfg.old.all (fun o => match b.cfg.envs.find? (fun e => e.1 = o.part) with
    | some e => !(decide (e.2.stage.1 ≤ st ∧ st ≤ e.2.stage.2) && lineGt o.s k)
    | none => true)

/-! ## Outputs -/

/-- The invocation of a stage for line `k` that is still known to the rachis. -/
def findInv (b : Block) (st k : Nat) : Option Inv := b.seq.invs.find? (fun v => v.stage = st && v.line = k)

/-- The registers of the parameter set that ARG names for a vision engine of class `cls` (R118, R138, R160, R186). -/
def pipeSetRegs (cls arg : Nat) : List Nat :=
  let q := arg % 16
  let f := fun (base step n : Nat) => (upFrom 0 n).map (fun i => base + q * step + 4 * i)
  if cls = 1 then f 0x4000 0x20 4 else if cls = 2 then f 0x4800 0x10 2 else if cls = 3 then f 0x5000 0x20 6
  else if cls = 4 then f 0x5800 0x20 8 else if cls = 5 then f 0x6000 0x20 7 else []

/-- The set with which an invocation for line `k` begins. -/
def beginSet (b : Block) (e : Entry) (k : Nat) : List (Nat × Word) :=
  if e.kind = 0 then (pipeSetRegs (unitCls e.unit).1 e.arg).map (fun a => (a, setReader b k e.gold a)) else []

/-- A parameter register as an invocation uses it: as it began with it, else by its line. -/
def usedSet (b : Block) (st k : Nat) (gold : Bool) (a : Nat) : Word :=
  match ((findInv b st k).map Inv.set).getD [] |>.find? (fun e => e.1 = a) with
  | some e => e.2
  | none => setReader b k gold a

/-- The RIPE ring entries that an invocation writes (R52): ring and line, in output order. A task writes the entries of
every line it serves (R333), a golden one too: R65 ignores PERIOD_M1 only for the row in which the entry opens (DEDUCED, log
entry 40). A golden flow run writes no summary (R199). -/
def outEntries (b : Block) (sc : Sched) (st k : Nat) : List (RingRef × Nat) :=
  let e := sc.entry st
  let outs := (sc.outputs e).filter (fun o => !o.sync)
  ((upFrom 0 outs.length).zip outs).flatMap (fun io =>
    let o := io.2
    if e.kind = 1 then ((upFrom 0 e.period).reverse.map (fun i => (o.ring, lineSub k i)))
    else if e.kind ≠ 0 then [(o.ring, k)]
    else
      match (unitCls e.unit).1 with
      | 2 =>
        let p := pyrSetOf (usedSet b st k e.gold) (Reg.PY_SET_CFG (e.arg % 16))
        match (pyrExports p)[io.1]? with
        | some l => if e.gold ∨ (k + 2) % 2 ^ l = 0 then [(o.ring, k)] else []
        | none => []
      | 5 => if io.1 = 0 ∨ (k % 1024 = 1023 ∧ e.gold = false) then [(o.ring, k)] else []
      | _ => [(o.ring, k)])

/-- The signals of an invocation (R309): cell and increment. -/
def outSignals (sc : Sched) (st : Nat) : List (Nat × Nat) :=
  (sc.outputs (sc.entry st)).filterMap (fun o => if o.sync then some (o.ring.base % 4096, o.ring.count) else none)

/-- R52: the header words of a chaff-run's entry. -/
def chaffHdr (line : Nat) (gold susp : Bool) (cause origin : Nat) : List Word :=
  mkHdr line susp false gold 0 0#32 0 (some (cause, origin))

/-- R52: what a chaff-run writes, for `Later`. -/
def chaffPuts (b : Block) (sc : Sched) (st k : Nat) (gold susp : Bool) (cause : Nat) :
    List (Nat × List Word × Nat × Nat) :=
  (outEntries b sc st k).map (fun e => (e.1.addr e.2, chaffHdr e.2 gold susp cause st, e.1.flag0 e.2, e.1.count))

/-- The work of a chaff-run: entries, flags and signals at cycle `due`. -/
def chaffWork (b : Block) (sc : Sched) (st k due : Nat) (gold susp : Bool) (cause : Nat) : Later :=
  { due := due, stage := st, line := k, puts := chaffPuts b sc st k gold susp cause, sigs := outSignals sc st,
    post := none }

/-- Write one word of the Granary. -/
def grWord (b : Block) (a : Nat) (w : Word) : Block := grWords b a [w]

/-- Replace the chaff fields of the entry at `a`, keeping SETTINGS_TAG. -/
def remarkAt (b : Block) (a cause st : Nat) : Block :=
  grWord b (a + 12) (hdrW3 (Word.fld (rdWord b.mems.gran (a + 12)) 31 24) (some (cause, st)))

/-- Replace the chaff fields of every output entry of an invocation, keeping SETTINGS_TAG. -/
def remark (b : Block) (sc : Sched) (st k cause : Nat) : Block :=
  (outEntries b sc st k).foldl (fun b e => remarkAt b (e.1.addr e.2) cause st) b

/-- Set SUSPECT in every output entry of an invocation (R505). -/
def suspectOuts (b : Block) (sc : Sched) (st k : Nat) : Block :=
  (outEntries b sc st k).foldl (fun b e =>
    let a := e.1.addr e.2 + 4
    grWord b a (rdWord b.mems.gran a ||| 0x100000#32)) b

/-- Set the flags of every output entry and apply the signals (R48, R275). -/
def ripenOuts (b : Block) (sc : Sched) (st k : Nat) : Block :=
  let b := (outEntries b sc st k).foldl (fun b e => ringRipe b e.1 e.2) b
  let e := sc.entry st
  -- a lane or vision engine signals by itself, as its UNIT (R321 step 4, R330)
  (outSignals sc st).foldl (fun b p =>
    if e.kind = 0 then sendOp b 1 e.unit 0 p.1 (.signal p.2) else sendOp b 0 st k p.1 (.signal p.2)) b

/-! ## Invocations -/

/-- Change an invocation. -/
def updInv (b : Block) (st k : Nat) (f : Inv → Inv) : Block :=
  { b with seq := { b.seq with invs := b.seq.invs.map (fun v => if v.stage = st ∧ v.line = k then f v else v) } }

/-- The own mark of an invocation's outputs: OVERRUN once its slot has closed (R56), FENCED (R426). -/
def invOwn (v : Inv) : Option (Nat × Nat) :=
  ownMark (v.mark.map (fun c => (c, v.stage))) (if v.closed then some (2, v.stage) else none)

/-- Does an invocation's output carry SUSPECT by R505? -/
def invSuspect (b : Block) (v : Inv) : Bool := v.suspect || dipMarks b

/-! ## Declaring a unit dead (R428) -/

/-- Declare logical slot `slot` of class `cls` dead: its unit becomes FENCED, its epoch increments, it is unmapped. The
invocations in flight are ended in cycle d + 17. An unmapped slot is left alone (false). -/
def declareDead (b : Block) (cls slot : Nat) : Block × Bool :=
  match physOf b cls slot with
  | none => (b, false)
  | some p =>
    let u := unitOf b cls p
    let b := setUnit b cls p { u with st := 3, slot := 0x3F }
    let b := { b with cfg := { b.cfg with
      epochs := spPut (fun _ => 0) b.cfg.epochs (cls * 64 + slot) ((slotEpoch b cls slot + 1) % 256),
      waits := b.cfg.waits.filter (fun w => !decide (w.cls = cls ∧ w.slot = slot)) ++
        [⟨cls, slot, b.pwr.ccy, some b.pwr.ccy, p, false⟩],
      fences := b.cfg.fences ++ [(cls, slot, p, b.pwr.ccy)] } }
    let b := if cls = 0 then setRg b (Reg.TLR_ID p) (wd (4 * 2 ^ 16 + p * 256 + 0x3F)) else b
    (raise b 0xAB (cls * 64 + slot), true)

/-- R429: a receiver drops a packet of a fenced unit, by the slot whose epoch it carries. -/
def fenceDrop (b : Block) (cls slot : Nat) : Block :=
  raiseOnce (bump b Reg.CFG_CNT_FENCE_DROP 1) 0xAD (cls * 64 + slot) (cls * 64 + slot)

/-- Are the packets of a physical unit dropped? Its fabric port is closed while it is FENCED or being cleared (R428, R431), or the epoch
that they carry is not that of their slot (R429). The logical slot that they carry. -/
def portShut (b : Block) (cls phys : Nat) : Option Nat :=
  let u := unitOf b cls phys
  if u.st = 3 ∨ u.st = 5 ∨ (u.was ≠ 0x3F ∧ u.epoch ≠ slotEpoch b cls u.was) then some u.was else none

/-- The same of a tiller. -/
def fencedT (b : Block) (t : Nat) : Option Nat := portShut b 0 t

/-- What physical tiller `t` sends over the fabric, or receives by it (R428, R429). -/
def fenced (t : Nat) (f : Block → Block) (b : Block) : Block :=
  match fencedT b t with
  | some s => fenceDrop b 0 s
  | none => f b

/-- The physical unit that serves a UNIT code: class and number; lanes are their own units; shared units have none. -/
def unitPhys (b : Block) (u : Nat) : Option Nat :=
  let cs := unitCls u
  if cs.1 = 6 then some cs.2 else if cs.1 = 7 then some u else physOf b cs.1 cs.2

/-! ## The window watchdog (R449, R450) -/

/-- WMIN of a stage: that of the enabled slot that names it, else 0 (R449). -/
def wminOf (b : Block) (st : Nat) : Nat :=
  ((upFrom 0 64).find? (fun w => (frc b (Reg.SAFE_WD w)).bit 15 && (frc b (Reg.SAFE_WD w)).fld 11 0 = st)).elim 0
    (fun w => (frc b (Reg.SAFE_WD w)).fld 31 16)

/-- Consecutive violations of a stage. -/
def wdogRun (b : Block) (st : Nat) : Nat := spGet (fun _ => 0) b.safe.wdog st

/-- Set the run of a stage. -/
def setWdogRun (b : Block) (st n : Nat) : Block :=
  { b with safe := { b.safe with wdog := spPut (fun _ => 0) b.safe.wdog st n } }

/-- A window violation (R450). -/
def violation (b : Block) (sc : Sched) (st phys : Nat) (late : Bool) : Block :=
  let n := wdogRun b st + 1
  let ask := n = (frc b Reg.SAFE_CTRL).fld 13 12 + 1
  let b := setWdogRun (bump b Reg.SAFE_CNT_WDOG 1) st n
  let b := setRg b Reg.SAFE_WDOG_LAST (wd (b2n late * 2 ^ 31 + b2n (!late) * 2 ^ 30 + st % 4096))
  let b := raiseS b 0xB5 st ask
  let b := if ask then safeReq b 5 st else b
  let e := sc.entry st
  let cs := unitCls e.unit
  -- a TASK's unit is the tiller that runs it
  let cls := if e.kind = 1 then 0 else cs.1
  let slot := if e.kind = 1 then (if phys < 36 then slotOfT b phys else 0x3F) else cs.2
  if (frc b Reg.SAFE_CTRL).bit 8 ∧ cls < 6 ∧ slot < 0x3F then (declareDead b cls slot).1 else b

/-- The unit of an invocation: for a TASK the tiller on which it is current, else none (R335). -/
def invUnit (b : Block) (kind : Nat) (v : Inv) : Nat :=
  if kind = 1 then
    ((b.tlr.find? (fun e => match e.2.task with
      | some p => decide (p.stage = v.stage ∧ p.line = v.line)
      | none => false)).map Prod.fst).getD 0x3F
  else v.phys

/-- Does the entry at `a` carry an own mark of the stage that precedes WINNOW in R54: SAFE, FENCED or OVERRUN? -/
def ownFirst (b : Block) (st a : Nat) : Bool :=
  let h := rdWords b.mems.gran a 4
  hdrChaff h && decide (hdrOrigin h = st ∧ ownRank (hdrCause h) < ownRank 5)

/-- At the completion of an invocation that is not a chaff-run: the early check (R449). -/
def watchEarly (b : Block) (sc : Sched) (v : Inv) : Block :=
  let e := sc.entry v.stage
  if !e.safety then b
  else if b.pwr.ccy < v.openC + wminOf b v.stage then
    let b := violation b sc v.stage (invUnit b e.kind v) false
    putOff b { due := b.pwr.ccy + 1, stage := v.stage, line := v.line, sigs := [], post := none,
               puts := ((outEntries b sc v.stage v.line).filter (fun o => !ownFirst b v.stage (o.1.addr o.2))).map (fun o =>
                 (o.1.addr o.2 + 12, [hdrW3 ((rdWord b.mems.gran (o.1.addr o.2 + 12)).fld 31 24) (some (5, v.stage))],
                  o.1.flag0 o.2, 0)) }
  else if v.closed ∧ v.closeC + 1250 ≤ b.pwr.ccy then b
  else setWdogRun b v.stage 0

/-! ## Completion (R48, R56) -/

/-- An invocation completes: its outputs become ripe, its signals apply. A PIPE stage has written its headers itself; for
TASK and STREAM entries the rachis sets OVERRUN and SUSPECT (R56, R505). -/
def completeInv (b : Block) (st k : Nat) : Block :=
  match findInv b st k with
  | none => b
  | some v =>
    if v.done then b
    else
      let sc := schedFor b st k
      let byRachis := decide ((sc.entry st).kind = 1 ∨ (sc.entry st).kind = 2)
      let b := if byRachis then (match invOwn v with | some m => remark b sc st k m.1 | none => b) else b
      let b := if byRachis && invSuspect b v then suspectOuts b sc st k else b
      let b := ripenOuts b sc st k
      let b := updInv b st k (fun v => { v with done := true })
      watchEarly b sc v

/-- An invocation is ended by a rule other than its own completion (R56, R426, R428): entries, flags and signals at once,
with the given cause, unless an own mark that the invocation carries already precedes it (R54). -/
def endInvWith (b : Block) (st k cause : Nat) : Block :=
  match findInv b st k with
  | none => b
  | some v =>
    if v.done then b
    else
      let sc := schedFor b st k
      let c := ((ownMark (v.mark.map (fun c => (c, st))) (some (cause, st))).map Prod.fst).getD cause
      let b := doPuts b (chaffWork b sc st k b.pwr.ccy v.golden (invSuspect b v) c)
      updInv b st k (fun v => { v with done := true, mark := some c })

end Sys2Proof.Machine
end

