-- ==== Sys2Proof/Machine/Memory.lean ====
section
/-! DEFINITION. What the memories do beside holding bytes: GDDR6 places, regions and errors (spec/21 R480 to R491), errors
and scrubbing of the scratchpads and the Granary (spec/11 R252 to R256, R271 to R273), and the sending of link packets
(spec/17 R391 to R397). -/

namespace Sys2Proof.Machine

/-! ## GDDR6 -/

/-- Controller of an address (R480). -/
def gdCtrl (a : Nat) : Nat := bitsOf a 11 9 ^^^ bitsOf a 21 19

/-- Place of an address, as MEM_ECC_LAST holds it (R480, R493). -/
def gdLoc (a : Nat) : Nat :=
  gdCtrl a * 2 ^ 28 + bitsOf a 12 12 * 2 ^ 27 + (bitsOf a 14 13 ^^^ bitsOf a 23 22) * 2 ^ 25
  + (bitsOf a 16 15 ^^^ bitsOf a 25 24) * 2 ^ 23 + bitsOf a 33 19 * 32 + bitsOf a 18 17 * 8 + bitsOf a 8 6

/-- State of the 1 GiB region of an address (R490): 0 ON, 1 PENDING, 2 OFF, 3 FILLING. -/
def regionSt (b : Block) (r : Nat) : Nat := (rg b Reg.MEM_PD_STAT).fld (2 * r + 1) (2 * r)

/-- Does the region of an address refuse accesses (R490, R491)? -/
def regionRefuses (b : Block) (a : Nat) : Bool := decide (2 ≤ regionSt b (a / 2 ^ 30))

/-- Does some byte of `n` at `a` lie in a region that refuses accesses (R490, R491)? -/
def spanRefuses (b : Block) (a n : Nat) : Bool := decide (n ≠ 0) && (regionRefuses b a || regionRefuses b (a + n - 1))

/-- The staging region (R417). -/
def inStaging (a : Nat) : Bool := decide (0x3F8000000 ≤ a)

/-- Write bytes to GDDR6: a write cancels a queued write-back of the unit, and a whole-unit write ends its poison
(R484). -/
def gdStore (b : Block) (a : Nat) (l : List Byte) : Block :=
  let touched := fun (u : Nat) => decide (u * 64 < a + l.length ∧ a < (u + 1) * 64)
  let whole := fun (u : Nat) => decide (a ≤ u * 64 ∧ (u + 1) * 64 ≤ a + l.length)
  gdWr { b with mem := { b.mem with wback := b.mem.wback.filter (fun u => !touched u),
                                    poison := b.mem.poison.filter (fun u => !whole u) } } a l

/-- Bytes that a unit of the part other than the loader writes by itself: refused in a region that refuses accesses, and in the
staging region (R417, R490, R491). The second part: they were written. -/
def gdPut (b : Block) (a : Nat) (l : List Byte) : Block × Bool :=
  if spanRefuses b a l.length || inStaging (a + l.length - 1) then (b, false) else (gdStore b a l, true)

/-- After the bytes of some ranges (address, length) have been written together: a unit written whole is sound (R484). -/
def gdSettle (b : Block) (rs : List (Nat × Nat)) : Block :=
  let whole := fun (u : Nat) => (upFrom (64 * u) 64).all (fun a => rs.any (fun r => decide (r.1 ≤ a ∧ a < r.1 + r.2)))
  if rs = [] then b else { b with mem := { b.mem with poison := b.mem.poison.filter (fun u => !whole u) } }

/-- A unit is uncorrectable (R485). -/
def memUE (b : Block) (a : Nat) : Block :=
  orRg (raise (setRg (bump b Reg.MEM_CNT_UE 1) Reg.MEM_ECC_LAST (wd (2 ^ 31 + gdLoc a))) 0xC9 (gdCtrl a)) Reg.MEM_STATUS 2

/-- The words in error of the 64-byte unit at `a`, among those that returned in error by byte address. -/
def unitErrs (errs : List (Nat × EccStat)) (a : Nat) : List (Nat × EccStat) :=
  errs.filter (fun e => decide (e.1 / 64 = a / 64 ∧ e.2 ≠ .clean))

/-- A unit is delivered with `n` corrected words (R484): each counts, and the unit's write-back is queued. -/
def memCE (b : Block) (a n : Nat) : Block :=
  let b := setRg (bump b Reg.MEM_CNT_CE n) Reg.MEM_ECC_LAST (wd (gdLoc a))
  let b := orRg (raiseOnce b 0xC8 0 (gdCtrl a)) Reg.MEM_STATUS 1
  { b with mem := { b.mem with wback := b.mem.wback.filter (· ≠ a / 64) ++ [a / 64] } }

/-- Account for a read of the unit at `a` (R484, R485), with the 16-byte words of `errs` in error. The second result: it is
uncorrectable; its corrected words are then not counted (DEDUCED, log entry 31). -/
def memUnit (b : Block) (a : Nat) (errs : List (Nat × EccStat)) : Block × Bool :=
  let es := unitErrs errs a
  let crc := es.any (fun e => decide (e.2 = .crc))
  let words := (es.map (fun e => e.1 / 16)).eraseDups
  let b := if crc then bump b Reg.MEM_CNT_RCRC 1 else b
  if b.mem.poison.contains (a / 64) || crc || es.any (fun e => decide (e.2 = .uncorrectable)) then (memUE b a, true)
  else if es = [] then (b, false)
  else (memCE b a words.length, false)

/-- Account for a read of a unit of which one status is known. -/
def memStatus (b : Block) (a : Nat) (ecc : EccStat) : Block × Bool := memUnit b a [(a, ecc)]

/-- The units of the `n` bytes at `a` that a read has anything to account for, in ascending address. -/
def unitsOf (a n : Nat) (errs : List (Nat × EccStat)) (poison : List Nat) : List Nat :=
  sortBy (fun u w => decide (u < w))
    ((((errs.map (fun (e : Nat × EccStat) => e.1 / 64)) ++ poison).filter (fun u => decide (u * 64 < a + n ∧ a < (u + 1) * 64))).eraseDups)

/-- Account for a read of the units that hold the `n` bytes at `a`. The second result: one of them is uncorrectable. -/
def memSpan (b : Block) (a n : Nat) (errs : List (Nat × EccStat)) : Block × Bool :=
  (unitsOf a n errs b.mem.poison).foldl (fun r u => let q := memUnit r.1 (64 * u) errs; (q.1, r.2 || q.2)) (b, false)

/-- Do bytes `a` to `a + n - 1` lie in the GDDR6 window of context `c` (R486)? -/
def inCtxWin (b : Block) (c a n : Nat) : Bool :=
  decide ((frc b (Reg.MEM_CTX_GLO c)).fld 17 0 * 65536 ≤ a ∧ a + n ≤ ((frc b (Reg.MEM_CTX_GHI c)).fld 17 0 + 1) * 65536)

/-- A refused access (R486). -/
def memBound (b : Block) (c : Nat) : Block := raiseOnce (bump b Reg.MEM_CNT_BOUND 1) 0xCC 0 c

/-! ## Scratchpad words -/

/-- Place of a scratchpad address, as TLR_t_ECC_LAST holds it (R252, R279). -/
def spLoc (a : Nat) : Nat :=
  let w := bitsOf a 19 2
  let bank := bitsOf w 3 0 ^^^ bitsOf w 7 4 ^^^ bitsOf w 11 8 ^^^ bitsOf w 15 12
  let idx := bitsOf w 17 4
  (16 * bitsOf a 20 20 + bank) * 2 ^ 24 + idx / 64 * 2 ^ 16 + idx % 64

/-- Write whole words to a scratchpad: this cancels their scrubs (R255) and ends their poison (R256). -/
def spStore (b : Block) (t a : Nat) (l : List Byte) : Block :=
  let x := tl b t
  let touched := fun (w : Nat) => decide (w * 4 < a + l.length ∧ a < (w + 1) * 4)
  let whole := fun (w : Nat) => decide (a ≤ w * 4 ∧ (w + 1) * 4 ≤ a + l.length)
  spWr (setTl b t { x with scrub := x.scrub.filter (fun w => !touched w),
                           poison := x.poison.filter (fun w => !whole w) }) t a l

/-- Is the word at `a` poisoned (R256)? -/
def spPoisoned (b : Block) (t a : Nat) : Bool := (tl b t).poison.contains (a / 4)

/-- An uncorrectable scratchpad word (R255). -/
def spUE (b : Block) (t a : Nat) : Block :=
  raise (setRg (bump b (Reg.TLR_CNT_ECC_UE t) 1) (Reg.TLR_ECC_LAST t) (wd (2 ^ 31 + spLoc a))) 0x71 t

/-- Account for the status of a scratchpad word that is read (R255). The second result: it is uncorrectable. -/
def spStatus (b : Block) (t a : Nat) (ecc : EccStat) : Block × Bool :=
  if spPoisoned b t a ∨ ecc = .uncorrectable ∨ ecc = .crc then (spUE b t a, true)
  else if ecc = .corrected then
    let b := setRg (bump b (Reg.TLR_CNT_ECC_CE t) 1) (Reg.TLR_ECC_LAST t) (wd (spLoc a))
    let b := raiseOnce b 0x70 t t
    let x := tl b t
    (setTl b t { x with scrub := x.scrub.filter (· ≠ a / 4) ++ [a / 4] }, false)
  else (b, false)

/-- Words in error among the `n` bytes at `p`, in ascending address: those that are poisoned, and those of `errs`, the words
that returned in error by byte address. -/
def spErrs (b : Block) (t p n : Nat) (errs : List (Nat × EccStat)) : List (Nat × EccStat) :=
  let bad := (tl b t).poison
  let hit := fun (w : Nat) => decide (w * 4 < p + n ∧ p < (w + 1) * 4)
  sortBy (fun e f => decide (e.1 < f.1))
    ((bad.filter hit).map (fun w => (4 * w, EccStat.uncorrectable))
      ++ (errs.filter (fun e => hit (e.1 / 4) && !bad.contains (e.1 / 4))).map (fun e => (e.1 / 4 * 4, e.2)))

/-- Words in error among some ranges (address, length), each once. -/
def spErrsIn (b : Block) (t : Nat) (rs : List (Nat × Nat)) (errs : List (Nat × EccStat)) : List (Nat × EccStat) :=
  (spErrs b t 0 (2 ^ 21) errs).filter (fun e => rs.any (fun r => decide (e.1 < r.1 + r.2 ∧ r.1 < e.1 + 4)))

/-- Account for words in error that are read (R255). The second result: one of them is uncorrectable. -/
def spAccount (b : Block) (t : Nat) (l : List (Nat × EccStat)) : Block × Bool :=
  l.foldl (fun r e => let q := spStatus r.1 t e.1 e.2; (q.1, r.2 || q.2)) (b, false)

/-- Account for a read of `n` bytes at `p`. -/
def spRead (b : Block) (t p n : Nat) (errs : List (Nat × EccStat)) : Block × Bool := spAccount b t (spErrs b t p n errs)

/-- After the bytes of some ranges (address, length) have been written together (R255, R256): scrubs of the words touched are
cancelled; a word written whole is sound; one written in part was read first, and stays or becomes one that decodes as
uncorrectable where that read found it so. -/
def spSettle (b : Block) (t : Nat) (rs : List (Nat × Nat)) (errs : List (Nat × EccStat)) : Block :=
  let words := (rs.flatMap (fun r => if r.2 = 0 then [] else upFrom (r.1 / 4) ((r.1 + r.2 - 1) / 4 + 1 - r.1 / 4))).eraseDups
  let has := fun (a : Nat) => rs.any (fun r => decide (r.1 ≤ a ∧ a < r.1 + r.2))
  let whole := fun (w : Nat) => (upFrom (4 * w) 4).all has
  let b := (words.filter (fun w => !whole w)).foldl (fun b w =>
    let r := spRead b t (4 * w) 4 errs
    let x := tl r.1 t
    if r.2 then setTl r.1 t { x with poison := x.poison.filter (· ≠ w) ++ [w] } else r.1) b
  let x := tl b t
  setTl b t { x with scrub := x.scrub.filter (fun w => !words.contains w),
                     poison := x.poison.filter (fun w => !(words.contains w && whole w)) }

/-- Write bytes to a scratchpad in one store (R255, R256). -/
def spWrite (b : Block) (t a : Nat) (l : List Byte) (errs : List (Nat × EccStat)) : Block :=
  spSettle (spWr b t a l) t [(a, l.length)] errs

/-! ## Granary words -/

/-- Bank of a Granary address (R271). -/
def grBank (a : Nat) : Nat := bitsOf a 13 6 ^^^ bitsOf a 21 14

/-- Place of a Granary address, as GRN_ECC_LAST holds it; the row within a bank is G[25:16] (DESIGN CHOICE, log
entry 15). -/
def grLoc (a : Nat) : Nat := grBank a * 2 ^ 23 + bitsOf a 25 16 * 2 ^ 13

/-- Account for the status of a Granary word that is read (R273). The second result: it is uncorrectable. -/
def grStatus (b : Block) (a : Nat) (ecc : EccStat) : Block × Bool :=
  match ecc with
  | .clean => (b, false)
  | .corrected =>
    let b := setRg (bump b Reg.GRN_CNT_CE 1) Reg.GRN_ECC_LAST (wd (grLoc a))
    let b := orRg (raiseOnce b 0x75 0 (grBank a)) Reg.GRN_STATUS 1
    ({ b with mem := { b.mem with grScrub := b.mem.grScrub.filter (· ≠ a / 8) ++ [a / 8] } }, false)
  | _ =>
    let b := setRg (bump b Reg.GRN_CNT_UE 1) Reg.GRN_ECC_LAST (wd (2 ^ 31 + grLoc a))
    (orRg (raise b 0x76 (grBank a)) Reg.GRN_STATUS 2, true)

/-- Does the Granary word at `a` lie in one of some spans of bytes (address, length)? -/
def grIn (spans : List (Nat × Nat)) (a : Nat) : Bool :=
  spans.any (fun s => decide (s.1 < (a / 8 + 1) * 8 ∧ a / 8 * 8 < s.1 + s.2))

/-- Account for every word in error among those that a reader reads (R273): `spans` are the bytes it reads, `errs` the words
that returned in error. The second result: the uncorrectable ones. -/
def grErrs (b : Block) (spans : List (Nat × Nat)) (errs : List (Nat × EccStat)) : Block × List Nat :=
  errs.foldl (fun r e =>
    if grIn spans e.1 then (let q := grStatus r.1 e.1 e.2; (q.1, if q.2 then r.2 ++ [e.1] else r.2)) else r) (b, [])

/-- Scrub writes of tiller `t`, of the Granary where `t` is 36 (R255, R273): the queued write of the corrected word is made;
the bytes are already the corrected ones. -/
def scrubWrite (t a : Nat) (b : Block) : Block :=
  if t = 36 then { b with mem := { b.mem with grScrub := b.mem.grScrub.filter (· ≠ a / 8) } }
  else
    let x := tl b t
    setTl b t { x with scrub := x.scrub.filter (· ≠ a / 4) }

/-! ## Sending link packets (R391, R395 to R397) -/

/-- This device's number. -/
def devOf (b : Block) : Nat := b.pwr.devid

/-- Does the host port of this device take part in the system (R387)? Elsewhere what it asks of other devices has no effect. -/
def isHead (b : Block) : Bool := decide (devOf b = 0)

/-- State of link `l`: 0 DOWN, 1 TRAIN, 2 UP, 3 MISMATCH. There are four links. -/
def linkSt (b : Block) (l : Nat) : Nat := if l < 4 then (rg b Reg.LNK_STATUS).fld (2 * l + 1) (2 * l) else 0

/-- The virtual channel of a payload (R391). -/
def Payload.vc : Payload → Nat
  | .result .. | .glumeWr .. | .glumeData .. | .glumeRej .. => 1
  | .glumeRd .. => 2
  | .panicle .. => 3
  | _ => 0

/-- The output link towards a device: the primary route, or the alternate one where the primary link is not UP or is
still suspended (R394, R397). The second part: it is the alternate. -/
def outLink (b : Block) (dst : Nat) : Option (Nat × Bool) :=
  match b.links.route.find? (fun e => e.1 = dst) with
  | none => none
  | some (_, p, a) =>
    if linkSt b p = 2 ∧ b.links.alt.contains p = false then some (p, false)
    else if linkSt b a = 2 then some (a, true)
    else none

/-- Put a packet into the replay buffer of a link (R393). -/
def pushLink (b : Block) (l : Nat) (p : Packet) : Block :=
  bump { b with links := { b.links with
    replay := spPut (fun _ => []) b.links.replay l (spGet (fun _ => []) b.links.replay l ++ [p]) } } (Reg.LNK_L_CNT_PKT l) 1

/-- Forward a packet towards device `dst`; false where neither route is there. -/
def forwardPkt (b : Block) (dst : Nat) (p : Packet) : Block × Bool :=
  match outLink b dst with
  | none => (b, false)
  | some (l, alt) => (pushLink (if alt then bump b (Reg.LNK_L_CNT_REROUTE l) 1 else b) l p, true)

/-- The next sequence number of the triple (this device, `dst`, `vc`) (R395). -/
def nextSeq (b : Block) (dst vc : Nat) : Nat × Block :=
  let n := spGet (fun _ => 0) b.links.txSeq (dst * 4 + vc)
  (n, { b with links := { b.links with txSeq := spPut (fun _ => 0) b.links.txSeq (dst * 4 + vc) (n + 1) } })

/-- Numbers are known to be discarded: the next packet under key `k` names them (DESIGN CHOICE, log entry 65). -/
def addLost (b : Block) (k : Nat) (nums : List (Nat × Nat)) : Block :=
  { b with links := { b.links with
    lostTx := spPut (fun _ => []) b.links.lostTx k (spGet (fun _ => []) b.links.lostTx k ++ nums) } }

/-- What the next packet under key `k` names as discarded. -/
def takeLost (b : Block) (k : Nat) : List (Nat × Nat) × Block :=
  (spGet (fun _ => []) b.links.lostTx k,
   { b with links := { b.links with lostTx := spPut (fun _ => []) b.links.lostTx k [] } })

/-- A packet of this device to some devices: each of its triples gets its next number. -/
def mkPacket (b : Block) (dst : Nat) (dsts : List Nat) (body : Payload) : Packet × Block :=
  let vc := body.vc
  let p : Packet := { src := devOf b, dst := dst, vc := vc, nums := [], lost := [], relay := none, body := body }
  dsts.foldl (fun (r : Packet × Block) d =>
    let n := nextSeq r.2 d vc
    let k := takeLost n.2 (d * 4 + vc)
    ({ r.1 with nums := r.1.nums ++ [(d, n.1)], lost := r.1.lost ++ k.1 }, k.2)) (p, b)

/-- Discarded numbers of this device's own packets. -/
def noteLost (b : Block) (vc : Nat) (nums : List (Nat × Nat)) : Block :=
  nums.foldl (fun b n => addLost b (n.1 * 4 + vc) [n]) b

/-- An unreachability notice at the source device (R396). -/
def unreachHere (b : Block) (dst : Nat) : Block :=
  let b := orRg (bump b Reg.LNK_CNT_UNREACH 1) Reg.LNK_STATUS 0x40000
  let safe := (rg b Reg.LNK_CTRL).bit 8
  if b.once.contains (0xA4, dst) then b
  else
    let b := raiseS { b with once := b.once ++ [(0xA4, dst)] } 0xA4 dst safe
    if safe then safeReq b 16 dst else b

/-- Send a payload to another device (R395): false where it is unreachable from here, with the notice already taken. -/
def sendTo (b : Block) (dst : Nat) (body : Payload) : Block × Bool :=
  match outLink b dst with
  | none => (unreachHere b dst, false)
  | some _ =>
    let p := mkPacket b dst [dst] body
    forwardPkt p.2 dst p.1

/-- A device that discards a packet of another device tells it so (R396): what was discarded and its numbers. -/
def sendNotice (b : Block) (src dev what vc : Nat) (nums : List (Nat × Nat)) : Block :=
  match outLink b src with
  | none => b
  | some _ =>
    let p := mkPacket b src [src] (.unreach dev what vc nums)
    (forwardPkt p.2 src p.1).1

end Sys2Proof.Machine
end

