-- ==== Sys2Proof/Machine/Fabric.lean ====
section
/-! DEFINITION. What arrives from other devices at memories and cells: signals (spec/13 R314, R316), glume windows
(spec/11 R267, spec/17 R405) and panicles (spec/17 R406 to R408), and the broadcast tree of R402. -/

namespace Sys2Proof.Machine

/-- A signal or advance to a physical cell of device `dev` (R314): here, or in a packet. -/
def sendSync (b : Block) (src id k2 dev cellNo : Nat) (adv : Bool) (k : Int) (ctx : Nat) : Block :=
  if dev = devOf b then
    sendOp b src id k2 cellNo (if adv then .advance k.toNat else .signal k)
  else (sendTo b dev (.sync adv cellNo k ctx false)).1

/-- The window offset of the sync aperture for an operation on cell `k` of this device (R380). -/
def apertureAt (b : Block) (adv : Bool) (k : Nat) : Nat := 0x400000 + b2n adv * 2 ^ 20 + devOf b * 2 ^ 14 + k * 4

/-- A signal or advance that arrives by link (R316), at step 6 of R321: without permission check where it comes from the host
aperture, and then recorded as a write of that aperture (R475); else only where OWNER is the sender's context or SHARED is 1. -/
def arriveSync (b : Block) (from_ : Nat) (adv : Bool) (cellNo : Nat) (k : Int) (ctx : Nat) (host : Bool) : Block :=
  if host then
    queueOp (recHost b 3 (apertureAt b adv cellNo) (BitVec.ofInt 32 k) 15)
      ⟨6, b.now.via, 0, 5, 0, cellNo, if adv then .advance k.toNat else .signal k⟩
  else sendOp b 4 from_ 0 cellNo (if adv then .advanceBy ctx k.toNat else .signalBy ctx k)

/-- A notification that rides on glume data (R314): the virtual cell is translated in this device's table of the
context with the sender's number. -/
def arriveNotif (b : Block) (from_ ctx vid k : Nat) : Block :=
  let e := vtEntry b ctx vid
  if !e.bit 31 || !e.bit 20 then permErr b 4 from_ (e.fld 11 0)
  else sendSync b 4 from_ 0 (if e.bit 30 then e.fld 29 24 else devOf b) (e.fld 11 0) false k ctx

/-! ## Glume windows -/

/-- Bit `d` of group mask `g` (R403). -/
def inGroup (b : Block) (g d : Nat) : Bool :=
  if d < 32 then (frc b (Reg.LNK_GM_LO g)).bit d else (frc b (Reg.LNK_GM_HI g)).bit (d - 32)

/-- Does the window admit the request (R267)? -/
def glumeOk (b : Block) (t w off len : Nat) (write : Bool) (from_ : Nat) : Bool :=
  let c := frc b (Reg.TLR_GLUME_CTRL t w)
  c.bit 0 && (if write then c.bit 2 else c.bit 1) &&
    decide (off + len ≤ (frc b (Reg.TLR_GLUME_SIZE t w)).fld 21 6 * 64) &&
    (let src := c.fld 7 4
     decide (src = 0) || (decide (1 ≤ src ∧ src ≤ 8) && inGroup b (src - 1) from_))

/-- The outcome of a request at a glume window (R267, R510): the physical tiller and address, or the cause with which
the sender's descriptor becomes bad. -/
inductive Admit where
  | ok (t a : Nat)
  | rej (cause : Nat)
  deriving DecidableEq, Repr

/-- Judge a glume request. -/
def glumeAdmit (b : Block) (slot w off len : Nat) (write : Bool) (from_ : Nat) : Block × Admit :=
  match physOf b 0 slot with
  | none => (b, .rej 4)
  | some t =>
    if glumeOk b t w off len write from_ then
      let a := (frc b (Reg.TLR_GLUME_BASE t w)).fld 20 6 * 64 + off
      if !rangeOn b t a (a + len - 1) && decide (0 < len) then (bankOffEvt b t, .rej (if write then 5 else 1))
      else (b, .ok t a)
    else (raiseOnce (bump b (Reg.TLR_CNT_GLUME_REJ t) 1) 0x72 t t, .rej 4)

/-- A glume write arrives (R267, R405): data, then its notifications; a rejected one is answered. -/
def glumeWrite (b : Block) (from_ slot w off : Nat) (bytes : List Byte) (ctx : Nat) (notif : List (Nat × Nat))
    (rslot strm : Nat) (errs : List (Nat × EccStat)) : Block :=
  let r := if bytes = [] then (b, none) else
    (match glumeAdmit b slot w off bytes.length true from_ with
     | (b, .ok t a) => (spWrite b t a bytes errs, none)
     | (b, .rej c) => (b, some c))
  let b := notif.foldl (fun b n => arriveNotif b from_ ctx n.1 n.2) r.1
  match r.2 with
  | none => b
  | some c => (sendTo b from_ (.glumeRej rslot strm c)).1

/-- A glume read request arrives (R267, R405): the data or the rejection goes back. -/
def glumeRead (b : Block) (from_ slot w off len rslot strm : Nat) (errs : List (Nat × EccStat)) : Block :=
  match glumeAdmit b slot w off len false from_ with
  | (b, .rej c) => (sendTo b from_ (.glumeRej rslot strm c)).1
  | (b, .ok t a) =>
    let r := spRead b t a len errs
    if r.2 then (sendTo r.1 from_ (.glumeRej rslot strm 2)).1
    else (sendTo r.1 from_ (.glumeData rslot strm (spRd r.1 t a len))).1

/-! ## The tree of R402 -/

/-- System dimensions (R387). -/
def xDim (b : Block) : Nat := (rg b Reg.LNK_SYS).fld 8 6 + 1
def yDim (b : Block) : Nat := (rg b Reg.LNK_SYS).fld 11 9 + 1

/-- Steps from `r` to `p` round a ring of `n` in the positive direction. -/
def ringUp (n r p : Nat) : Nat := (p + n - r % n) % n

/-- Is `p` reached from `r` in the positive direction, the shorter one or, at a tie, + (R397)? -/
def viaPlus (n r p : Nat) : Bool := decide (2 * ringUp n r p ≤ n)

/-- Child links of device `d` in the tree rooted at `root`, pruned to the branches that lead to a device of `mask`. -/
def treeKids (X Y root d : Nat) (mask : Nat → Bool) : List Nat :=
  let rx := root % X; let ry := root / X; let x := d % X; let y := d / X
  let ux := ringUp X rx x; let uy := ringUp Y ry y
  let devs := upFrom 0 (X * Y)
  -- does some receiver lie beyond, along x on the root's ring or along y on this column?
  let xPlus := devs.any (fun e => mask e && viaPlus X rx (e % X) && decide (ux < ringUp X rx (e % X)))
  let xMinus := devs.any (fun e => mask e && !viaPlus X rx (e % X) && (decide (ux = 0) || decide (ringUp X rx (e % X) < ux)))
  let yPlus := devs.any (fun e => mask e && decide (e % X = x) && viaPlus Y ry (e / X) && decide (uy < ringUp Y ry (e / X)))
  let yMinus := devs.any (fun e => mask e && decide (e % X = x) && !viaPlus Y ry (e / X) &&
    (decide (uy = 0) || decide (ringUp Y ry (e / X) < uy)))
  (if y = ry ∧ viaPlus X rx x = true ∧ xPlus = true then [0] else [])
  ++ (if y = ry ∧ (ux = 0 ∨ viaPlus X rx x = false) ∧ xMinus = true then [1] else [])
  ++ (if viaPlus Y ry y = true ∧ yPlus = true then [2] else [])
  ++ (if (uy = 0 ∨ viaPlus Y ry y = false) ∧ yMinus = true then [3] else [])

/-- The device at the far end of link `l`. -/
def linkFar (b : Block) (l : Nat) : Nat :=
  let X := xDim b; let Y := yDim b
  let x := devOf b % X; let y := devOf b / X
  if l = 0 then y * X + (x + 1) % X
  else if l = 1 then y * X + (x + X - 1) % X
  else if l = 2 then (y + 1) % Y * X + x
  else (y + Y - 1) % Y * X + x

/-- Is device `d` reached through link `l` of this device in the tree of `root`? -/
def beyondLink (b : Block) (root l d : Nat) : Bool :=
  (treeKids (xDim b) (yDim b) root (devOf b) (fun e => decide (e = d))).contains l

/-- The numbers that a tree packet carries or names for the devices that its tree reaches through link `l` of this device. -/
def numsBeyond (b : Block) (l : Nat) (p : Packet) : List (Nat × Nat) :=
  (p.nums ++ p.lost).filter (fun n => beyondLink b p.src l n.1)

/-- A tree packet that cannot go by link `l` is lost beyond it; its source learns of it (R396). -/
def treeLost (b : Block) (l : Nat) (p : Packet) : Block :=
  let nums := numsBeyond b l p
  if p.src = devOf b then unreachHere (noteLost b p.vc nums) (linkFar b l)
  else sendNotice b p.src (linkFar b l) 0 p.vc nums

/-- A packet of a tree leaves by link `l`; where that link is not to be used it goes to its far end by the routes (R394), or
is lost. -/
def treePush (b : Block) (l : Nat) (p : Packet) : Block :=
  if linkSt b l = 2 ∧ b.links.alt.contains l = false then pushLink b l p
  else match outLink b (linkFar b l) with
    | some (o, _) => pushLink (bump b (Reg.LNK_L_CNT_REROUTE o) 1) o { p with relay := some (linkFar b l) }
    | none => treeLost b l p

/-- Packets in the VC3 queue of a link, bytes in the local queue of a panicle (R407). -/
def vcqOf (b : Block) (l : Nat) : Nat := spGet (fun _ => 0) b.links.vcq l
def pnqOf (b : Block) (p : Nat) : Nat := spGet (fun _ => 0) b.links.pnq p

/-- The queues of R407 have passed on what a command says. -/
def drainQueues (g : Drained) (b : Block) : Block :=
  let less := fun (m : List (Nat × Nat)) (e : Nat × Nat) => spPut (fun _ => 0) m e.1 (spGet (fun _ => 0) m e.1 - e.2)
  { b with links := { b.links with vcq := g.links.foldl less b.links.vcq, pnq := g.pans.foldl less b.links.pnq } }

/-- What the next packet through link `l` of the tree of `root` names as discarded: numbers for the devices to which it goes itself. -/
def takeTreeLost (b : Block) (root l : Nat) (nums : List (Nat × Nat)) : List (Nat × Nat) × Block :=
  let k := 256 + root * 4 + l
  let all := spGet (fun _ => []) b.links.lostTx k
  let mine := fun (n : Nat × Nat) => nums.any (fun m => decide (m.1 = n.1))
  (all.filter mine, { b with links := { b.links with
    lostTx := spPut (fun _ => []) b.links.lostTx k (all.filter (fun n => !mine n)) } })

/-- A packet of a panicle goes to child link `l`, where its queue has a place (R407); the next packet there names what was missed. -/
def panicleForward (p : Packet) (b : Block) (l : Nat) : Block :=
  if 32 ≤ vcqOf b l then addLost b (256 + p.src * 4 + l) (numsBeyond b l p)
  else
    let q := takeTreeLost b p.src l p.nums
    let b := q.2
    let b := if linkSt b l = 2 ∧ b.links.alt.contains l = false then
        { b with links := { b.links with vcq := spPut (fun _ => 0) b.links.vcq l (vcqOf b l + 1) } } else b
    treePush b l { p with lost := p.lost ++ q.1 }

/-- A tree packet goes to the child links that lead to a device of `mask`. -/
def treeForward (b : Block) (p : Packet) (mask : Nat → Bool) : Block :=
  (treeKids (xDim b) (yDim b) p.src (devOf b) mask).foldl (fun b l =>
    if p.vc = 3 then panicleForward p b l else treePush b l p) b

/-! ## Panicles -/

/-- State of this device's receiver of panicle `p`. -/
def pnSt (b : Block) (p : Nat) : PnState := spGet (fun _ => PnState.init) b.links.pn p

/-- Write it. -/
def setPn (b : Block) (p : Nat) (x : PnState) : Block :=
  { b with links := { b.links with pn := spPut (fun _ => PnState.init) b.links.pn p x } }

/-- The panicle entry of the system section (R406). -/
def panicleOf (b : Block) (p : Nat) : Option Panicle := (b.links.pans.find? (fun e => e.1 = p)).map (·.2)

/-- The receiver is dropped for the rest of the sheaf (R408). -/
def pnDrop (b : Block) (p : Nat) : Block :=
  let x := pnSt b p
  if x.dropped then b
  else
    let b := setF (setPn b p { x with dropped := true }) (Reg.LNK_PN_STAT p) 31 31 1
    raise (orRg (bump b Reg.LNK_CNT_MC_DROP 1) Reg.LNK_STATUS 0x20000) 0xA5 p

/-- Where a panicle packet comes from: SRC, SRC_ID and second key of its signals (R321, R330), and the sender's context. -/
structure PnFrom where
  src : Nat
  id  : Nat
  k2  : Nat
  ctx : Nat
  deriving DecidableEq, Repr

/-- The signals of a panicle packet (R316, R406, R408): one for each notification that rides on it, each admitted as any that
carries its sender's context; `bad` marks the end of a spoiled transfer. -/
def pnSignals (b : Block) (p : Nat) (g : Panicle) (incs : List Nat) (f : PnFrom) (bad : Bool) : Block :=
  let b := incs.foldl (fun b k => sendOp b f.src f.id f.k2 g.cell (.pnSignal p f.ctx (some k))) b
  if bad then sendOp b f.src f.id f.k2 g.cell (.pnSignal p f.ctx none) else b

/-- The payload of a panicle packet goes through the local queue and the window (R407, R267). The second part: the cause with which
the window rejects it. -/
def pnWrite (b : Block) (p : Nat) (g : Panicle) (off : Nat) (bytes : List Byte) (errs : List (Nat × EccStat)) :
    Block × Option Nat :=
  let b := { b with links := { b.links with pnq := spPut (fun _ => 0) b.links.pnq p (pnqOf b p + bytes.length) } }
  match glumeAdmit b g.slot g.win off bytes.length true g.root with
  | (b, .ok t a) => (spWrite b t a bytes errs, none)
  | (b, .rej c) => (b, some c)

/-- Local delivery of a panicle packet (R407, R408): a payload that finds no place in the local queue drops the receiver. The second
part: the cause with which the window rejects the payload. -/
def pnDeliver (b : Block) (p : Nat) (g : Panicle) (off : Nat) (bytes : List Byte) (first last : Bool) (incs : List Nat)
    (f : PnFrom) (errs : List (Nat × EccStat)) : Block × Option Nat :=
  let payload := !bytes.isEmpty
  let b := if payload && decide (4096 < pnqOf b p + bytes.length) then pnDrop b p else b
  let x := pnSt b p
  let skip := x.dropped || (!first && x.spoilT)
  let r := if payload && !skip then pnWrite b p g off bytes errs else (b, none)
  let b := r.1
  let spoiled := (if first then false else x.spoilT) || (payload && skip)
  let bad := last && spoiled
  let b := pnSignals b p g incs f bad
  let x := pnSt b p
  let b := setPn b p { x with spoilT := if last then false else spoiled }
  (if bad then bumpSat b (Reg.LNK_PN_STAT p) 15 0 else b, r.2)

/-- A panicle packet of this device, its root, of slot `strm` of logical tiller `rslot`: forwarded to the receivers, then delivered
here where this device is one (R406, R407). The second part: the cause with which the own window rejects it. -/
def panicleSend (b : Block) (p off : Nat) (bytes : List Byte) (first last : Bool) (incs : List Nat) (f : PnFrom)
    (rslot strm : Nat) (errs : List (Nat × EccStat)) : Block × Option Nat :=
  match panicleOf b p with
  | none => (b, none)
  | some g =>
    let q := mkPacket b 64 ((upFrom 0 (xDim b * yDim b)).filter (fun d => nbit g.mask d && decide (d ≠ devOf b)))
      (.panicle p off bytes first last incs f.ctx rslot strm)
    let b := treeForward q.2 q.1 (nbit g.mask)
    if nbit g.mask (devOf b) then pnDeliver b p g off bytes first last incs f errs else (b, none)

/-- A panicle packet whose turn has come at a receiver; one that its window rejects is answered (R267, R405). -/
def panicleHere (b : Block) (p off : Nat) (bytes : List Byte) (first last : Bool) (incs : List Nat) (f : PnFrom)
    (rslot strm : Nat) (errs : List (Nat × EccStat)) : Block :=
  match panicleOf b p with
  | none => b
  | some g =>
    if nbit g.mask (devOf b) then
      match pnDeliver b p g off bytes first last incs f errs with
      | (b, none) => b
      | (b, some c) => (sendTo b f.id (.glumeRej rslot strm c)).1
    else b

end Sys2Proof.Machine
end

