-- ==== Sys2Proof/Machine/Operands.lean ====
section
/-! DEFINITION. What every firmware instruction of a tiller rests on: core and vector registers, task windows (spec/11
R261, R262), the scoreboard (R257, R258), tiller faults (spec/09 R222, spec/12 R302, R305) and the issue of an
instruction. Fault causes: 1 ILLEGAL, 2 BOUND, 3 ALIGN, 4 ARRAY_DESC, 5 PATCH_ARG, 6 ECC_UE, 7 CHAIN_TAG. -/

namespace Sys2Proof.Machine

/-! ## Registers of a tiller -/

/-- Lane `l` of vector register `r`. -/
def vLane (x : Tiller) (r l : Nat) : Word := tabW x.v (r % 32 * 64 + l)

/-- The 64 lanes of a vector register. -/
def vRead (x : Tiller) (r : Nat) : List Word := (upFrom 0 64).map (vLane x r)

/-- Is lane `l` enabled by the active mask? -/
def vOn (x : Tiller) (l : Nat) : Bool := nbit x.mask l

/-- Write lanes of a vector register from a list of (lane, value). -/
def vWrite (x : Tiller) (r : Nat) (l : List (Nat × Word)) : Tiller :=
  { x with v := l.foldl (fun v e => spPut (fun _ => 0#32) v (r % 32 * 64 + e.1) e.2) x.v }

/-- Accumulator row `m`, column `n`. -/
def accAt (x : Tiller) (m n : Nat) : Word := tabW x.acc (m * 64 + n)

/-! ## Task windows -/

/-- Physical address of the `n` bytes at task address `a` under a pair of windows (R261); none beyond the window. -/
def taskAddr (awin cwin : Word) (a n : Nat) : Option Nat :=
  let cls := a / 2 ^ 20 % 2
  let w := if cls = 1 then cwin else awin
  let o := a % 2 ^ 20
  if o + n ≤ (w.fld 29 16 + 1) * 64 then some (cls * 2 ^ 20 + w.fld 13 0 * 64 + o) else none

/-- The windows of the current task. -/
def curAwin (b : Block) (t : Nat) : Word := rg b (Reg.TLR_TASK_AWIN t)
def curCwin (b : Block) (t : Nat) : Word := rg b (Reg.TLR_TASK_CWIN t)

/-- Context of the current task. -/
def curCtx (b : Block) (t : Nat) : Option Nat := (tl b t).task.map Posted.ctx

/-- Is a context real-time (R323)? -/
def isRt (b : Block) (c : Nat) : Bool := (rg b (Reg.SYNC_CTX_CFG c)).bit 31

/-! ## The scoreboard -/

/-- Does an access conflict with an entry of another owner (R258)? -/
def sbHit (sb : List SbEntry) (own : Option SbOwner) (lo hi : Nat) (write : Bool) : Bool :=
  sb.any (fun e => decide (some e.owner ≠ own) && (write || e.write) && decide (lo ≤ e.hi ∧ e.lo ≤ hi))

/-- An entry on bytes `lo` to `hi`, rounded outward to 64 (R257). -/
def sbEntry (lo hi : Nat) (write : Bool) (o : SbOwner) : SbEntry := ⟨lo / 64 * 64, hi / 64 * 64 + 63, write, o⟩

/-- Release the entries of an owner. -/
def sbFree (x : Tiller) (o : SbOwner) : Tiller := { x with sb := x.sb.filter (fun e => e.owner ≠ o) }

/-- An instruction is held at issue. -/
def holdAt (b : Block) (t : Nat) (why : Stall) : Block := setTl b t { tl b t with stall := some why }

/-- Try to create entries: conflict and room are checked for all of them (R258); none where the instruction stalls. -/
def sbAdd (b : Block) (t : Nat) (es : List SbEntry) : Option Block :=
  let x := tl b t
  if es.any (fun e => sbHit x.sb (some e.owner) e.lo e.hi e.write) then none
  else if 32 < x.sb.length + es.length then none
  else some (setTl b t { x with sb := x.sb ++ es })

/-- The stall that refused entries mean. -/
def sbRefused (b : Block) (t : Nat) (es : List SbEntry) : Block :=
  holdAt b t (if es.any (fun e => sbHit (tl b t).sb (some e.owner) e.lo e.hi e.write) then .conflict else .full)

/-! ## Stream slots and bad descriptors (R302) -/

/-- Stream slot `s` of a tiller. -/
def slotOf (x : Tiller) (s : Nat) : StrmSlot := spGet (fun _ => StrmSlot.init) x.slots s

/-- Write a stream slot. -/
def setSlot (b : Block) (t s : Nat) (v : StrmSlot) : Block :=
  let x := tl b t
  setTl b t { x with slots := spPut (fun _ => StrmSlot.init) x.slots s v }

/-- KIND and CHAN of a descriptor; its channel key: 0 to 7 read, 8 to 15 write. -/
def dKind (d : List Word) : Nat := (wAt d 0).fld 31 28
def dChan (d : List Word) : Nat := (if dKind d = 3 then 8 else 0) + (wAt d 0).fld 21 19

/-- Slots queued on a channel, the active one first. -/
def chanOf (x : Tiller) (ch : Nat) : List Nat := spGet (fun _ => []) x.chans ch

/-- DMA_t_CHSTAT follows the channels: 0 IDLE, 1 ACTIVE, 2 HALTED. -/
def chStat (b : Block) (t : Nat) : Block :=
  let x := tl b t
  setRg b (Reg.DMA_CHSTAT t) (wd ((upFrom 0 16).foldl (fun n ch =>
    n + (match chanOf x ch with
      | [] => 0
      | s :: _ => match (slotOf x s).state with
        | .halted => 2
        | .active => 1
        | _ => 0) * 4 ^ ch) 0))

/-- Take a slot out of its channel. -/
def dequeue (b : Block) (t s : Nat) : Block :=
  let x := tl b t
  let ch := dChan (slotOf x s).desc
  chStat (setTl b t { x with chans := spPut (fun _ => []) x.chans ch ((chanOf x ch).filter (· ≠ s)) }) t

/-! ## Notifications (R294, R314, R319) -/

/-- The notification of a stream slot: a signal of INC_M1 + 1 to CELL in the table of the arming context (R314,
R315). -/
def notify (b : Block) (t : Nat) (v : StrmSlot) : Block :=
  let w1 := wAt v.desc 1
  let e := vtEntry b v.ctx (w1.fld 9 0)
  let k := w1.fld 29 24 + 1
  let id := slotOfT b t
  if !e.bit 31 || !e.bit 20 then permErr b 3 id (e.fld 11 0)
  else sendSync b 3 id (dChan v.desc) (if e.bit 30 then e.fld 29 24 else devOf b) (e.fld 11 0) false k v.ctx

/-- A panicle packet of the own device: its signals are those of a DMA notification (R321 step 5). -/
def pnOwn (b : Block) (t : Nat) (v : StrmSlot) : PnFrom := ⟨3, slotOfT b t, dChan v.desc, v.ctx⟩

/-- Apply the notifications that have not been applied (R302). For a GLUME destination they ride on packets that will
not be sent; they are then applied through a packet of their own with no data. -/
def notifyRest (b : Block) (t s : Nat) : Block :=
  let v := slotOf (tl b t) s
  let w1 := wAt v.desc 1
  let isGl := dKind v.desc = 3 ∧ (wAt v.desc 17).fld 31 28 = 5
  let n := b2n (w1.bit 30 && !v.half) + b2n (w1.bit 31 && !v.full)
  let b := setSlot b t s { v with half := true, full := true }
  if isGl then
    (if n = 0 then b
     else
      let hi := (wAt v.desc 17).fld 15 0
      let lo := (wAt v.desc 16).toNat
      let rest := List.replicate n (w1.fld 9 0, w1.fld 29 24 + 1)
      if nbit hi 15 then
        (panicleSend b (bitsOf hi 11 8) 0 [] false true (List.replicate n (w1.fld 29 24 + 1)) (pnOwn b t v) (slotOfT b t) s []).1
      else if bitsOf hi 5 0 = devOf b then (upFrom 0 n).foldl (fun b _ => notify b t v) b
      else (sendTo b (bitsOf hi 5 0) (.glumeWr (bitsOf lo 29 24) (bitsOf lo 22 21) 0 [] v.ctx rest (slotOfT b t) s)).1)
  else (upFrom 0 n).foldl (fun b _ => notify b t v) b

/-- Mark the descriptor of a slot bad (R302). -/
def markBad (b : Block) (t s cause : Nat) : Block :=
  let v := slotOf (tl b t) s
  let b := setTl b t (sbFree (tl b t) (.stream s))
  let b := notifyRest (dequeue b t s) t s
  let v' := slotOf (tl b t) s
  let b := setSlot b t s { v' with state := .bad, cause := cause, chain := none, asked := [] }
  let b := bump b (Reg.DMA_CNT_BAD t) 1
  let b := setRg b (Reg.DMA_LAST_BAD t)
    (wd (cause * 2 ^ 28 + s * 256 + b2n (decide (dKind v.desc = 3)) * 16 + (wAt v.desc 0).fld 21 19))
  let b := raiseOnce b 0x78 t t
  -- a chain transfer that its head can no longer feed is given up
  chStat { b with chains := b.chains.filter (fun ch => !(decide (ch.head = slotOfT b t) && decide (v.chain = some ch.tag))) } t

/-- Is a slot queued, active or halted? -/
def StrmSlot.inFlight (v : StrmSlot) : Bool := decide (v.state = .queued ∨ v.state = .active ∨ v.state = .halted)

/-- R305: at a fault every descriptor in flight is stopped and marked bad with cause ABORTED, and every persistent and
LOCAL slot is disarmed. -/
def haltStreams (b : Block) (t : Nat) : Block :=
  let ss := (tl b t).slots.map Prod.fst
  let b := ss.foldl (fun b s => if (slotOf (tl b t) s).inFlight then markBad b t s 7 else b) b
  ss.foldl (fun b s =>
    let v := slotOf (tl b t) s
    if (wAt v.desc 0).bit 27 ∨ dKind v.desc < 2 then setSlot (setTl b t (sbFree (tl b t) (.stream s))) t s StrmSlot.init else b) b

/-! ## Tiller faults (R222) -/

/-- Set TLR_t_ID.STATE: 0 OFF, 1 PULL, 2 RUN, 3 FAULT, 4 FENCED, 5 SPARE. -/
def setTState (b : Block) (t v : Nat) : Block := setF b (Reg.TLR_ID t) 18 16 v

/-- TLR_t_ID.STATE. -/
def tState (b : Block) (t : Nat) : Nat := (rg b (Reg.TLR_ID t)).fld 18 16

/-- The array discards its operations (R222). -/
def dropArray (b : Block) (t : Nat) : Block :=
  let x := tl b t
  let ids := (x.run.toList ++ x.pend.toList).map (fun o => SbOwner.array o.id)
  setTl b t { x with run := none, pend := none, sb := x.sb.filter (fun e => !ids.contains e.owner) }

/-- A tiller fault (R222): the handler is entered with the cause in x5; what the current task had under way stops. -/
def tFault (b : Block) (t cause pc : Nat) : Block :=
  let b := haltStreams (dropArray b t) t
  let x := tl b t
  let b := setTl b t { x with blocked := .none, woken := none, handler := true, stall := none }
  let b := setX b t 5 (wd cause)
  let b := setRg (setRg b (Reg.TLR_FAULT t) (wd cause)) (Reg.TLR_FAULT_PC t) (wd pc)
  raise (setTState (bump b (Reg.TLR_CNT_FAULT t) 1) t 3) 0x68 t

/-- A BOUND fault for a bank group that is not powered (R510). -/
def tBankFault (b : Block) (t pc : Nat) : Block := tFault (bankOffEvt b t) t 2 pc

/-! ## Issue -/

/-- Can the control core of tiller `t` issue an instruction: it is in service, blocked in none and holds
none? -/
def coreReady (b : Block) (t : Nat) : Bool :=
  decide (t < 36) && decide (1 ≤ tState b t ∧ tState b t ≤ 3) && decide ((tl b t).blocked = .none) && (tl b t).stall.isNone

/-- Issue an instruction at address `pc`: a fetch beyond the loaded image faults BOUND (R262). -/
def issue (b : Block) (t pc : Nat) (f : Block → Block) : Block :=
  if coreReady b t then
    if (tl b t).imgLen ≤ (rg b (Reg.TLR_TASK_KBASE t)).fld 15 2 * 4 + pc then tFault b t 2 pc else f b
  else b

/-- What the bound, alignment, power and scoreboard checks say of a core-class access (R251, R254, R258, R261, R510). -/
inductive Acc where
  | ok (p : Nat)
  | fault (cause : Nat)
  | bankOff
  | stall
  deriving DecidableEq, Repr

/-- Check `n` bytes at task address `a`, to be aligned to `al`. The bound check comes before the alignment check (DESIGN
CHOICE, log entry 16). -/
def coreAcc (b : Block) (t a n al : Nat) (write : Bool) : Acc :=
  match taskAddr (curAwin b t) (curCwin b t) a n with
  | none => .fault 2
  | some p =>
    if a / 2 ^ 20 % 2 = 0 then .fault 2
    else if a % al ≠ 0 then .fault 3
    else if !rangeOn b t p (p + n - 1) then .bankOff
    else if sbHit (tl b t).sb none p (p + n - 1) write then .stall
    else .ok p

/-- Run `f` on the physical address of a range that passes its checks; fault or stall otherwise. -/
def withRange (b : Block) (t pc a n al : Nat) (write : Bool) (f : Nat → Block) : Block :=
  match coreAcc b t a n al write with
  | .fault c => tFault b t c pc
  | .bankOff => tBankFault b t pc
  | .stall => holdAt b t .conflict
  | .ok p => f p

/-- Read `n` bytes at physical address `p` by the core or the vector port: an uncorrectable word faults ECC_UE (R255). -/
def coreRd (b : Block) (t pc p n : Nat) (errs : List (Nat × EccStat)) (f : Block → Block) : Block :=
  let r := spRead b t p n errs
  if r.2 then tFault r.1 t 6 pc else f r.1

/-- The same for a range that is read whole. -/
def withRead (b : Block) (t pc a n al : Nat) (errs : List (Nat × EccStat)) (f : Block → Nat → Block) : Block :=
  withRange b t pc a n al false (fun p => coreRd b t pc p n errs (fun b => f b p))

/-- Read `n` words of a scratchpad. -/
def spWords (b : Block) (t p n : Nat) : List Word := rdWords b.mems.spad (t * 2 ^ 21 + p) n

end Sys2Proof.Machine
end

