-- ==== Sys2Proof/Machine/Pattern.lean ====
section
/-! DEFINITION. Stream patterns (spec/12 R283, R284, R287, R288): how a descriptor enumerates its elements, where each
lies, and the ranges that a side can touch. -/

namespace Sys2Proof.Machine

/-- One dimension of a pattern block. -/
structure PDim where
  stride : Int
  cnt    : Nat
  lo     : Nat
  hi     : Nat
  deriving DecidableEq, Repr

/-- A pattern block (R283). -/
structure Pat where
  addr  : Nat
  space : Nat
  dims  : List PDim
  deriving DecidableEq, Repr

/-- Read the pattern block that begins at word `o`. -/
def patAt (d : List Word) (o : Nat) : Pat :=
  { addr := (wAt d (o + 1)).fld 15 0 * 2 ^ 32 + (wAt d o).toNat,
    space := (wAt d (o + 1)).fld 31 28,
    dims := (upFrom 0 5).map (fun k =>
      let w := wAt d (o + 3 + 2 * k)
      { stride := (wAt d (o + 2 + 2 * k)).s32, cnt := w.fld 15 0 + 1, lo := w.fld 23 16, hi := w.fld 31 24 }) }

/-- The source and destination patterns. -/
def srcPat (d : List Word) : Pat := patAt d 4
def dstPat (d : List Word) : Pat := patAt d 16

/-- Bits of an element (ESIZE). -/
def eBits (d : List Word) : Nat :=
  let e := (wAt d 0).fld 18 16
  if e = 0 then 4 else if e = 1 then 8 else if e = 2 then 12 else if e = 3 then 16 else 32

/-- Is dimension 0 packed (R284)? -/
def ePacked (d : List Word) : Bool := decide (eBits d % 8 ≠ 0)

/-- The gather or scatter dimension of a side: `dst` asks for the destination. -/
def gDim (d : List Word) (dst : Bool) : Option Nat :=
  let g := (wAt d 0).fld 25 23
  if g < 5 ∧ (wAt d 0).bit 22 = dst then some g else none

/-- Index entries. -/
def nIdx (d : List Word) : Nat := (wAt d 29).fld 15 0 + 1

/-- Dimension `k` of a pattern. -/
def Pat.dim (p : Pat) (k : Nat) : PDim := (p.dims[k]?).getD ⟨0, 1, 0, 0⟩

/-- Positions along dimension `k`. -/
def dimLen (d : List Word) (p : Pat) (g : Option Nat) (k : Nat) : Nat :=
  if g = some k then nIdx d else (p.dim k).cnt + (p.dim k).lo + (p.dim k).hi

/-- Elements of a side. -/
def patCount (d : List Word) (p : Pat) (g : Option Nat) : Nat :=
  (upFrom 0 5).foldl (fun n k => n * dimLen d p g k) 1

/-- The five positions of element `e`, dimension 0 fastest. -/
def positions (d : List Word) (p : Pat) (g : Option Nat) (e : Nat) : List Nat :=
  ((upFrom 0 5).foldl (fun (acc : List Nat × Nat) k =>
    let n := dimLen d p g k
    (acc.1 ++ [acc.2 % n], acc.2 / n)) ([], e)).1

/-- Where an element lies: padding, an index out of range, or the byte address and the bit within it. -/
inductive Elem where
  | pad
  | oor
  | at_ (addr : Int) (bit : Nat)
  deriving DecidableEq, Repr

/-- Element `e` of a side (R284, R288). `idx` gives the index at a position. -/
def elemAt (d : List Word) (p : Pat) (g : Option Nat) (idx : Nat → Int) (base : Nat) (e : Nat) : Elem :=
  let ps := positions d p g e
  let run := fun k => ((((ps[k]?).getD 0 : Nat) : Int) - ((p.dim k).lo : Nat))
  let j := fun k => if g = some k then idx ((ps[k]?).getD 0) else run k
  let inside := fun k => decide (0 ≤ j k ∧ j k < ((p.dim k).cnt : Nat))
  if (upFrom 0 5).any (fun k => decide (g ≠ some k) && !inside k) then .pad
  else if (upFrom 0 5).any (fun k => decide (g = some k) && !inside k) then .oor
  else
    let packed := ePacked d
    let off := (upFrom 0 5).foldl (fun (s : Int) k => if packed && decide (k = 0) then s else s + j k * (p.dim k).stride) 0
    let bits := if packed then (j 0).toNat * eBits d else 0
    .at_ ((base : Int) + off + ((bits / 8 : Nat) : Int)) (bits % 8)

/-- Bytes that an element at bit `bit` occupies. -/
def eSpan (d : List Word) (bit : Nat) : Nat := (bit + eBits d + 7) / 8

/-- Lowest and highest byte that the data of a side can touch, from a base address (R257). -/
def patBounds (d : List Word) (p : Pat) (base : Nat) : Int × Int :=
  let packed := ePacked d
  let r := (upFrom 0 5).foldl (fun (r : Int × Int) k =>
    if packed && decide (k = 0) then r
    else
      let m := (p.dim k).stride * (((p.dim k).cnt - 1 : Nat) : Int)
      (r.1 + min 0 m, r.2 + max 0 m)) ((base : Int), (base : Int))
  let last := if packed then ((p.dim 0).cnt * eBits d + 7) / 8 else eBits d / 8
  (r.1, r.2 + (last : Int) - 1)

/-- The write-pattern test of R287. -/
def writeOk (d : List Word) (p : Pat) (g : Option Nat) : Bool :=
  let packed := ePacked d
  let e0 : Nat := if packed then (p.dim 0).cnt * eBits d / 8 else eBits d / 8
  let ks := (upFrom 0 5).filter (fun k => decide (g ≠ some k) && !(packed && decide (k = 0)) && decide (1 < dimLen d p g k))
  let srt := sortBy (fun a c : Nat × Nat => decide (a.1 < c.1)) (ks.map (fun k => ((p.dim k).stride.natAbs, dimLen d p g k)))
  let r := srt.foldl (fun (acc : Bool × Nat) s => (acc.1 && decide (acc.2 ≤ s.1), acc.2 + s.1 * (s.2 - 1))) (true, e0)
  r.1 && (match g with | none => true | some k => decide (r.2 ≤ (p.dim k).stride.natAbs))

/-- An element's value from the bytes that hold it. -/
def eGet (d : List Word) (bit : Nat) (l : List Byte) : Nat := leNat l / 2 ^ bit % 2 ^ eBits d

/-- The bytes that hold an element, with its value replaced. -/
def ePut (d : List Word) (bit : Nat) (l : List Byte) (v : Nat) : List Byte :=
  leBytes l.length (leNat l - eGet d bit l * 2 ^ bit + v % 2 ^ eBits d * 2 ^ bit)

/-- Physical scratchpad address of a task address under the windows of an armed slot. -/
def slotPhys (v : StrmSlot) (a n : Nat) : Option Nat := taskAddr v.awin v.cwin a n

/-- Index `p` of the index tensor (R288): 0 U16, 1 S32. -/
def idxAt (b : Block) (t : Nat) (v : StrmSlot) (p : Nat) : Int :=
  let w := wAt v.desc 28
  let s32 := w.bit 31
  let n := if s32 then 4 else 2
  match slotPhys v (w.fld 20 0 + p * n) n with
  | none => -1
  | some a => if s32 then sext 32 (leNat (spRd b t a 4)) else ((leNat (spRd b t a 2) : Nat) : Int)

/-- Elements of a descriptor: those of its source, which the destination matches (R281 COUNT). -/
def elemCount (d : List Word) : Nat := patCount d (srcPat d) (gDim d false)

/-- The element at `e` of a SPAD side of an armed slot, as physical scratchpad bytes; `none` in the inner option for
padding and out-of-range. -/
def spadElem (b : Block) (t : Nat) (v : StrmSlot) (dst : Bool) (e : Nat) : Elem :=
  let p := if dst then dstPat v.desc else srcPat v.desc
  match elemAt v.desc p (gDim v.desc dst) (idxAt b t v) (p.addr % 2 ^ 21) e with
  | .at_ a bit =>
    (match if 0 ≤ a then slotPhys v (a.toNat % 2 ^ 21) (eSpan v.desc bit) else none with
     | some q => .at_ q bit
     | none => .oor)
  | r => r

/-- An element of `w` bits enters a chain transfer (R225): whole bytes as they fill, lowest bits first. -/
def Chain.feed (c : Chain) (w val : Nat) : Chain :=
  let v := c.part + val % 2 ^ w * 2 ^ c.bits
  let n := (c.bits + w) / 8
  { c with bytes := c.bytes ++ leBytes n v, part := v / 2 ^ (8 * n), bits := (c.bits + w) % 8 }

/-! ## LOCAL streams as bit strings -/

/-- What a LOCAL_RD stream delivers for element `e` (R284, R290): PADV for padding and out-of-range elements. -/
def localGet (b : Block) (t : Nat) (v : StrmSlot) (e : Nat) : Nat :=
  match spadElem b t v false e with
  | .at_ a bit => eGet v.desc bit (spRd b t a.toNat (eSpan v.desc bit))
  | _ => (wAt v.desc 3).toNat % 2 ^ eBits v.desc

/-- The `w`-bit field number `i` of what a LOCAL_RD stream delivers; beyond its last element an open value `fr`
(log entry 20). -/
def localField (b : Block) (t : Nat) (v : StrmSlot) (w : Nat) (fr : Nat → Word) (i : Nat) : Nat :=
  let eb := eBits v.desc
  let n := elemCount v.desc
  let get := fun e => if e < n then localGet b t v e else (fr e).toNat % 2 ^ eb
  let first := i * w / eb
  let last := (i * w + w - 1) / eb
  let img := (upFrom first (last + 1 - first)).foldl (fun (acc : Nat × Nat) e => (acc.1 + get e * 2 ^ acc.2, acc.2 + eb)) (0, 0)
  img.1 / 2 ^ (i * w - first * eb) % 2 ^ w

/-- Count an out-of-range index (R288). -/
def oorEvt (b : Block) (t : Nat) : Block := raiseOnce (bump b (Reg.STRM_CNT_IDX_OOR t) 1) 0x7C t t

/-- Count an element written to a place that an earlier one wrote (R289). -/
def dupEvt (b : Block) (t : Nat) : Block := raiseOnce (bump b (Reg.STRM_CNT_SCAT_DUP t) 1) 0x7B t t

/-- Does an earlier element of the descriptor fall on the place of element `e` of a side (R289)? -/
def scatDup (b : Block) (t : Nat) (v : StrmSlot) (dst : Bool) (e : Nat) : Bool :=
  match gDim v.desc dst with
  | none => false
  | some k =>
    let p := ((positions v.desc (if dst then dstPat v.desc else srcPat v.desc) (some k) e)[k]?).getD 0
    (upFrom 0 p).any (fun q => decide (idxAt b t v q = idxAt b t v p))

/-- The first `n` elements that a LOCAL_RD stream delivers: those with an index out of range count (R288). -/
def localOor (t : Nat) (v : StrmSlot) (n : Nat) (b : Block) : Block :=
  (upFrom 0 (min n (elemCount v.desc))).foldl (fun b e => if spadElem b t v false e = .oor then oorEvt b t else b) b

/-- Write element `e` of a LOCAL_WR stream; the second result is the range of bytes written. -/
def localPut (t : Nat) (v : StrmSlot) (b : Block) (e val : Nat) : Block × List (Nat × Nat) :=
  match spadElem b t v false e with
  | .at_ a bit =>
    let n := eSpan v.desc bit
    let b := if scatDup b t v false e then dupEvt b t else b
    (spWr b t a.toNat (ePut v.desc bit (spRd b t a.toNat n) val), [(a.toNat, n)])
  | .oor => (oorEvt b t, [])
  | .pad => (b, [])

/-- Write a list of `w`-bit results through a LOCAL_WR stream, as far as its elements reach. `errs` are the words found in
error by the reads of words that are written in part (R256). -/
def localWrite (t : Nat) (v : StrmSlot) (w : Nat) (vals : List Nat) (errs : List (Nat × EccStat)) (b : Block) : Block :=
  let eb := eBits v.desc
  let img := (vals.foldl (fun (acc : Nat × Nat) x => (acc.1 + x % 2 ^ w * 2 ^ acc.2, acc.2 + w)) (0, 0)).1
  let r := (upFrom 0 (min (elemCount v.desc) (vals.length * w / eb))).foldl (fun (r : Block × List (Nat × Nat)) e =>
    let q := localPut t v r.1 e (img / 2 ^ (e * eb))
    (q.1, r.2 ++ q.2)) (b, [])
  spSettle r.1 t r.2 errs

/-- The bytes that the first `n` elements of a LOCAL_RD stream are read from, with those of its index tensor. -/
def localSpans (b : Block) (t : Nat) (v : StrmSlot) (n : Nat) : List (Nat × Nat) :=
  (upFrom 0 (min n (elemCount v.desc))).filterMap (fun e =>
    match spadElem b t v false e with
    | .at_ a bit => some (a.toNat, eSpan v.desc bit)
    | _ => none)
  ++ (if (gDim v.desc false).isSome then
      (match slotPhys v ((wAt v.desc 28).fld 20 0) (nIdx v.desc * (if (wAt v.desc 28).bit 31 then 4 else 2)) with
       | some a => [(a, nIdx v.desc * (if (wAt v.desc 28).bit 31 then 4 else 2))]
       | none => [])
     else [])

/-- Physical byte range of a SPAD side of a slot (R257); none beyond its window (R286). -/
def spadRange (d : List Word) (awin cwin : Word) (dst : Bool) : Option (Nat × Nat) :=
  let p := if dst then dstPat d else srcPat d
  let r := patBounds d p (p.addr % 2 ^ 21)
  if r.1 < 0 then none
  else (taskAddr awin cwin r.1.toNat (r.2 - r.1 + 1).toNat).map (fun a => (a, a + (r.2 - r.1).toNat))

/-- Physical byte range of the index tensor. -/
def idxRange (d : List Word) (awin cwin : Word) : Option (Nat × Nat) :=
  let w := wAt d 28
  let n := nIdx d * (if w.bit 31 then 4 else 2)
  (taskAddr awin cwin (w.fld 20 0) n).map (fun a => (a, a + n - 1))

end Sys2Proof.Machine
end

