-- ==== Sys2Proof/Machine/Tiller.lean ====
section
/-! DEFINITION. Tasks on tillers: pulling, granting, completing and aborting (spec/09 R219 to R224, spec/14 R338 to R341),
line headers merged by firmware, and patch queues (spec/09 R227 to R231). -/

namespace Sys2Proof.Machine

/-! ## Ending a task -/

/-- A reload of the image of physical tiller `t` starts (R425). -/
def startReload (b : Block) (t : Nat) : Block :=
  let s := slotOfT b t
  { b with cfg := { b.cfg with marked := b.cfg.marked.filter (· ≠ s),
                               reload := b.cfg.reload.filter (fun e => e.1 ≠ t) ++ [(t, b.pwr.ccy)] } }

/-- The tiller has no current task any more: the cache is invalidated (R264) and a waiting reload starts (R425). TLR_t_ID.STATE
reads PULL at once, before the next TPULL has blocked (DESIGN CHOICE, log entry 78). -/
def freeTiller (b : Block) (t : Nat) : Block :=
  let x := tl b t
  let b := setTl b t { x with task := none, blocked := .none, woken := none, handler := false, cache := [], stall := none }
  let b := if 1 ≤ tState b t ∧ tState b t ≤ 3 then setTState b t 1 else b
  if b.cfg.marked.contains (slotOfT b t) then startReload b t else b

/-- The invocation of a task ends with chaff fields of its own (R222, R56, R426): the own mark that ranks first is
written to every output entry, and the outputs become ripe; the output list's signals apply with them (DESIGN CHOICE, log
entry 79). -/
def markAndEnd (b : Block) (st k cause : Nat) : Block :=
  match findInv b st k with
  | none => b
  | some v =>
    if v.done then b
    else
      let sc := schedFor b st k
      let own := ownMark (invOwn v) (some (cause, st))
      let b := remark b sc st k ((own.map Prod.fst).getD cause)
      let b := if invSuspect b v then suspectOuts b sc st k else b
      updInv (ripenOuts b sc st k) st k (fun v => { v with done := true })

/-- The part ends the current task of a tiller as TABORT ends one, without the handler (R56, R426, R428): its array
operations are dropped and its descriptors in flight are marked bad with cause ABORTED (DESIGN CHOICE, log entry 17). -/
def endTask (b : Block) (t cause : Nat) : Block :=
  match (tl b t).task with
  | none => b
  | some p =>
    let b := dropArray b t
    let b := ((tl b t).slots.map Prod.fst).foldl (fun b s =>
      if (slotOf (tl b t) s).inFlight then markBad b t s 7 else b) b
    let b := markAndEnd b p.stage p.line cause
    raise (bump (freeTiller b t) (Reg.TLR_CNT_ABORT t) 1) 0x69 t

/-- Is the tiller quiet in the sense of R221? -/
def quiet (x : Tiller) : Bool :=
  x.run.isNone && x.pend.isNone && x.fc.isNone && x.slots.all (fun e => !e.2.inFlight)

/-! ## TSLOT, TDONE, TABORT, completion -/

/-- TSLOT xd (R205). -/
def tslot (t pc xd : Nat) (b : Block) : Block := issue b t pc (fun b => setX b t xd (wd (slotOfT b t)))

/-- TDONE (R221): without a current task, and in the fault handler, which must end the task with TABORT (R222), it is
ILLEGAL. -/
def tdone (t pc : Nat) (b : Block) : Block :=
  issue b t pc (fun b =>
    let x := tl b t
    if x.task.isNone ∨ x.handler = true then tFault b t 1 pc else setTl b t { x with blocked := .tdone })

/-- TABORT (R222). -/
def tabort (t pc : Nat) (b : Block) : Block :=
  issue b t pc (fun b =>
    let x := tl b t
    if x.task.isNone then tFault b t 1 pc else setTl b t { x with blocked := .tabort })

/-- The completion cycle of TDONE or TABORT (R221, R222). -/
def taskComplete (t : Nat) (b : Block) : Block :=
  let x := tl b t
  match x.task with
  | none => b
  | some p =>
    if !quiet x then b
    else match x.blocked with
      | .tdone => bump (freeTiller (completeInv b p.stage p.line) t) (Reg.TLR_CNT_TASK t) 1
      | .tabort => raise (bump (freeTiller (markAndEnd b p.stage p.line 2) t) (Reg.TLR_CNT_ABORT t) 1) 0x69 t
      | _ => b

/-! ## TPULL and the grant (R338 to R341) -/

/-- EN and CTX of a ready list. -/
def rlEn (b : Block) (n : Nat) : Bool := (rg b (Reg.DSP_RL_CFG n)).bit 31
def rlCtx (b : Block) (n : Nat) : Nat := (rg b (Reg.DSP_RL_CFG n)).fld 19 16

/-- Is a TPULL mask admitted (R338)? -/
def maskOk (b : Block) (m : Nat) : Bool :=
  let ls := (upFrom 0 64).filter (nbit m)
  !ls.isEmpty && ls.all (rlEn b) && ls.all (fun n => decide (rlCtx b n = rlCtx b (ls.headD 0)))

/-- TPULL xs (R220, R338). -/
def tpull (t pc xs : Nat) (errs : List (Nat × EccStat)) (b : Block) : Block :=
  issue b t pc (fun b =>
    if (tl b t).task.isSome then tFault b t 1 pc
    else withRead b t pc (xReg (tl b t) xs).toNat 8 8 errs (fun b p =>
      let m := leNat (spRd b t p 8)
      if maskOk b m then
        let x := tl b t
        setTState (setTl b t { x with blocked := .tpull m b.pwr.ccy, handler := false }) t 1
      else tFault b t 1 pc))

/-- A blocked TPULL that may be granted a task: mask and issue cycle. -/
def pullOf (b : Block) (t : Nat) : Option (Nat × Nat) :=
  let x := tl b t
  match x.blocked with
  | .tpull m i => if x.resizing ∨ b.cfg.reload.any (fun e => e.1 = t) ∨ tState b t ≠ 1 ∨ slotOfT b t = 0x3F then none else some (m, i)
  | _ => none

/-- The list whose head a mask takes (R339): highest PRIO, then lower list number. -/
def bestList (b : Block) (m : Nat) : Option (Nat × Posted) :=
  (upFrom 0 64).foldl (fun r n =>
    if nbit m n then
      match rlist b n with
      | [] => r
      | p :: _ =>
        if p.postC < b.pwr.ccy then
          (match r with
           | none => some (n, p)
           | some (_, q) => if q.prio < p.prio then some (n, p) else r)
        else r
    else r) none

/-- Waiting TPULLs in the order of R339: issue cycle, then logical slot. -/
def pullOrder (b : Block) : List Nat :=
  let ts := (b.tlr.map Prod.fst).filter (fun t => (pullOf b t).isSome)
  let key := fun t => (((pullOf b t).map Prod.snd).getD 0, slotOfT b t)
  sortBy (fun s t => decide ((key s).1 < (key t).1) || (decide ((key s).1 = (key t).1) && decide ((key s).2 < (key t).2))) ts

/-- The windows of a task are checked at its start (R261, R264, R510). -/
def startCheck (b : Block) (t : Nat) : Block :=
  let aw := curAwin b t; let cw := curCwin b t
  let lo := fun (w : Word) => w.fld 13 0 * 64
  let len := fun (w : Word) => (w.fld 29 16 + 1) * 64
  let cache := (tl b t).cacheSz * 0x40000
  if 2 ^ 20 < lo aw + len aw ∨ 2 ^ 20 < lo cw + len cw ∨ lo cw < cache then tFault b t 2 0
  else if rangeOn b t (lo aw) (lo aw + len aw - 1) = false
      ∨ rangeOn b t (2 ^ 20 + lo cw) (2 ^ 20 + lo cw + len cw - 1) = false then tBankFault b t 0
  else b

/-- Give a task to a tiller (R339 to R341, R333). The blocked TPULL is a waiter that is released, a sleeping one where the context
is not real-time (R323, R471 bit 6). -/
def grantTo (b : Block) (t n : Nat) (p : Posted) : Block :=
  let wait := b.pwr.ccy - p.postC
  let others := b.tlr.any (fun e => decide (e.1 ≠ t) && (match e.2.blocked with | .tpull m _ => nbit m n | _ => false))
  let b := if isRt b (rlCtx b n) then b else nondet b 6
  let b := if others && !isRt b (rlCtx b n) && !b.now.once.contains 2 then nondet { b with now := { b.now with once := b.now.once ++ [2] } } 2 else b
  let b := setRlist b n ((rlist b n).drop 1)
  let b := bump (bump b (Reg.DSP_RL_CNT_GRANT n) 1) (Reg.DSP_RL_WAIT_SUM n) wait
  let b := setRg b (Reg.DSP_RL_WAIT_MAX n) (wd (min (2 ^ 32 - 1) (max (rg b (Reg.DSP_RL_WAIT_MAX n)).toNat wait)))
  let b := setRg b (Reg.DSP_LAST t) (wd (p.stage % 4096 * 2 ^ 20 + n))
  let late := p.late || ((findInv b p.stage p.line).map (·.closed)).getD false
  let b := if late then orRg (raiseOnce (bump b (Reg.DSP_RL_CNT_LATE n) 1) 0x91 n n) Reg.DSP_STATUS 2 else b
  let x := tl b t
  let b := setTl b t { x with task := some p, blocked := .none, woken := none, handler := false }
  let b := (upFrom 0 8).foldl (fun b i => setX b t (8 + i) (wAt p.words i)) b
  let b := setRg b (Reg.TLR_TASK_AWIN t) (wAt p.words 3 &&& 0x3FFF3FFF#32)
  let b := setRg b (Reg.TLR_TASK_CWIN t) (wAt p.words 4 &&& 0x3FFF3FFF#32)
  let b := setRg b (Reg.TLR_TASK_KBASE t) (wAt p.words 5 &&& 0xFFFC#32)
  startCheck (setTState b t 2) t

/-- The grant that the dispatcher makes next (R339), at most eight in a cycle; none where no waiting TPULL finds a task. -/
def taskGrant (b : Block) : Block :=
  if 8 ≤ b.now.grants then b else
  match (pullOrder b).findSome? (fun t => ((pullOf b t).bind (fun mi => bestList b mi.1)).map (fun r => (t, r))) with
  | none => b
  | some (t, n, p) => grantTo { b with now := { b.now with grants := b.now.grants + 1 } } t n p

/-! ## HDRMRG (R223) -/

/-- The merge of two line headers: line, tick items and GOLDEN from the first; the rest under R54 and R93. -/
def hdrMerge (g h : List Word) : List Word :=
  outHdr (hdrLine g) ((wAt g 1).bit 18) (hdrTick g) [g, h] none false

/-- HDRMRG xd, xs1, xs2. -/
def hdrmrg (t pc xd xs1 xs2 : Nat) (errs : List (Nat × EccStat)) (b : Block) : Block :=
  issue b t pc (fun b =>
    let a := fun i => (xReg (tl b t) i).toNat
    withRange b t pc (a xs1) 16 4 false (fun p1 =>
      withRange b t pc (a xs2) 16 4 false (fun p2 =>
        withRange b t pc (a xd) 16 4 true (fun p =>
          coreRd b t pc p1 16 errs (fun b => coreRd b t pc p2 16 errs (fun b =>
            spStore b t p (wordBytes (hdrMerge (spWords b t p1 4) (spWords b t p2 4)))))))))

/-! ## Patch queues -/

/-- OPEN, COL_CAP, NCQ and COL0 of a queue (R227). -/
def pqOpen (b : Block) (q : Nat) : Nat := (frc b (Reg.TLR_PQ_CFG q)).fld 31 30 + 1
def pqCap (b : Block) (q : Nat) : Nat := (frc b (Reg.TLR_PQ_CFG q)).fld 29 26 + 1
def pqNcq (b : Block) (q : Nat) : Nat := (frc b (Reg.TLR_PQ_CFG q)).fld 25 20 + 1
def pqCol0 (b : Block) (q : Nat) : Nat := (frc b (Reg.TLR_PQ_CFG q)).fld 19 0

/-- Patch queue `q`. -/
def pqOf (b : Block) (q : Nat) : PQueue := spGet (fun _ => PQueue.init) b.pqs q

/-- Write patch queue `q`. -/
def setPq (b : Block) (q : Nat) (x : PQueue) : Block := { b with pqs := spPut (fun _ => PQueue.init) b.pqs q x }

/-- A patch record of two words (R228). -/
def patchRec (w0 w1 : Word) : PatchRec :=
  { scol := w0.fld 31 12, dy := sext 8 (w0.fld 7 0), score := w1.fld 31 16, cls := w1.fld 15 8, raw0 := w0, raw1 := w1 }

/-- Does record `a` rank strictly before `c` (R229)? -/
def patchBefore (a c : PatchRec) : Bool :=
  decide (c.score < a.score) || (decide (a.score = c.score) &&
    (decide (a.scol < c.scol) || (decide (a.scol = c.scol) &&
      (decide (a.dy < c.dy) || (decide (a.dy = c.dy) && decide (a.cls < c.cls))))))

/-- The order of a patch list (R230): canonical column, then rank. -/
def patchLt (a c : PatchRec) : Bool :=
  decide (a.scol / 256 < c.scol / 256) || (decide (a.scol / 256 = c.scol / 256) && patchBefore a c)

/-- Submit one record to the kept ones (R229): the new list and the number of records dropped, more than one where COL_CAP has
been lowered since. -/
def patchKeep (cap : Nat) (l : List PatchRec) (r : PatchRec) : List PatchRec × Nat :=
  if l.any (fun e => !patchBefore e r && !patchBefore r e) then (l, 1)
  else
    let l' := insertBy patchLt r l
    let extra := (l'.filter (fun e => decide (e.scol / 256 = r.scol / 256))).drop cap
    (l'.filter (fun e => !extra.contains e), extra.length)

/-- The kept records of a line where COL_CAP has been lowered since: those beyond it are kept no more (R229). -/
def patchTrim (cap : Nat) (l : List PatchRec) : List PatchRec × Nat :=
  let out := l.filter (fun r => decide (cap ≤ (l.filter (fun e => decide (e.scol / 256 = r.scol / 256) && patchBefore e r)).length))
  (l.filter (fun e => !out.contains e), out.length)

/-- The lower of two chaff marks by ORIGIN, then CAUSE, so that the order of submission does not matter (R230). -/
def chaffMin (a c : Option (Nat × Nat)) : Option (Nat × Nat) :=
  match a, c with
  | none, m => m
  | m, none => m
  | some x, some y => if y.2 < x.2 ∨ (y.2 = x.2 ∧ y.1 < x.1) then some y else some x

/-- An open line with nothing submitted. -/
def PLine.fresh (m : Nat) : PLine := ⟨m, [], 0, 0, 0, none⟩

/-- Take a block into an open line. -/
def patchInto (cap : Nat) (l : PLine) (hdr : List Word) (rs : List PatchRec) : PLine × Nat :=
  let r := rs.foldl (fun (acc : List PatchRec × Nat) r =>
    let k := patchKeep cap acc.1 r
    (k.1, acc.2 + k.2)) (l.recs, 0)
  ({ l with recs := r.1, drops := l.drops + r.2, marks := l.marks ||| (wAt hdr 1).fld 20 19,
            word2 := l.word2 ||| (wAt hdr 2).fld 8 0,
            chaff := chaffMin l.chaff (if hdrChaff hdr then some (hdrCause hdr, hdrOrigin hdr) else none) }, r.2)

/-- Is line `m` of a queue open (R231)? Before the first line has closed every line is (DESIGN CHOICE, log entry 18). -/
def pqLineOpen (b : Block) (q m : Nat) : Bool :=
  match (pqOf b q).last with
  | none => true
  | some l => lineGt m l && decide (lineSub m l ≤ pqOpen b q)

/-- Records of queue `q` that are dropped count (R229). -/
def pqDropped (b : Block) (q n : Nat) : Block := if n = 0 then b else raiseOnce (bump b (Reg.TLR_PQ_CNT_CAP q) n) 0x6A q q

/-- COL_CAP as it now stands holds for every open line of queue `q` (R229). -/
def pqTrim (b : Block) (q : Nat) : Block :=
  let x := pqOf b q
  let ls := x.lines.map (fun l => let r := patchTrim (pqCap b q) l.recs; ({ l with recs := r.1, drops := l.drops + r.2 }, r.2))
  let n := (ls.map Prod.snd).foldl (· + ·) 0
  if n = 0 then b else pqDropped (setPq b q { x with lines := ls.map Prod.fst }) q n

/-- A block with records inside the queue's columns is submitted (R229, R231). -/
def patchSubmit (b : Block) (q : Nat) (hdr : List Word) (rs : List PatchRec) : Block :=
  let m := hdrLine hdr
  if !pqLineOpen b q m then raiseOnce (bump b (Reg.TLR_PQ_CNT_LATE q) 1) 0x6B q q
  else
    let x := pqOf b q
    let l := (x.lines.find? (fun l => l.line = m)).getD (PLine.fresh m)
    let r := patchInto (pqCap b q) l hdr rs
    let b := setPq b q { x with lines := x.lines.filter (fun l => l.line ≠ m) ++ [r.1] }
    pqDropped b q r.2

/-- PATCH xs (R228). A queue that no TASK entry consumes rejects the block as PATCH_ARG (DESIGN CHOICE, log entry 18). A record
outside the queue's columns faults before the block's line is judged (DESIGN CHOICE, log entry 77). -/
def patch (t pc xs : Nat) (errs : List (Nat × EccStat)) (b : Block) : Block :=
  issue b t pc (fun b =>
    let a := (xReg (tl b t) xs).toNat
    withRead b t pc a 20 4 errs (fun b p =>
      let hdr := spWords b t p 4
      let w := rdWord b.mems.spad (t * 2 ^ 21 + p + 16)
      let q := Word.fld w 27 24; let np := Word.fld w 9 0
      withRange b t pc a (20 + 8 * np) 4 false (fun p => coreRd b t pc (p + 20) (8 * np) errs (fun b =>
        let ws := spWords b t (p + 20) (2 * np)
        let rs := (upFrom 0 np).map (fun i => patchRec (wAt ws (2 * i)) (wAt ws (2 * i + 1)))
        let c0 := pqCol0 b q / 256
        if !(pqOf b q).bound || rs.any (fun r => !decide (c0 ≤ r.scol / 256 ∧ r.scol / 256 < c0 + pqNcq b q)) then
          tFault b t 5 pc
        else patchSubmit b q hdr rs))))

/-! ## DSP_CLR (R344) -/

/-- Clear WAIT_MAX of a list. -/
def dspClrWait (list : Nat) (b : Block) : Block := setRg b (Reg.DSP_RL_WAIT_MAX (list % 64)) 0#32

/-- Set HWM of a list to its depth. -/
def dspClrHwm (list : Nat) (b : Block) : Block :=
  let n := list % 64
  setF b (Reg.DSP_RL_DEPTH n) 24 16 ((rg b (Reg.DSP_RL_DEPTH n)).fld 8 0)

end Sys2Proof.Machine
end

