-- ==== Sys2Proof/Machine/Stream.lean ====
section
/-! DEFINITION. Streams (spec/12 R280 to R291, R295, R304): arming and its checks, the channels, and what an access at the far
side meets. -/

namespace Sys2Proof.Machine

/-! ## Arm-time checks (R281, R284 to R291) -/

/-- R406: a panicle is armed on its root device alone (status FIELD). -/
def panicleBad (b : Block) (d : List Word) : Bool :=
  decide (dKind d = 3 ∧ (dstPat d).space = 5) && nbit (dstPat d).addr 47 &&
    !((panicleOf b (bitsOf (dstPat d).addr 43 40)).map (fun p => decide (p.root = devOf b))).getD false

/-- R303: a PAGED side in a task of a real-time context (status PAGED_RT). -/
def pagedRt (b : Block) (t : Nat) (d : List Word) : Bool :=
  decide ((srcPat d).space = 3 ∨ (2 ≤ dKind d ∧ (dstPat d).space = 3)) && isRt b ((curCtx b t).getD 0)

/-- Non-zero reserved fields and reserved codes (status FIELD). -/
def descFieldBad (b : Block) (d : List Word) : Bool :=
  let loc := decide (dKind d < 2)
  let z := fun (i hi lo : Nat) => decide ((wAt d i).fld hi lo ≠ 0)
  let g := (wAt d 0).fld 25 23
  let sub := fun (p : Pat) => ePacked d && (decide ((p.dim 0).cnt % 2 ≠ 0) || decide ((p.dim 0).stride ≠ 0))
  let chain := decide ((dstPat d).space = 6)
  decide (3 < dKind d) || decide (4 < (wAt d 0).fld 18 16) || decide (g = 5 ∨ g = 6)
  || decide (6 < (srcPat d).space) || decide (6 < (dstPat d).space)
  || z 0 15 0 || z 1 23 10 || z 5 27 16 || z 17 27 16 || z 28 30 21 || z 29 31 16 || z 30 31 21 || z 31 31 0
  || sub (srcPat d) || (!loc && !chain && sub (dstPat d))
  || (loc && (upFrom 16 12).any (fun i => decide (wAt d i ≠ 0#32)))
  -- R296: an output row is written contiguously
  || (decide (dKind d = 1) && !ePacked d && decide (((srcPat d).dim 0).stride ≠ ((eBits d / 8 : Nat) : Int)))
  || panicleBad b d

/-- Element counts (status COUNT). -/
def descCountBad (d : List Word) : Bool :=
  let n := patCount d (srcPat d) (gDim d false)
  decide (2 ^ 32 < n) ||
    (decide (2 ≤ dKind d) && decide ((dstPat d).space ≠ 6) && decide (patCount d (dstPat d) (gDim d true) ≠ n))

/-- The write pattern (status ALIAS). -/
def descAliasBad (d : List Word) : Bool :=
  if dKind d = 1 then !writeOk d (srcPat d) (gDim d false)
  else if 2 ≤ dKind d ∧ (dstPat d).space ≠ 6 then !writeOk d (dstPat d) (gDim d true)
  else false

/-- The combination of sides (status SPACE). A LOCAL stream lies in the array class on every element. -/
def descSpaceBad (d : List Word) : Bool :=
  let s := srcPat d; let w := dstPat d
  if dKind d < 2 then
    let r := patBounds d s (s.addr % 2 ^ 21)
    decide (s.space ≠ 0) || decide (r.1 < 0 ∨ (2 ^ 20 : Int) ≤ r.2)
  else if dKind d = 2 then
    decide (s.space = 6) || !decide (w.space = 0 ∨ w.space = 6)
    || (decide (w.space = 6) && (upFrom 16 12).any (fun i =>
         if i = 17 then decide ((wAt d i).fld 27 0 ≠ 0) else decide (wAt d i ≠ 0#32)))
  else decide (s.space ≠ 0) || decide (w.space = 0 ∨ w.space = 6)

/-- Padding (status PAD; R288, R290). -/
def descPadBad (d : List Word) : Bool :=
  let has := fun (p : Pat) => p.dims.any (fun k => decide (k.lo ≠ 0 ∨ k.hi ≠ 0))
  let gp := fun (p : Pat) (g : Option Nat) => match g with
    | some k => decide ((p.dim k).lo ≠ 0 ∨ (p.dim k).hi ≠ 0)
    | none => false
  gp (srcPat d) (gDim d false) || gp (dstPat d) (gDim d true)
  || (if dKind d < 2 then decide (dKind d = 1) && has (srcPat d)
      else has (dstPat d) || (has (srcPat d) && !((wAt d 0).bit 26 && decide ((dstPat d).space = 0))))

/-- The status of SARM (R281, R286): the first failing check in the order of the codes. -/
def armStatus (b : Block) (t s : Nat) (d : List Word) : Nat :=
  if (slotOf (tl b t) s).inFlight then 1
  else if descFieldBad b d then 2
  else if descCountBad d then 3
  else if descAliasBad d then 4
  else if descSpaceBad d then 5
  else if pagedRt b t d then 6
  else if descPadBad d then 7
  else 0

/-! ## Scoreboard entries of a descriptor (R257, R286, R291) -/

/-- Physical bytes of the destination of the data elements, where padding is materialised. -/
def dataRange (b : Block) (t : Nat) (v : StrmSlot) : Option (Nat × Nat) :=
  (upFrom 0 (elemCount v.desc)).foldl (fun r e =>
    match elemAt v.desc (srcPat v.desc) (gDim v.desc false) (idxAt b t v) 0 e, spadElem b t v true e with
    | .pad, _ => r
    | _, .at_ a bit =>
      let hi := a.toNat + eSpan v.desc bit - 1
      (match r with
       | none => some (a.toNat, hi)
       | some q => some (min q.1 a.toNat, max q.2 hi))
    | _, _ => r) none

/-- The entries that arming a slot creates. -/
def armEntries (b : Block) (t s : Nat) (v : StrmSlot) : List SbEntry :=
  let d := v.desc
  let o := SbOwner.stream s
  let ent := fun (r : Option (Nat × Nat)) (w : Bool) => (r.map (fun q => sbEntry q.1 q.2 w o)).toList
  let src := spadRange d v.awin v.cwin false
  let dst := if (wAt d 0).bit 26 then dataRange b t v else spadRange d v.awin v.cwin true
  (if 2 ≤ dKind d ∧ (srcPat d).space = 0 then ent src false else [])
    ++ (if dKind d = 2 ∧ (dstPat d).space = 0 then ent dst true else [])
    ++ (if (gDim d false).isSome ∨ (gDim d true).isSome then ent (idxRange d v.awin v.cwin) false else [])

/-- Do the SPAD sides and the index tensor lie within the windows (R286)? -/
def armBounds (d : List Word) (awin cwin : Word) : Bool :=
  ((srcPat d).space ≠ 0 || (spadRange d awin cwin false).isSome)
  && (dKind d < 2 || (dstPat d).space ≠ 0 || (spadRange d awin cwin true).isSome)
  && (((gDim d false).isNone && (gDim d true).isNone) || (idxRange d awin cwin).isSome)

/-- Put an armed DMA slot into its channel (R280), or leave a LOCAL one armed. Stalls where the channel holds eight, or
for the scoreboard (R281). `xd` receives status 0. -/
def armSlot (b0 : Block) (t s xd : Nat) (v : StrmSlot) : Block :=
  -- what the slot held before holds its entries no longer
  let b := setTl b0 t (sbFree (tl b0 t) (.stream s))
  let ch := dChan v.desc
  let es := armEntries b t s v
  if 2 ≤ dKind v.desc ∧ 8 ≤ (chanOf (tl b t) ch).length then holdAt b0 t .busy
  else match sbAdd b t es with
    | none => setTl b0 t { tl b0 t with stall := (tl (sbRefused b t es) t).stall }
    | some b =>
      if dKind v.desc < 2 then setX (setSlot b t s { v with state := .armed }) t xd 0#32
      else
        let b := setSlot b t s { v with state := .queued }
        let x := tl b t
        let b := setTl b t { x with chans := spPut (fun _ => []) x.chans ch (chanOf x ch ++ [s]) }
        setX (chStat b t) t xd 0#32

/-- A status other than 0 (R281). -/
def armReject (b : Block) (t xd st : Nat) : Block :=
  setX (bump b (Reg.STRM_CNT_ARM_REJ t) 1) t xd (wd st)

/-- SARM xd, xs, s. -/
def sarm (t pc xd xs slot : Nat) (errs : List (Nat × EccStat)) (b : Block) : Block :=
  issue b t pc (fun b =>
    withRead b t pc (xReg (tl b t) xs).toNat 128 128 errs (fun b p =>
      let s := slot % 64
      let d := spWords b t p 32
      let st := armStatus b t s d
      if st ≠ 0 then armReject b t xd st
      else if !armBounds d (curAwin b t) (curCwin b t) then tFault b t 2 pc
      else armSlot b t s xd { StrmSlot.init with
        desc := d, awin := curAwin b t, cwin := curCwin b t, ctx := (curCtx b t).getD 0 }))

/-- SREARM xd, xs, s (R295): a slot that holds no descriptor has nothing for the other checks to look at; those follow in the
order of the status codes. The new addresses meet what R251, R303 and R406 ask of a descriptor. -/
def srearm (t pc xd xs slot : Nat) (errs : List (Nat × EccStat)) (b : Block) : Block :=
  issue b t pc (fun b =>
    withRead b t pc (xReg (tl b t) xs).toNat 16 4 errs (fun b p =>
      let s := slot % 64
      let ws := spWords b t p 4
      let v := slotOf (tl b t) s
      let badW := fun (n o : Word) => decide (n.fld 31 28 ≠ o.fld 31 28 ∨ n.fld 27 16 ≠ 0)
      if v.inFlight then armReject b t xd 1
      else if v.state = .empty then armReject b t xd 8
      else
        let d := listSet (listSet (listSet (listSet v.desc 4 (wAt ws 0)) 5 (wAt ws 1)) 16 (wAt ws 2)) 17 (wAt ws 3)
        if badW (wAt ws 1) (wAt v.desc 5) || badW (wAt ws 3) (wAt v.desc 17) || panicleBad b d then armReject b t xd 2
        else if dKind d < 2 ∧ descSpaceBad d = true then armReject b t xd 5
        else if pagedRt b t d then armReject b t xd 6
        else if !(wAt v.desc 0).bit 27 then armReject b t xd 9
        else if !armBounds d (curAwin b t) (curCwin b t) then tFault b t 2 pc
        else armSlot b t s xd { StrmSlot.init with
          desc := d, awin := curAwin b t, cwin := curCwin b t, ctx := (curCtx b t).getD 0 }))

/-- State code of SQUERY. -/
def slotCode : SlotState → Nat
  | .empty => 0 | .armed => 1 | .queued => 2 | .active => 3 | .done => 4 | .bad => 5 | .halted => 6

/-- SQUERY xd, s. -/
def squery (t pc xd slot : Nat) (b : Block) : Block :=
  issue b t pc (fun b =>
    let v := slotOf (tl b t) (slot % 64)
    setX b t xd (wd (slotCode v.state * 2 ^ 28 + v.cause * 2 ^ 24)))

/-- Resume a channel (R304): its halted descriptor becomes active again. -/
def resumeCh (b : Block) (t ch : Nat) : Block :=
  match chanOf (tl b t) ch with
  | [] => b
  | s :: _ =>
    let v := slotOf (tl b t) s
    if v.state = .halted then chStat (setSlot b t s { v with state := .active }) t else b

/-- SRESUME c, e. -/
def sresume (t pc ch e : Nat) (b : Block) : Block :=
  issue b t pc (fun b => resumeCh b t (ch % 8 + 8 * (e % 2)))

/-- A host write to DMA_t_RESUME (R304): read channels in bits 7:0, write channels in 15:8. -/
def dmaResumeWrite (t : Nat) (w : Word) (b : Block) : Block :=
  (upFrom 0 16).foldl (fun b ch => if w.bit ch then resumeCh b t ch else b) b

/-- SDISARM s: a descriptor in flight is marked bad with cause ABORTED (R302). -/
def sdisarm (t pc slot : Nat) (b : Block) : Block :=
  issue b t pc (fun b =>
    let s := slot % 64
    if (slotOf (tl b t) s).inFlight then markBad b t s 7
    else setSlot (setTl b t (sbFree (tl b t) (.stream s))) t s StrmSlot.init)

/-! ## Channels (R280) -/

/-- A queued descriptor at the head of its channel becomes active; this is its start cycle. -/
def dmaStart (t slot : Nat) (b : Block) : Block :=
  let v := slotOf (tl b t) slot
  if v.state = .queued ∧ (chanOf (tl b t) (dChan v.desc)).head? = some slot then
    chStat (setSlot b t slot { v with state := .active, startC := b.pwr.ccy % 2 ^ 32 }) t
  else b

/-! ## The far side (R285, R266, R274, R481, R486, R488) -/

/-- What an access at the far side meets. -/
inductive Far where
  /-- bytes of GDDR6, the Granary, a scratchpad (tiller, address), or another device's window -/
  | gddr (a : Nat)
  | gran (a : Nat)
  | spad (t a : Nat)
  | glume (dev slot win off : Nat)
  | panicle (p off : Nat)
  | chain
  /-- the descriptor becomes bad with this cause; `ev` 1 counts MEM_BOUND, 2 GRN_BOUND, 3 a bank group that is off -/
  | bad (cause ev : Nat)
  /-- GDDR6 bytes of two pages: the first `n` at `a`, the rest at `c` -/
  | split (a n c : Nat)
  /-- the page of this PAGED address is not present -/
  | halt (fa : Nat)
  deriving DecidableEq, Repr

/-- What an access of a DMA unit brings with it: the words that returned in error, by byte address, and the page-table entries, by
page, that its translation holds since before an invalidation (R489). -/
structure FarIn where
  errs : List (Nat × EccStat)
  pins : List (Nat × Word)
  deriving DecidableEq, Repr

/-- Nothing of either. -/
abbrev FarIn.none : FarIn := ⟨[], []⟩

/-- The side of a descriptor that counts as far: the destination of a DMA write, the source of a DMA read. -/
def farSide (v : StrmSlot) : Bool := decide (dKind v.desc = 3)

/-- SPACE of the far side. -/
def farSpace (v : StrmSlot) : Nat := if farSide v then (dstPat v.desc).space else (srcPat v.desc).space

/-- GDDR6 bytes of a stream of context `c` (R481, R486, R490). -/
def gddrFar (b : Block) (c a n : Nat) (write : Bool) : Far :=
  if 2 ^ 34 < a + n ∨ inStaging (a + n - 1) = true then .bad 1 0
  else if !inCtxWin b c a n then .bad 3 1
  else if spanRefuses b a n then .bad (if write then 5 else 1) 0
  else .gddr a

/-- Bytes of a scratchpad at physical address `a` (R510). -/
def spadFar (b : Block) (t a n : Nat) (write : Bool) : Far :=
  if 2 ^ 21 < a + n then .bad 3 0
  else if !rangeOn b t a (a + n - 1) then .bad (if write then 5 else 1) 3
  else .spad t a

/-- Logical slots whose scratchpads a context may reach (R266): the tiller slots of its partition's envelope (DEDUCED,
log entry 21). -/
def mayReach (b : Block) (c slot : Nat) : Bool :=
  b.cfg.envs.any (fun e => nbit e.2.ctx c && nbit e.2.unitsK slot)

/-- The page-table entry of page `n` of context `c` (R488). -/
def ptAddr (b : Block) (c n : Nat) : Nat := (frc b (Reg.MEM_CTX_PT_BASE c)).fld 17 0 * 65536 + 4 * n

/-- A read of a page-table entry (R485, R489): the entry, or the cause with which the descriptor becomes bad. Where nothing answers,
that is BUS (R302, R417, R490). -/
def ptRead (b : Block) (a : Nat) (errs : List (Nat × EccStat)) : Block × (Word ⊕ Nat) :=
  if 2 ^ 34 < a + 4 ∨ inStaging a = true ∨ regionRefuses b a = true then (b, .inr 1)
  else
    let r := memUnit b a errs
    (r.1, if r.2 then .inr 2 else .inl (rdWord b.mems.gddr a))

/-- The entry of page `page` of context `c` (R489): one that the unit's translation holds already, else that of the tiller's cache, most
recent in front, 64 entries, else one that is read. -/
def ptEntry (b : Block) (t c page : Nat) (i : FarIn) : Block × (Word ⊕ Nat) :=
  let keep := fun (b : Block) (w : Word) =>
    let x := tl b t
    setTl b t { x with tlb := (⟨c, page, w⟩ :: x.tlb.filter (fun e => !(e.ctx = c && e.page = page))).take 64 }
  match i.pins.find? (fun e => e.1 = page), (tl b t).tlb.find? (fun e => e.ctx = c && e.page = page) with
  | some e, _ => (b, .inl e.2)
  | none, some e => (keep b e.word, .inl e.word)
  | none, none =>
    let r := ptRead b (ptAddr b c page) i.errs
    match r.2 with
    | .inl w => (keep r.1 w, .inl w)
    | .inr k => (r.1, .inr k)

/-- The GDDR6 address of a PAGED address (R488), or what the access meets in its place. -/
def pageByte (b : Block) (t c va : Nat) (write : Bool) (i : FarIn) : Block × (Nat ⊕ Far) :=
  let page := va / 65536 % 2 ^ 32
  if (frc b (Reg.MEM_CTX_PT_LEN c)).fld 20 0 ≤ page then (b, .inr (.bad 3 0))
  else
    let r := ptEntry b t c page i
    (r.1, match r.2 with
      | .inr k => .inr (.bad k 0)
      | .inl w =>
        if w.fld 29 18 ≠ 0 then .inr (.bad 1 0)
        else if !w.bit 31 then .inr (.halt va)
        else if write && !w.bit 30 then .inr (.bad 3 0)
        else .inl (w.fld 17 0 * 65536 + va % 65536))

/-- Translation of `n` bytes at a PAGED address, of one page or of two. -/
def translate (b : Block) (t c va n : Nat) (write : Bool) (i : FarIn) : Block × Far :=
  let r := pageByte b t c va write i
  let k := 65536 - va % 65536
  match r.2 with
  | .inr f => (r.1, f)
  | .inl a =>
    if n ≤ k then (r.1, gddrFar r.1 c a n write)
    else
      let q := pageByte r.1 t c ((va + k) % 2 ^ 48) write i
      match q.2 with
      | .inr f => (q.1, f)
      | .inl d =>
        (q.1, match gddrFar q.1 c a k write, gddrFar q.1 c d (n - k) write with
          | .gddr a, .gddr d => .split a k d
          | .gddr _, f => f
          | f, _ => f)

/-- A far-side access of `n` bytes at an address of a side of slot `v` of tiller `t`. -/
def farAt (b : Block) (t : Nat) (v : StrmSlot) (space : Nat) (addr : Int) (n : Nat) (write : Bool) (i : FarIn) : Block × Far :=
  if space = 6 then (b, .chain)
  else if addr < 0 then (b, .bad (if space = 1 then 3 else 1) (if space = 1 then 2 else 0))
  else
    let a := addr.toNat
    if space = 0 then
      (b, match slotPhys v (a % 2 ^ 21) n with | none => .bad 3 0 | some p => spadFar b t p n write)
    else if space = 1 then
      let w := frc b (Reg.GRN_CTX_WIN v.ctx)
      (b, if w.fld 13 0 ≤ a / 4096 ∧ (a + n - 1) / 4096 ≤ w.fld 29 16 then .gran a else .bad 3 2)
    else if space = 2 then (b, gddrFar b v.ctx a n write)
    else if space = 3 then translate b t v.ctx (a % 2 ^ 48) n write i
    else if space = 4 then
      let s := bitsOf a 29 24
      (b, if !mayReach b v.ctx s then .bad 3 0
          else match physOf b 0 s with
            | none => .bad 1 0
            | some p => spadFar b p (a % 2 ^ 21) n write)
    else if nbit a 47 && write then (b, .panicle (bitsOf a 43 40) (a % 2 ^ 21))
    else if bitsOf a 37 32 = devOf b then
      -- a window of the own device needs no link
      (match glumeAdmit b (bitsOf a 29 24) (bitsOf a 22 21) (a % 2 ^ 21) n write (devOf b) with
       | (b, .ok q p) => (b, .spad q p)
       | (b, .rej c) => (b, .bad c 0))
    else (b, .glume (bitsOf a 37 32) (bitsOf a 29 24) (bitsOf a 22 21) (a % 2 ^ 21))

/-- Base address of a side by SPACE (R285). -/
def sideBase (p : Pat) : Nat :=
  if p.space = 0 then p.addr % 2 ^ 21 else if p.space = 1 then p.addr % 2 ^ 26 else if p.space = 2 then p.addr % 2 ^ 34 else p.addr

/-- The events of a refused access. -/
def farEvents (b : Block) (t : Nat) (v : StrmSlot) (ev : Nat) : Block :=
  if ev = 1 then memBound b v.ctx
  else if ev = 2 then orRg (raiseOnce (bump b Reg.GRN_CNT_BOUND 1) 0x77 0 v.ctx) Reg.GRN_STATUS 8
  else if ev = 3 then bankOffEvt b t
  else b

end Sys2Proof.Machine
end

