-- ==== Sys2Proof/Machine/Dma.lean ====
section
/-! DEFINITION. The DMA engines at work (spec/12 R292 to R294, R297 to R299, R302, R303): the far-side units of a descriptor
and the requests they form, arbitration, the staging buffer, and the movement of one unit. -/

namespace Sys2Proof.Machine

/-! ## Elements -/

/-- The value of padding. -/
def padVal (d : List Word) : Nat := (wAt d 3).toNat % 2 ^ eBits d

/-- Place of element `e` on one side. -/
def sideElem (b : Block) (t : Nat) (v : StrmSlot) (dst : Bool) (e : Nat) : Elem :=
  let p := if dst then dstPat v.desc else srcPat v.desc
  if p.space = 6 then .at_ 0 0 else elemAt v.desc p (gDim v.desc dst) (idxAt b t v) (sideBase p) e

/-! ## Units and requests (R292) -/

/-- The 64-byte units of the first and the last byte of an element of the far side; none for one that is not there. -/
def elemUnits (b : Block) (t : Nat) (v : StrmSlot) (e : Nat) : Option (Nat × Nat) :=
  match sideElem b t v (farSide v) e with
  | .at_ a bit => some ((a / 64).toNat, ((a + eSpan v.desc bit - 1) / 64).toNat)
  | _ => none

/-- The next element at or after `e`, of `n` in all, that the far side has. -/
def nextElem (b : Block) (t : Nat) (v : StrmSlot) (e : Nat) : Nat → Option Nat
  | 0 => none
  | n + 1 => if (elemUnits b t v e).isSome then some e else nextElem b t v (e + 1) n

/-- From element `e` on, how far a visit to unit `u` goes: the first element that it does not complete, and whether that one
begins in it. Padding and elements that are not there go with the unit before them. -/
def unitEnd (b : Block) (t : Nat) (v : StrmSlot) (u : Nat) : Nat → Nat → Nat × Bool
  | e, 0 => (e, false)
  | e, n + 1 =>
    match elemUnits b t v e with
    | none => unitEnd b t v u (e + 1) n
    | some (lo, hi) => if lo = u ∧ hi = u then unitEnd b t v u (e + 1) n else (e, decide (lo = u))

/-- The next visit of a descriptor from element `e`, whose first unit has been visited already where `half` is true: the unit,
the element after those it completes, and whether that one begins in it. -/
def nextVisit (b : Block) (t : Nat) (v : StrmSlot) (e : Nat) (half : Bool) : Option (Nat × Nat × Bool) :=
  let n := elemCount v.desc
  (nextElem b t v e (n - e)).bind (fun e1 =>
    (elemUnits b t v e1).map (fun q =>
      if half && decide (e1 = e) then
        (let r := unitEnd b t v q.2 (e1 + 1) (n - e1 - 1); (q.2, r))
      else (let r := unitEnd b t v q.1 e1 (n - e1); (q.1, r))))

/-- What unit `u` of a descriptor meets at the far side, as far as it is known before it moves. -/
def unitFar (b : Block) (t : Nat) (v : StrmSlot) (u : Nat) : Far :=
  (farAt b t v (farSpace v) ((64 * u : Nat) : Int) 1 (farSide v) FarIn.none).2

/-- The arbitration points that a unit passes (R297): 0 to 35 a tiller's engine output, 36 to 71 its fabric port, 72 to 79 a GDDR6
controller, 80 the Granary's DMA port group. A scratchpad-to-scratchpad copy stays within the tiller (DEDUCED, log entry 64). -/
def unitPath (b : Block) (t : Nat) (v : StrmSlot) (u : Nat) : List Nat :=
  match unitFar b t v u with
  | .gddr a => [t, 36 + t, 72 + gdCtrl a]
  | .gran _ => [t, 36 + t, 80]
  | .spad q _ => if farSpace v = 0 then [t] else [t, 36 + t, 36 + q].eraseDups
  | .glume .. | .panicle .. => [t, 36 + t]
  | _ => [t]

/-- The refusal that a write unit meets which seeks a reservation for a region or a bank group that is off (R490, R510). -/
def refusedUnit (b : Block) (t : Nat) (v : StrmSlot) (u : Nat) : Option Nat :=
  if farSide v then (match unitFar b t v u with | .bad 5 ev => some ev | _ => none) else none

/-- The units of the next request (R292): consecutive ones that are adjacent in address and lie in one 512-byte block, none of which
is refused. `g` are those found so far. -/
def requestFrom (b : Block) (t : Nat) (v : StrmSlot) : Nat → List DUnit → Nat → Bool → List DUnit
  | 0, g, _, _ => g
  | n + 1, g, e, half =>
    match nextVisit b t v e half with
    | none => g
    | some (u, fin, tail) =>
      let joins := match g.getLast? with
        | none => true
        | some q => decide (u / 8 = q.addr / 8 ∧ (u = q.addr + 1 ∨ u + 1 = q.addr)) && g.all (fun x => decide (x.addr ≠ u))
      if joins && (refusedUnit b t v u).isNone then
        requestFrom b t v n (g ++ [{ n := v.askN + g.length, addr := u, first := e, fin := fin, tail := tail,
                                     path := unitPath b t v u, since := b.pwr.ccy, pins := [] }]) fin tail
      else g

/-- The next request of a descriptor. -/
def nextRequest (b : Block) (t : Nat) (v : StrmSlot) : List DUnit := requestFrom b t v 8 [] v.askE v.askT

/-! ## The staging buffer (R293) -/

/-- Bytes of the share of an engine: `wr` the write engine. -/
def stageShare (b : Block) (t : Nat) (wr : Bool) : Nat :=
  let rd := (frc b (Reg.DMA_STAGE t)).fld 3 0
  (if wr then 16 - rd else rd) * 4096

/-- Bytes of it that are reserved. -/
def stageUsed (x : Tiller) (wr : Bool) : Nat :=
  ((x.slots.filter (fun e => decide (2 ≤ dKind e.2.desc) && (farSide e.2 == wr))).map (fun e => 64 * e.2.asked.length)).foldl (· + ·) 0

/-- May a descriptor ask for its next request? Its earlier units have left the engine, and a descriptor to CHAIN has been named by
a WCHAIN (R285). -/
def mayAsk (t : Nat) (v : StrmSlot) : Bool :=
  decide (v.state = .active) && v.asked.all (fun u => decide (u.path.head? ≠ some t)) &&
  (decide ((dstPat v.desc).space ≠ 6 ∨ dKind v.desc ≠ 2) || v.chain.isSome)

/-- The refusal that the next unit of a descriptor meets, where no unit before it is still under way (DESIGN CHOICE, log entry 64). -/
def askRefused (b : Block) (t : Nat) (v : StrmSlot) : Option Nat :=
  if v.asked = [] then (nextVisit b t v v.askE v.askT).bind (fun q => refusedUnit b t v q.1) else none

/-- Issue the next request of slot `s`, where it may ask and its bytes find room in the engine's share; a descriptor whose next
unit is refused becomes bad (R490, R510). -/
def issueRequest (t : Nat) (b : Block) (s : Nat) : Block :=
  let x := tl b t
  let v := slotOf x s
  if mayAsk t v then
    let g := nextRequest b t v
    match askRefused b t v with
    | some ev => markBad (farEvents b t v ev) t s 5
    | none =>
    if stageUsed x (farSide v) + 64 * g.length ≤ stageShare b t (farSide v) then
      match g.getLast? with
      | none => b
      | some q => setSlot b t s { v with asked := v.asked ++ g, askE := q.fin, askT := q.tail, askN := v.askN + g.length }
    else b
  else b

/-- The engines of a tiller issue what they can, in ascending channel (DESIGN CHOICE, log entry 64). -/
def issueAll (b : Block) (t : Nat) : Block :=
  ((upFrom 0 16).filterMap (fun ch => (chanOf (tl b t) ch).head?)).foldl (issueRequest t) b

/-! ## Arbitration (R297 to R299) -/

/-- Classes of requests. -/
inductive ArbClass where
  | read | write | remote
  deriving DecidableEq, Repr

/-- A request at an arbitration point: class, logical slot, channel, port, deadline (none where RATE is 0), the cycle since which
it waits there; and whose it is: a stream slot of a tiller, the recording ring, or another device or the host. -/
structure ArbReq where
  cls      : ArbClass
  slot     : Nat
  ch       : Nat
  port     : Nat
  deadline : Option Nat
  since    : Nat
  owner    : Option (Nat × Nat)
  recorder : Bool
  deriving DecidableEq, Repr

/-- Class codes of STRM_WHEEL. -/
def arbCode : ArbClass → Nat
  | .read => 0
  | .write => 1
  | .remote => 2

/-- The deadline of unit `n` of a descriptor (R298). -/
def unitDeadline (v : StrmSlot) (n : Nat) : Option Nat :=
  let w := wAt v.desc 2
  if w.fld 31 16 = 0 then none else some ((v.startC + w.fld 15 0 + n * w.fld 31 16) % 2 ^ 32)

/-- The request of slot `s` of tiller `t` at a point: its oldest unit that waits there. At an engine output the ports that
rotate are the channels (R299), elsewhere they are the tillers. -/
def slotReq (b : Block) (point t s : Nat) : Option ArbReq :=
  let v := slotOf (tl b t) s
  if v.state = .active then
    (v.asked.find? (fun u => decide (u.path.head? = some point))).map (fun u =>
      let ch := (wAt v.desc 0).fld 21 19
      { cls := if farSide v then .write else .read, slot := slotOfT b t, ch := ch, port := if point < 36 then ch else t,
        deadline := unitDeadline v u.n, since := u.since, owner := some (t, s), recorder := false })
  else none

/-- The requests that wait at a point: the tillers' units, and those that come from elsewhere (R297), which no engine output
has. -/
def pointReqs (b : Block) (rem : List RemReq) (point : Nat) : List ArbReq :=
  b.tlr.flatMap (fun e => e.2.slots.filterMap (fun q => slotReq b point e.1 q.1))
  ++ (if point < 36 then [] else rem.map (fun q =>
      { cls := .remote, slot := 0, ch := 0, port := q.port, deadline := some ((q.arr + (frc b Reg.STRM_ARB).fld 11 0) % 2 ^ 32),
        since := q.arr, owner := none, recorder := q.recorder }))

/-- `a - c` as a signed difference of 32-bit cycle counts (R298). -/
def cycDiff (a c : Nat) : Int := sext 32 (subMod 32 a c)

/-- Is a request eligible in earliest-deadline mode at cycle `now`? -/
def edfEligible (now hz : Nat) (q : ArbReq) : Bool :=
  match q.deadline with
  | none => true
  | some d => decide (cycDiff d now ≤ (hz : Int))

/-- Does request `p` go before `q` in earliest-deadline mode (R298)? -/
def edfLt (now : Nat) (p q : ArbReq) : Bool :=
  let tie := decide (arbCode p.cls < arbCode q.cls) || (decide (arbCode p.cls = arbCode q.cls) &&
    (decide (p.slot < q.slot) || (decide (p.slot = q.slot) &&
      (decide (p.ch < q.ch) || (decide (p.ch = q.ch) && decide (p.port < q.port))))))
  match p.deadline, q.deadline with
  | some d, some e => decide (cycDiff d now < cycDiff e now) || (decide (d % 2 ^ 32 = e % 2 ^ 32) && tie)
  | some _, none => true
  | none, some _ => false
  | none, none => tie

/-- The grant of earliest-deadline mode. -/
def edfPick (now hz : Nat) (l : List ArbReq) : Option ArbReq :=
  (sortBy (edfLt now) (l.filter (edfEligible now hz))).head?

/-- The requester of a class after the last port granted, in rotation (R299); of one port the request that has waited longest, then
the lowest channel. -/
def rotPick (l : List ArbReq) (cls last : Nat) : Option ArbReq :=
  let c := sortBy (fun a d => decide (a.port < d.port) || (decide (a.port = d.port) &&
      (decide (a.since < d.since) || (decide (a.since = d.since) && decide (a.ch < d.ch)))))
    (l.filter (fun q => arbCode q.cls = cls))
  match c.find? (fun q => decide (last < q.port)) with
  | some q => some q
  | none => c.head?

/-- The grant of fixed-split mode for the slot of the wheel. `last` gives the last port granted by class. -/
def wheelPick (l : List ArbReq) (code : Nat) (lend : Bool) (last : Nat → Nat) : Option ArbReq :=
  if code = 3 then none
  else match rotPick l code (last code) with
    | some q => some q
    | none => if lend then [0, 1, 2].findSome? (fun c => rotPick l c (last c)) else none

/-- The unit of slot `s` that waits at `point` has passed it. -/
def passPoint (v : StrmSlot) (point now : Nat) : List DUnit → List DUnit
  | [] => []
  | u :: l => if u.path.head? = some point then { u with path := u.path.drop 1, since := now } :: l
              else u :: passPoint v point now l

/-- A glume read that has passed its points sends its request (R405). -/
def sendRead (b : Block) (t s point : Nat) (v : StrmSlot) : Block :=
  match v.asked.find? (fun u => decide (u.path.head? = some point)) with
  | some u =>
    if u.path.length = 1 ∧ farSide v = false ∧ (srcPat v.desc).space = 5 then
      let a := 64 * u.addr
      if bitsOf a 37 32 = devOf b then b
      else
        let r := sendTo b (bitsOf a 37 32) (.glumeRd (bitsOf a 29 24) (bitsOf a 22 21) (a % 2 ^ 21) 64 v.ctx (slotOfT b t) s)
        if r.2 then r.1 else markBad r.1 t s 6
    else b
  | none => b

/-- 64 bytes of the recording queue go to GDDR6 at the write offset (R472). -/
def recDrain (b : Block) : Block :=
  let size := (rg b Reg.DBG_REC_SIZE).toNat * 65536
  let base := (rg b Reg.DBG_REC_BASE_HI).fld 1 0 * 2 ^ 32 + (rg b Reg.DBG_REC_BASE_LO).toNat
  let bytes := b.dbg.queue.flatMap id
  let go := bytes.take 64
  if size = 0 ∨ go = [] then b
  else
    let off := b.dbg.wrOff
    let n1 := min go.length (size - off)
    let b := (gdPut (gdPut b (base + off) (go.take n1)).1 base (go.drop n1)).1
    let e := off + go.length
    { b with dbg := { b.dbg with queue := if bytes.length ≤ 64 then [] else [bytes.drop 64],
                                 wrOff := e % size, wraps := b.dbg.wraps + e / size } }

/-- What a grant does: the unit passes the point; the recording ring takes 64 bytes. -/
def granted (b : Block) (point : Nat) (q : ArbReq) : Block :=
  match q.owner with
  | some (t, s) =>
    let v := slotOf (tl b t) s
    sendRead (setSlot b t s { v with asked := passPoint v point b.pwr.ccy v.asked }) t s point v
  | none => if q.recorder then recDrain b else b

/-- Replace the last port of a class. -/
def putPort (l c p : Nat) : Nat := l - l / 2 ^ (16 * c) % 65536 * 2 ^ (16 * c) + p % 65536 * 2 ^ (16 * c)

/-- ARB_GRANT: a grant opportunity at arbitration point `point`; `rem` are the requests that wait there from outside the
tillers. An engine issues what it can before its output chooses. -/
def arbGrant (rem : List RemReq) (point : Nat) (b : Block) : Block :=
  let b := if point < 36 then issueAll b point else b
  let reqs := pointReqs b rem point
  let m := frc b Reg.STRM_ARB
  let hz := m.fld 11 0
  let st := spGet (fun _ => (0, 0)) b.arb point
  let last := fun c => st.2 / 2 ^ (16 * c) % 65536
  let edf := !m.bit 16
  let now := b.pwr.ccy % 2 ^ 32
  let pick := if edf then edfPick now hz reqs
    else wheelPick reqs ((frc b Reg.STRM_WHEEL).fld (2 * (st.1 % 16) + 1) (2 * (st.1 % 16))) (m.bit 17) last
  let ports := match pick with
    | some q => if edf then st.2 else putPort st.2 (arbCode q.cls) q.port
    | none => st.2
  let elig := if edf then reqs.filter (edfEligible now hz) else reqs
  let b := { b with arb := spPut (fun _ => (0, 0)) b.arb point ((st.1 + 1) % 16, ports) }
  match pick with
  | none => b
  | some q =>
    let b := if 2 ≤ elig.length ∧ elig.any (fun r => decide (r.cls = .remote)) = true then nondet b 0 else b
    granted b point q

/-! ## Moving one unit (R292, R294) -/

/-- The progress of a unit: the block, the next element, the runs of bytes collected for another device, how it ended where it
did not come to its end, the index position read last, the words in error not yet accounted for at the near and the far side, the scratchpad ranges written
(tiller, address, length), the GDDR6 ranges written (address, length), and whether the near element taken last was out of range. -/
structure Mv where
  b    : Block
  e    : Nat
  runs : List (Nat × List Byte)
  fin  : Option Far
  idx  : Option Nat
  near : List (Nat × EccStat)
  far  : List (Nat × EccStat)
  put  : List (Nat × Nat × Nat)
  gput : List (Nat × Nat)
  oor  : Bool
  pins : List (Nat × Word)
  deriving DecidableEq, Repr

/-- Bytes read at a far place; `data` are the bytes of unit `u` that a glume read brought, and `carry` the byte before them. -/
def farRead (b : Block) (f : Far) (a n u : Nat) (data : List Byte) (carry : Byte) : List Byte :=
  match f with
  | .gddr a => gdRd b a n
  | .split a k c => gdRd b a k ++ gdRd b c (n - k)
  | .gran a => grRd b a n
  | .spad t a => spRd b t a n
  | _ => (upFrom a n).map (fun i => if i < 64 * u then carry else (data[i - 64 * u]?).getD 0#8)

/-- Write bytes at a far place of this device. -/
def farWrite (m : Mv) (f : Far) (l : List Byte) : Mv :=
  match f with
  | .gddr a => { m with b := gdStore m.b a l, gput := m.gput ++ [(a, l.length)] }
  | .split a k c => { m with b := gdStore (gdStore m.b a (l.take k)) c (l.drop k),
                             gput := m.gput ++ [(a, k), (c, l.length - k)] }
  | .gran a => { m with b := grWr m.b a l }
  | .spad t a => { m with b := spWr m.b t a l, put := m.put ++ [(t, a, l.length)] }
  | _ => m

/-- Read words of a scratchpad by DMA: the words in error leave the list. -/
def takeSp (b : Block) (t p n : Nat) (l : List (Nat × EccStat)) : Block × Bool × List (Nat × EccStat) :=
  let es := spErrs b t p n l
  let r := spAccount b t es
  (r.1, r.2, l.filter (fun e => !es.any (fun f => decide (f.1 / 4 = e.1 / 4))))

/-- Read bytes of GDDR6 by DMA: the words in error of their units leave the list. -/
def takeGd (b : Block) (a n : Nat) (l : List (Nat × EccStat)) : Block × Bool × List (Nat × EccStat) :=
  let r := memSpan b a n l
  (r.1, r.2, l.filter (fun e => !decide (e.1 / 64 * 64 < a + n ∧ a < (e.1 / 64 + 1) * 64)))

/-- Account for a far-side read of `n` bytes (R255, R273, R484): is some word uncorrectable? -/
def takeFar (b : Block) (f : Far) (n : Nat) (l : List (Nat × EccStat)) : Block × Bool × List (Nat × EccStat) :=
  match f with
  | .gddr a => takeGd b a n l
  | .split a k c =>
    let r := takeGd b a k l
    let q := takeGd r.1 c (n - k) r.2.2
    (q.1, r.2.1 || q.2.1, q.2.2)
  | .gran a =>
    let r := grErrs b [(a, n)] l
    (r.1, decide (r.2 ≠ []), l.filter (fun e => !grIn [(a, n)] e.1))
  | .spad t a => takeSp b t a n l
  | _ => (b, false, l)

/-- The index position of element `e`, on the side that is gathered or scattered. -/
def idxPos (v : StrmSlot) (e : Nat) : Option Nat :=
  match gDim v.desc false, gDim v.desc true with
  | some k, _ => (positions v.desc (srcPat v.desc) (some k) e)[k]?
  | none, some k => (positions v.desc (dstPat v.desc) (some k) e)[k]?
  | none, none => none

/-- The index tensor is read for element `e` (R285, R302): once for each position it comes to. -/
def readIndex (t : Nat) (v : StrmSlot) (m : Mv) : Mv :=
  match idxPos v m.e with
  | none => m
  | some p =>
    if m.idx = some p then m
    else
      let w := wAt v.desc 28
      let n := if w.bit 31 then 4 else 2
      match slotPhys v (w.fld 20 0 + p * n) n with
      | none => { m with idx := some p }
      | some a =>
        let r := takeSp m.b t a n m.near
        { m with b := r.1, idx := some p, near := r.2.2, fin := if r.2.1 then some (.bad 2 0) else m.fin }

/-- Write element `e` to the near side of a DMA read: the own scratchpad or the chain. `pad`: it is padding. -/
def putNear (t s : Nat) (v : StrmSlot) (m : Mv) (val : Nat) (pad : Bool) : Mv :=
  let d := v.desc
  let next := { m with e := m.e + 1 }
  if (dstPat d).space = 6 then
    { next with b := { m.b with chains := m.b.chains.map (fun c =>
        if decide (c.head = slotOfT m.b t) && decide (v.chain = some c.tag) then c.feed (eBits d) val else c) } }
  else
    match sideElem m.b t v true m.e with
    | .at_ a bit =>
      let n := eSpan d bit
      (match slotPhys v (a.toNat % 2 ^ 21) n with
       | none => { m with fin := some (.bad 3 0) }
       | some p =>
         if !rangeOn m.b t p (p + n - 1) then { m with b := bankOffEvt m.b t, fin := some (.bad 5 0) }
         else if pad && sbHit ((tl m.b t).sb.filter (·.write)) (some (.stream s)) p (p + n - 1) true then
           { next with b := raiseOnce (bump m.b (Reg.STRM_CNT_PAD_SKIP t) 1) 0x7A t t }
         else
           let b := if scatDup m.b t v true m.e then dupEvt m.b t else m.b
           { next with b := spWr b t p (ePut d bit (spRd b t p n) val), put := m.put ++ [(t, p, n)] })
    | _ => { next with b := oorEvt m.b t }

/-- Move one element in: far source, near destination. -/
def moveIn (t s : Nat) (v : StrmSlot) (u : Nat) (data : List Byte) (m : Mv) : Mv :=
  let d := v.desc
  match sideElem m.b t v false m.e with
  | .pad => putNear t s v m (padVal d) true
  | .oor => putNear t s v { m with b := oorEvt m.b t } (padVal d) false
  | .at_ a bit =>
    let n := eSpan d bit
    let f := farAt m.b t v (srcPat d).space a n false ⟨m.far, m.pins⟩
    match f.2 with
    | .bad c ev => { m with b := f.1, fin := some (.bad c ev) }
    | .halt fa => { m with b := f.1, fin := some (.halt fa) }
    | far =>
      let r := takeFar f.1 far n m.far
      if r.2.1 then { m with b := r.1, fin := some (.bad 2 0) }
      else putNear t s v { m with b := r.1, far := r.2.2 } (eGet d bit (farRead r.1 far a.toNat n u data v.carry)) false

/-- The value of element `e` of the near source of a DMA write; none where it cannot be had. One that is out of range counts when
it is delivered. -/
def getNear (t : Nat) (v : StrmSlot) (m : Mv) (e : Nat) : Mv × Option Nat :=
  let d := v.desc
  let m := { m with oor := false }
  match sideElem m.b t v false e with
  | .at_ p bit =>
    let n := eSpan d bit
    (match slotPhys v (p.toNat % 2 ^ 21) n with
     | none => ({ m with fin := some (.bad 3 0) }, none)
     | some q =>
       if !rangeOn m.b t q (q + n - 1) then ({ m with b := bankOffEvt m.b t, fin := some (.bad 1 0) }, none)
       else
         let r := takeSp m.b t q n m.near
         if r.2.1 then ({ m with b := r.1, fin := some (.bad 2 0) }, none)
         else ({ m with b := r.1, near := r.2.2 }, some (eGet d bit (spRd r.1 t q n))))
  | _ => ({ m with oor := true }, some (padVal d))

/-- Add the bytes of an element at `a` that lie in unit `u` to the runs of adjacent bytes collected for another device. -/
def addRun (d : List Word) (u a bit val : Nat) (runs : List (Nat × List Byte)) : List (Nat × List Byte) :=
  let n := eSpan d bit
  let cut := fun (s : Nat) (l : List Byte) => (max s (64 * u), (l.drop (64 * u - s)).take (64 * (u + 1) - max s (64 * u)))
  match runs.getLast? with
  | some (s, l) =>
    if s ≤ a ∧ a ≤ s + l.length then
      let o := a - s
      let old := (l ++ List.replicate n 0#8).drop o |>.take n
      runs.dropLast ++ [cut s (l.take o ++ ePut d bit old val ++ l.drop (o + n))]
    else runs ++ [cut a (ePut d bit (List.replicate n 0#8) val)]
  | none => [cut a (ePut d bit (List.replicate n 0#8) val)]

/-- Move one element out: near source, far destination. -/
def moveOut (t : Nat) (v : StrmSlot) (u : Nat) (m : Mv) : Mv :=
  let d := v.desc
  match sideElem m.b t v true m.e with
  | .oor => { m with b := oorEvt m.b t, e := m.e + 1 }
  | .pad => { m with e := m.e + 1 }
  | .at_ a bit =>
    let r := getNear t v m m.e
    match r.2 with
    | none => r.1
    | some x =>
      let m := r.1
      let n := eSpan d bit
      let f := farAt m.b t v (dstPat d).space a n true ⟨m.far, m.pins⟩
      let b := if scatDup f.1 t v true m.e then dupEvt f.1 t else f.1
      let b := if m.oor then oorEvt b t else b
      match f.2 with
      | .bad c ev => { m with b := f.1, fin := some (.bad c ev) }
      | .halt fa => { m with b := f.1, fin := some (.halt fa) }
      | .glume .. | .panicle .. => { m with b := b, e := m.e + 1, runs := addRun d u a.toNat bit x m.runs }
      | far => farWrite { m with b := b, e := m.e + 1 } far (ePut d bit (farRead b far a.toNat n u [] 0#8) x)

/-- Elements of one unit, up to element `fin`; `n` bounds them. -/
def moveTo (t s : Nat) (v : StrmSlot) (u fin : Nat) (data : List Byte) : Nat → Mv → Mv
  | 0, m => m
  | n + 1, m =>
    if m.fin.isSome ∨ fin ≤ m.e then m
    else
      let m := readIndex t v m
      if m.fin.isSome then m
      else moveTo t s v u fin data n (if farSide v then moveOut t v u m else moveIn t s v u data m)

/-- The first byte of the element after those that a unit for another device completes goes with it. -/
def moveTail (t : Nat) (v : StrmSlot) (u : DUnit) (m : Mv) : Mv :=
  if u.tail && farSide v && decide (farSpace v = 5) && m.fin.isNone then
    match sideElem m.b t v true m.e with
    | .at_ a bit =>
      let r := getNear t v m m.e
      (match r.2, (farAt r.1.b t v 5 a (eSpan v.desc bit) true FarIn.none).2 with
       | some x, .glume .. => { r.1 with runs := addRun v.desc u.addr a.toNat bit x r.1.runs }
       | some x, .panicle .. => { r.1 with runs := addRun v.desc u.addr a.toNat bit x r.1.runs }
       | _, _ => m)
    | _ => m
  else m

/-- The notifications that ride on elements before `e` and have not been applied (R294): how many, and the slot marked. -/
def dueNotifs (v : StrmSlot) (e : Nat) : Nat × StrmSlot :=
  let n := elemCount v.desc
  let h := (wAt v.desc 1).bit 30 && !v.half && decide ((n + 1) / 2 ≤ e)
  let f := (wAt v.desc 1).bit 31 && !v.full && decide (n ≤ e)
  (b2n h + b2n f, { v with half := v.half || h, full := v.full || f })

/-- The resume record of a halt (R303). POS_d are the positions on the faulting side (DESIGN CHOICE, log entry 22). -/
def resumeRec (v : StrmSlot) (e : Nat) (side : Bool) (fa : Nat) : List Word :=
  let p := if side then dstPat v.desc else srcPat v.desc
  ((positions v.desc p (gDim v.desc side) e).map wd)
  ++ [wd e, wd fa, wd (b2n side * 2 ^ 16 + fa / 2 ^ 32 % 65536)]

/-- A translation halt (R303) at address `fa`: what has been asked for beyond the position is discarded. -/
def haltSlot (b : Block) (t s e fa : Nat) (errs : List (Nat × EccStat)) : Block :=
  let v := slotOf (tl b t) s
  let rec_ := resumeRec v e (farSide v) fa
  let b := match slotPhys v ((wAt v.desc 30).fld 20 0) 32 with
    | some p => spWrite b t p (wordBytes rec_) errs
    | none => b
  let b := setRg (setRg b (Reg.DMA_XLATE_LO t) (wAt rec_ 6)) (Reg.DMA_XLATE_HI t) (wAt rec_ 7)
  let b := setSlot b t s { slotOf (tl b t) s with
    state := .halted, askE := e, askT := false, askN := ((v.asked.head?).map DUnit.n).getD v.askN, asked := [] }
  chStat (raise (bump b (Reg.DMA_CNT_XLATE t) 1) 0x79 t) t

/-- Send one run of bytes to another device, with `n` notifications that ride on it (R319, R405, R406). The second part: the cause with
which the descriptor becomes bad, 6 where the device is unreachable. -/
def sendRun (b : Block) (t s : Nat) (v : StrmSlot) (r : Nat × List Byte) (n : Nat) (first last : Bool)
    (errs : List (Nat × EccStat)) : Block × Option Nat :=
  let k := (wAt v.desc 1).fld 29 24 + 1
  if nbit r.1 47 then
    panicleSend b (bitsOf r.1 43 40) (r.1 % 2 ^ 21) r.2 first last (List.replicate n k) (pnOwn b t v) (slotOfT b t) s errs
  else
    let q := sendTo b (bitsOf r.1 37 32) (.glumeWr (bitsOf r.1 29 24) (bitsOf r.1 22 21) (r.1 % 2 ^ 21) r.2 v.ctx
      (List.replicate n ((wAt v.desc 1).fld 9 0, k)) (slotOfT b t) s)
    (q.1, if q.2 then none else some 6)

/-- Send the runs of a unit, one packet each; the notifications ride on the last. `first` and `last`: the transfer begins, or ends,
with them. -/
def sendRuns (t s : Nat) (v : StrmSlot) (n : Nat) (last : Bool) (errs : List (Nat × EccStat)) :
    Bool → List (Nat × List Byte) → Block → Block × Option Nat
  | _, [], b => (b, none)
  | first, [r], b => sendRun b t s v r n first last errs
  | first, r :: l, b =>
    let q := sendRun b t s v r 0 first false errs
    if q.2.isNone then sendRuns t s v n last errs false l q.1 else q

/-- After the writes of a unit: the words it wrote in each scratchpad are settled (R256). -/
def settlePuts (b : Block) (put : List (Nat × Nat × Nat)) (errs : List (Nat × EccStat)) : Block :=
  ((put.map Prod.fst).eraseDups).foldl (fun b q =>
    spSettle b q ((put.filter (fun e => decide (e.1 = q))).map (fun e => (e.2.1, e.2.2))) errs) b

/-- Is the destination in another device? Its address, where it is. -/
def awayBase (b : Block) (v : StrmSlot) : Option Nat :=
  let a := sideBase (dstPat v.desc)
  if farSide v = true ∧ farSpace v = 5 ∧ (nbit a 47 = true ∨ bitsOf a 37 32 ≠ devOf b) then some a else none

/-- Notifications of elements that sent nothing, or that were written on this device: to another device they go in a packet with
no data (R314). -/
def restNotifs (b : Block) (t s : Nat) (v : StrmSlot) (n : Nat) (first last : Bool) : Block × Option Nat :=
  match awayBase b v with
  | none => ((upFrom 0 n).foldl (fun b _ => notify b t v) b, none)
  | some a => if n = 0 ∧ (last && nbit a 47) = false then (b, none) else sendRun b t s v (a, []) n first last []

/-- The unit that a descriptor moves next: the oldest that has passed its points; one that is only padding and elements that are not
there needs none. -/
def readyUnit (b : Block) (t : Nat) (v : StrmSlot) : Option DUnit :=
  match v.asked with
  | u :: _ => if u.path = [] then some u else none
  | [] =>
    let n := elemCount v.desc
    if (nextElem b t v v.pos (n - v.pos)).isNone then some ⟨v.askN, 0, v.pos, n, false, [], 0, []⟩ else none

/-- The GDDR6 bytes of a written unit that belong to the element after those it completes: they are written with it (R484). -/
def tailPut (b : Block) (t : Nat) (v : StrmSlot) (u : DUnit) (e : Nat) : List (Nat × Nat) :=
  if u.tail && farSide v then
    match sideElem b t v true e with
    | .at_ a _ =>
      let k := 64 * (u.addr + 1) - a.toNat
      (match (farAt b t v (farSpace v) a k true ⟨[], u.pins⟩).2 with | .gddr g => [(g, k)] | _ => [])
    | _ => []
  else []

/-- DMA_UNIT_DONE: the next far-side unit of an active descriptor returns or is written (R292): its elements reach the destination
in order, notifications ride on their elements, and its 64 bytes of the staging buffer come free. `near` and `far` are the words
in error that it met in the own scratchpad and at the far side, `data` the bytes that a glume read brings. -/
def dmaUnit (b : Block) (t s : Nat) (near far : List (Nat × EccStat)) (data : List Byte) : Block :=
  let v := slotOf (tl b t) s
  let n := elemCount v.desc
  if v.state ≠ .active ∨ n ≤ v.pos ∨ ((dstPat v.desc).space = 6 ∧ dKind v.desc = 2 ∧ v.chain = none) then b
  else match readyUnit b t v with
    | none => b
    | some u =>
      let m := moveTail t v u (moveTo t s v u.addr u.fin data (u.fin - v.pos)
        { b := b, e := v.pos, runs := [], fin := none, idx := none, near := near, far := far, put := [], gput := [], oor := false,
          pins := u.pins })
      let b := settlePuts m.b m.put (if farSide v then far else near)
      let b := gdSettle b (if m.fin.isNone then m.gput ++ tailPut m.b t v u m.e else m.gput)
      let d := dueNotifs { v with
        pos := m.e, asked := v.asked.drop 1, carry := (data[63]?).getD 0#8, began := v.began || decide (m.runs ≠ []) } m.e
      let b := setSlot b t s (match m.fin with | some (.halt _) => { d.2 with asked := v.asked } | _ => d.2)
      let last := decide (n ≤ m.e)
      let sent := if m.runs = [] then restNotifs b t s v d.1 (!v.began) last
        else sendRuns t s v d.1 last far (!v.began) m.runs b
      match sent.2, m.fin with
      | some c, _ => markBad sent.1 t s c
      | none, some (.bad c ev) => markBad (farEvents sent.1 t v ev) t s c
      | none, some (.halt fa) => haltSlot sent.1 t s m.e fa near
      | none, _ => sent.1

/-! ## Translations in progress (R489) -/

/-- The entry with which a translation of a page goes on that is in progress: that of the tiller's cache, else that of memory. -/
def ptNow (b : Block) (t c page : Nat) : Word :=
  match (tl b t).tlb.find? (fun e => e.ctx = c && e.page = page) with
  | some e => e.word
  | none => rdWord b.mems.gddr (ptAddr b c page)

/-- A unit that has been asked for keeps the entries of its page and of the unit before it, in whose page its first element may
begin. -/
def pinUnit (b : Block) (t c : Nat) (u : DUnit) : DUnit :=
  let held := fun (p : Nat) => u.pins.any (fun e => decide (e.1 = p))
  let pages := [u.addr / 1024, (u.addr - 1) / 1024].eraseDups.filter (fun p => !held p)
  { u with pins := u.pins ++ pages.map (fun p => (p, ptNow b t c p)) }

/-- The units of tiller `t` whose PAGED translation is in progress, of the contexts that `has` names, keep their entries. -/
def pinUnits (has : Nat → Bool) (b : Block) (t : Nat) : Block :=
  let x := tl b t
  setTl b t { x with slots := x.slots.map (fun e =>
    if decide (e.2.state = .active ∧ farSpace e.2 = 3) && has e.2.ctx then
      (e.1, { e.2 with asked := e.2.asked.map (pinUnit b t e.2.ctx) }) else e) }

/-! ## Write-drain counters (R490, R509) -/

/-- Far places of the write units reserved in staging shares. -/
def reservedWrites (b : Block) : List Far :=
  b.tlr.flatMap (fun e => e.2.slots.flatMap (fun q =>
    if q.2.state = .active ∧ farSide q.2 = true then
      q.2.asked.map (fun u => (farAt b e.1 q.2 (farSpace q.2) ((64 * u.addr : Nat) : Int) 1 true ⟨[], u.pins⟩).2)
    else []))

/-- The write-drain counter of a region is zero (R490). -/
def regionDrained (b : Block) (r : Nat) : Bool :=
  (reservedWrites b).all (fun f => match f with
    | .gddr a => !decide (a / 2 ^ 30 = r)
    | _ => true)

/-- REGION_OFF: a PENDING region has drained (R490). -/
def regionOff (r : Nat) (b : Block) : Block :=
  if r < 15 ∧ regionSt b r = 1 ∧ regionDrained b r = true then
    raise (setF b Reg.MEM_PD_STAT (2 * r + 1) (2 * r) 2) 0xCB r
  else b

/-- The write-drain counter of a bank group is zero and no scoreboard entry of its tiller overlaps it (R509). -/
def grpDrained (b : Block) (t g : Nat) : Bool :=
  (reservedWrites b).all (fun f => match f with
    | .spad q a => !(decide (q = t) && meetsGrp a (a + 63) g)
    | _ => true) &&
  (tl b t).sb.all (fun e => !meetsGrp e.lo e.hi g)

/-- BANK_GROUP_OFF: a PENDING group has drained (R509). -/
def grpOff (t g : Nat) (b : Block) : Block :=
  if t < 36 ∧ g < 4 ∧ grpSt b t g = 1 ∧ grpDrained b t g = true then raise (setGrp b t g 2) 0xD2 (grpArg t g) else b

/-- DMA_COMPLETE (R295): the last element has been written; entries are released and the next descriptor may start. -/
def dmaComplete (t slot : Nat) (b : Block) : Block :=
  let v := slotOf (tl b t) slot
  if v.state = .active ∧ elemCount v.desc ≤ v.pos then
    let b := dequeue (setTl b t (sbFree (tl b t) (.stream slot))) t slot
    chStat (setSlot b t slot { slotOf (tl b t) slot with state := .done, chain := none }) t
  else b

end Sys2Proof.Machine
end

