-- ==== Sys2Proof/Machine/Float.lean ====
section
/-! DEFINITION. Number formats, rounding and conversion (spec/10_number_formats.md R235 to R248): exact dyadic values,
one rounding to nearest even, the thirteen formats, FP32 arithmetic and the correctly rounded special functions of R214. -/

namespace Sys2Proof.Machine

/-- The exact value of a number: NaN, an infinity, or `±m × 2^e` (R237). -/
inductive FVal where
  | nan
  | inf (neg : Bool)
  | fin (neg : Bool) (m : Nat) (e : Int)
  deriving DecidableEq, Repr

/-- A floating-point format of R237: mantissa bits, exponent bits, bias, largest finite encoding without its sign,
whether it has infinities, and its canonical NaN. -/
structure FltFmt where
  mant   : Nat
  expo   : Nat
  bias   : Int
  maxEnc : Nat
  hasInf : Bool
  cnan   : Nat
  deriving DecidableEq, Repr

/-- The rows of R237's table. -/
def fmtE4M3 : FltFmt := ⟨3, 4, 7, 0x7E, false, 0x7F⟩
/-- FP8-E5M2. -/
def fmtE5M2 : FltFmt := ⟨2, 5, 15, 0x7B, true, 0x7E⟩
/-- FP16. -/
def fmtFP16 : FltFmt := ⟨10, 5, 15, 0x7BFF, true, 0x7E00⟩
/-- BF16. -/
def fmtBF16 : FltFmt := ⟨7, 8, 127, 0x7F7F, true, 0x7FC0⟩
/-- FP32. -/
def fmtFP32 : FltFmt := ⟨23, 8, 127, 0x7F7FFFFF, true, 0x7FC00000⟩

/-- The exact value of an encoding (R237, R240). -/
def fltDecode (f : FltFmt) (w : Nat) : FVal :=
  let mag := w % 2 ^ (f.mant + f.expo)
  let neg := w / 2 ^ (f.mant + f.expo) % 2 = 1
  let ex := mag / 2 ^ f.mant
  let mt := mag % 2 ^ f.mant
  if mag ≤ f.maxEnc then
    (if ex = 0 then .fin neg mt (1 - f.bias - f.mant)
     else .fin neg (2 ^ f.mant + mt) ((ex : Int) - f.bias - f.mant))
  else if f.hasInf && mt = 0 then .inf neg
  else .nan

/-- Shift right by `s` places, rounding to nearest with ties to even; `sticky` says that the exact value lies
strictly above `m`, by less than one unit (R239). -/
def rneShift (m s : Nat) (sticky : Bool) : Nat :=
  if s = 0 then m
  else
    let q := m / 2 ^ s
    let r := m % 2 ^ s
    let half := 2 ^ (s - 1)
    if r > half || (r = half && (sticky || q % 2 = 1)) then q + 1 else q

/-- The encoding, without its sign and without a bound, of `m × 2^e` rounded once to the format (R239, R240).
The encodings of a format rise with the magnitude, so a carry out of the mantissa is right by itself. -/
def roundMag (f : FltFmt) (m : Nat) (e : Int) (sticky : Bool) : Nat :=
  if m = 0 then 0
  else
    let qmin : Int := 1 - f.bias - f.mant
    let q := max ((Nat.log2 m : Int) + e - f.mant) qmin
    let n := if e ≥ q then m * 2 ^ (e - q).toNat else rneShift m (q - e).toNat sticky
    (q - qmin).toNat * 2 ^ f.mant + n

/-- Put the sign in its place. -/
def withSign (f : FltFmt) (neg : Bool) (mag : Nat) : Nat :=
  if neg then 2 ^ (f.mant + f.expo) + mag else mag

/-- The encoding of an infinity in a format that has one. -/
def infEnc (f : FltFmt) : Nat := f.maxEnc + 1

/-- Round a finite magnitude into a format. `sat`: a result beyond the largest finite value saturates (the FP8 rows of
R242); otherwise it becomes an infinity. -/
def encFin (f : FltFmt) (sat neg : Bool) (m : Nat) (e : Int) (sticky : Bool) : Nat :=
  let r := roundMag f m e sticky
  withSign f neg (if r ≤ f.maxEnc then r else if sat then f.maxEnc else infEnc f)

/-- Round a value into a format (R239, R241, R242). -/
def fltEncode (f : FltFmt) (sat : Bool) : FVal → Nat
  | .nan => f.cnan
  | .inf neg => withSign f neg (if f.hasInf then infEnc f else f.maxEnc)
  | .fin neg m e => encFin f sat neg m e false

/-- The value of an FP32 word. -/
def f32 (w : Word) : FVal := fltDecode fmtFP32 w.toNat

/-- Round a value to FP32. -/
def toF32 (v : FVal) : Word := wd (fltEncode fmtFP32 false v)

/-- The canonical NaN of FP32 (R241). -/
def nan32 : Word := 0x7FC00000#32

/-- An exact product (R241: 0 × ∞ is NaN). -/
def FVal.mul : FVal → FVal → FVal
  | .nan, _ => .nan
  | _, .nan => .nan
  | .inf a, .inf b => .inf (a != b)
  | .inf a, .fin b m _ => if m = 0 then .nan else .inf (a != b)
  | .fin a m _, .inf b => if m = 0 then .nan else .inf (a != b)
  | .fin a m e, .fin b n g => .fin (a != b) (m * n) (e + g)

/-- Change the sign. -/
def FVal.neg : FVal → FVal
  | .nan => .nan
  | .inf a => .inf (!a)
  | .fin a m e => .fin (!a) m e

/-- Is the value NaN? -/
def FVal.isNan : FVal → Bool
  | .nan => true
  | _ => false

/-- Is the value an infinity of the given sign? -/
def FVal.isInf (s : Bool) : FVal → Bool
  | .inf a => a == s
  | _ => false

/-- Is the value a zero with a minus sign? -/
def FVal.isNegZero : FVal → Bool
  | .fin true 0 _ => true
  | _ => false

/-- The least exponent among the finite terms, not above `e0`. -/
def minExp (e0 : Int) : List FVal → Int
  | [] => e0
  | .fin _ _ e :: l => min e (minExp e0 l)
  | _ :: l => minExp e0 l

/-- The sum of the finite terms in units of `2^e`, `e` at most every term's exponent. -/
def sumAt (e : Int) : List FVal → Int
  | [] => 0
  | .fin s m g :: l => (if s then -((m * 2 ^ (g - e).toNat : Nat) : Int) else ((m * 2 ^ (g - e).toNat : Nat) : Int)) + sumAt e l
  | _ :: l => sumAt e l

/-- An integer multiple of `2^e` as a value; zero has sign `zneg`. -/
def ofInt (zneg : Bool) (i : Int) (e : Int) : FVal :=
  if i = 0 then .fin zneg 0 e else .fin (i < 0) i.natAbs e

/-- The exact sum of the terms (R241, R246): NaN where a term is NaN or infinities of both signs meet; an exact zero sum
is +0 unless every term is −0. -/
def sumF (l : List FVal) : FVal :=
  if l.any FVal.isNan || (l.any (FVal.isInf false) && l.any (FVal.isInf true)) then .nan
  else if l.any (FVal.isInf false) then .inf false
  else if l.any (FVal.isInf true) then .inf true
  else
    let e := minExp 0 l
    ofInt (l.all FVal.isNegZero) (sumAt e l) e

/-- FP32 addition. -/
def fAdd (a b : Word) : Word := toF32 (sumF [f32 a, f32 b])
/-- FP32 subtraction. -/
def fSub (a b : Word) : Word := toF32 (sumF [f32 a, (f32 b).neg])
/-- FP32 multiplication. -/
def fMul (a b : Word) : Word := toF32 ((f32 a).mul (f32 b))
/-- FP32 multiply and add with one rounding (R213, R247). -/
def fFma (a b c : Word) : Word := toF32 (sumF [(f32 a).mul (f32 b), f32 c])

/-- A key that orders FP32 words without NaN, −0 below +0. -/
def fKey (w : Word) : Int :=
  if w.toNat < 2 ^ 31 then (w.toNat : Int) else -((w.toNat - 2 ^ 31 : Nat) : Int) - 1

/-- Is the FP32 word a NaN? -/
def isNan32 (w : Word) : Bool := (f32 w).isNan

/-- VMIN (R241): NaN if either operand is; −0 below +0. -/
def fMin (a b : Word) : Word := if isNan32 a || isNan32 b then nan32 else if fKey b < fKey a then b else a
/-- VMAX (R241). -/
def fMax (a b : Word) : Word := if isNan32 a || isNan32 b then nan32 else if fKey a < fKey b then b else a
/-- VABS; a NaN gives the canonical NaN (R241). -/
def fAbs (a : Word) : Word := if isNan32 a then nan32 else wd (a.toNat % 2 ^ 31)
/-- VNEG; a NaN gives the canonical NaN (R241). -/
def fNeg (a : Word) : Word :=
  if isNan32 a then nan32 else if a.toNat < 2 ^ 31 then wd (a.toNat + 2 ^ 31) else wd (a.toNat - 2 ^ 31)

/-! ## Special functions (R214): the FP32 value nearest to the exact result -/

/-- Add the powers `2^i`, …, `2^0` to the root while its square stays at most `n`. -/
def isqrtAux (n : Nat) : Nat → Nat → Nat
  | 0, r => if (r + 1) * (r + 1) ≤ n then r + 1 else r
  | i + 1, r => isqrtAux n i (if (r + 2 ^ (i + 1)) * (r + 2 ^ (i + 1)) ≤ n then r + 2 ^ (i + 1) else r)

/-- The integer square root. -/
def isqrt (n : Nat) : Nat := isqrtAux n (Nat.log2 n / 2 + 1) 0

/-- VRCP. 1 ÷ ±0 is ±∞ and 1 ÷ ±∞ is ±0 (IEEE 754, R241). -/
def fRcp (a : Word) : Word :=
  match f32 a with
  | .nan => nan32
  | .inf s => toF32 (.fin s 0 0)
  | .fin s m e =>
    if m = 0 then toF32 (.inf s)
    else
      let k := Nat.log2 m + 48
      wd (encFin fmtFP32 false s (2 ^ k / m) (-(k : Int) - e) (2 ^ k % m ≠ 0))

/-- VSQRT. The root of −0 is −0; of another negative value NaN (IEEE 754, R241). -/
def fSqrt (a : Word) : Word :=
  match f32 a with
  | .nan => nan32
  | .inf s => if s then nan32 else toF32 (.inf false)
  | .fin s m e =>
    if m = 0 then a
    else if s then nan32
    else
      let sh := 64 + (e % 2).toNat
      let n := m * 2 ^ sh
      let r := isqrt n
      wd (encFin fmtFP32 false false r ((e - sh) / 2) (r * r ≠ n))

/-- VRSQRT. Of ±0 it is ±∞, of +∞ it is +0, of a negative value NaN (IEEE 754, R241). -/
def fRsqrt (a : Word) : Word :=
  match f32 a with
  | .nan => nan32
  | .inf s => if s then nan32 else toF32 (.fin false 0 0)
  | .fin s m e =>
    if m = 0 then toF32 (.inf s)
    else if s then nan32
    else
      let n := m * 2 ^ (e % 2).toNat
      let g := (e - e % 2) / 2
      let k := Nat.log2 n / 2 + 48
      let q := isqrt (2 ^ (2 * k) / n)
      wd (encFin fmtFP32 false false q (-(k : Int) - g) (q * q * n ≠ 2 ^ (2 * k)))

/-- ln 2 in units of 2^-224, rounded down. -/
def ln2Fix : Nat := 0xb17217f7d1cf79abc9e3b39803f2f6af40f343267298b62d8a0d175b

/-- `t + t·y/i + t·y²/(i(i+1)) + …`, in units of 2^-224. -/
def expSeries (y : Nat) : Nat → Nat → Nat → Nat
  | 0, _, _ => 0
  | n + 1, i, t => t + expSeries y n (i + 1) (t * y / 2 ^ 224 / i)

/-- VEXP2. The fractional power is summed to more than 150 bits before the one rounding. -/
def fExp2 (a : Word) : Word :=
  match f32 a with
  | .nan => nan32
  | .inf s => if s then 0#32 else toF32 (.inf false)
  | .fin s m e =>
    if m = 0 then 0x3F800000#32
    else
      let mag := if e ≥ 9 then 2 ^ 40 * 2 ^ 224 else m * 2 ^ (e + 224).toNat
      if mag ≥ 256 * 2 ^ 224 then (if s then 0#32 else toF32 (.inf false))
      else
        let x : Int := if s then -(mag : Int) else (mag : Int)
        let n := asr x 224
        let f := (x - n * ((2 ^ 224 : Nat) : Int)).toNat
        let y := f * ln2Fix / 2 ^ 224
        let v := expSeries y 60 1 (2 ^ 224) / 2 ^ 48
        wd (encFin fmtFP32 false false v (n - 176) (f ≠ 0))

/-- VEXP: VEXP2 of the rounded FP32 product with 0x3FB8_AA3B (R214). -/
def fExp (a : Word) : Word := fExp2 (fMul a 0x3FB8AA3B#32)

/-! ## The thirteen formats and VCVT (R235 to R244) -/

/-- The float format of a format code of R206, if it is one. -/
def fltOf (c : Nat) : Option FltFmt :=
  if c = 7 then some fmtE4M3 else if c = 8 then some fmtE5M2 else if c = 9 then some fmtFP16
  else if c = 10 then some fmtBF16 else if c = 11 then some fmtFP32 else none

/-- Bits of one element of a format (R235); BS8 counts its element byte. -/
def fmtBits (c : Nat) : Nat :=
  if c = 2 then 4 else if c = 3 then 12 else if c = 4 ∨ c = 5 ∨ c = 9 ∨ c = 10 then 16
  else if c = 6 ∨ c = 11 then 32 else 8

/-- The range of an integer format (R235). -/
def intRange (c : Nat) : Int × Int :=
  if c = 0 then (0, 255) else if c = 1 then (-128, 127) else if c = 2 then (-8, 7)
  else if c = 3 then (0, 4095) else if c = 4 then (0, 65535) else if c = 5 then (-32768, 32767)
  else (-2147483648, 2147483647)

/-- Is the integer format signed? -/
def intSigned (c : Nat) : Bool := c = 1 || c = 2 || c = 5 || c = 6

/-- An element of an integer format as an integer. -/
def intDecode (c w : Nat) : Int :=
  if intSigned c then sext (fmtBits c) w else ((w % 2 ^ fmtBits c : Nat) : Int)

/-- The exact value of an element that is not BS8. -/
def elemVal (c w : Nat) : FVal :=
  match fltOf c with
  | some f => fltDecode f w
  | none => ofInt false (intDecode c w) 0

/-- A value rounded to nearest even to an integer (R242). -/
def roundInt (neg : Bool) (m : Nat) (e : Int) : Int :=
  let r : Nat := if e ≥ 0 then m * 2 ^ e.toNat else rneShift m (-e).toNat false
  if neg then -(r : Int) else r

/-- Conversion of an exact value into a format other than BS8 (R242), as the element's bits. -/
def cvtTo (c : Nat) (v : FVal) : Nat :=
  match fltOf c with
  | some f => fltEncode f (c = 7 ∨ c = 8) v
  | none =>
    let (lo, hi) := intRange c
    let i : Int := match v with
      | .nan => 0
      | .inf s => if s then lo else hi
      | .fin s m e => clampI lo hi (roundInt s m e)
    wrapN (fmtBits c) i

/-- The exact value of a BS8 element with exponent byte `E` (R238). -/
def bs8Val (E m : Nat) : FVal :=
  if E = 255 then .nan else ofInt false (sext 8 m) ((E : Int) - 127)

/-- A zero is +0. -/
def posZero : FVal → FVal
  | .fin _ 0 e => .fin false 0 e
  | v => v

/-- Is the value not finite? -/
def FVal.bad : FVal → Bool
  | .fin .. => false
  | _ => true

/-- Floor of log2 of a value's magnitude, where it is not zero. -/
def FVal.log2? : FVal → Option Int
  | .fin _ m e => if m = 0 then none else some ((Nat.log2 m : Int) + e)
  | _ => none

/-- The largest of the logarithms. -/
def maxLog : List FVal → Option Int
  | [] => none
  | v :: l => match v.log2?, maxLog l with
    | none, r => r
    | some a, none => some a
    | some a, some b => some (max a b)

/-- Conversion of one block of 32 values to BS8 (R243): the exponent byte and the elements. `live` are the values of
enabled lanes, which alone fix the exponent; where there is none the exponent byte is 0 (DESIGN CHOICE, log entry 81). -/
def bs8Block (live vals : List FVal) : Nat × List Nat :=
  if live.any FVal.bad then (255, vals.map (fun _ => 0))
  else match maxLog live with
    | none => (0, vals.map (fun _ => 0))
    | some e =>
      let E := (clampI 0 254 (e - 6 + 127)).toNat
      (E, vals.map (fun v => match v with
        | .fin s m g => wrapN 8 (clampI (-127) 127 (roundInt s m (g - ((E : Int) - 127))))
        | _ => 0))

end Sys2Proof.Machine
end

