-- ==== Sys2Proof/Machine/Vector.lean ====
section
/-! DEFINITION. The vector unit (spec/09 R212 to R215, spec/10 R239 to R244) and the transposition tile (R217). -/

namespace Sys2Proof.Machine

/-! ## Lane arithmetic (R213, R214) -/

/-- FP32 operations of two operands. -/
def fpOp (o : FpOp) (a c : Word) : Word :=
  match o with
  | .add => fAdd a c
  | .sub => fSub a c
  | .mul => fMul a c
  | .min => fMin a c
  | .max => fMax a c

/-- An exact integer result: wrapped modulo 2^32, or saturated to S32 in the form with suffix .S (R213; the range is a
DESIGN CHOICE, log entry 19). -/
def intFit (sat : Bool) (i : Int) : Word :=
  if sat then wd (wrapN 32 (clampI (-2147483648) 2147483647 i)) else wd (wrapN 32 i)

/-- Integer and logic operations. The result of a shift by 32 or more, and of a right shift of a word whose top bit is 1, are not
stated (log entries 3, 19). -/
def intOp (o : IntOp) (sat : Bool) (a c : Word) : Word :=
  let fr := fun (k : Nat) => Config.openWord [k, b2n sat, a.toNat, c.toNat]
  match o with
  | .add => intFit sat (a.s32 + c.s32)
  | .sub => intFit sat (a.s32 - c.s32)
  | .mul => intFit sat (a.s32 * c.s32)
  | .and => a &&& c
  | .or => a ||| c
  | .xor => a ^^^ c
  | .shl => if c.toNat < 32 then intFit sat (a.s32 * ((2 ^ c.toNat : Nat) : Int)) else fr 0
  | .shr => if c.toNat = 0 then a else if c.toNat < 32 ∧ a.toNat < 2 ^ 31 then a >>> c.toNat else fr 1

/-- Comparisons. DESIGN CHOICE, log entry 80: R213 names VCMP without its conditions. -/
def cmpOp (o : CmpOp) (a c : Word) : Bool :=
  match o with
  | .eq => decide (a = c)
  | .ne => decide (a ≠ c)
  | .lt => decide (a.s32 < c.s32)
  | .le => decide (a.s32 ≤ c.s32)
  | .ltu => decide (a.toNat < c.toNat)
  | .leu => decide (a.toNat ≤ c.toNat)

/-- VSEL of a lane. -/
def selOp (k a c : Word) : Word :=
  if k = Config.cmpWord true then a else if k = Config.cmpWord false then c
  else if Config.selFirst k then a else c

/-- Special functions. -/
def sfuOp (o : SfuOp) (a : Word) : Word :=
  match o with
  | .exp => fExp a
  | .exp2 => fExp2 a
  | .rcp => fRcp a
  | .rsqrt => fRsqrt a
  | .sqrt => fSqrt a

/-- One level of the tree of R215: lanes 2i and 2i + 1. -/
def pairUp (f : Word → Word → Word) : List Word → List Word
  | a :: c :: l => f a c :: pairUp f l
  | l => l

/-- Six levels. -/
def tree6 (f : Word → Word → Word) (l : List Word) : Word :=
  ((pairUp f (pairUp f (pairUp f (pairUp f (pairUp f (pairUp f l)))))).headD 0#32)

/-- Reductions (R215): disabled lanes contribute +0.0, −∞ or +∞. -/
def redOp (o : RedOp) (x : Tiller) (r : Nat) : Word :=
  let lanes := fun (dflt : Word) => (upFrom 0 64).map (fun l => if vOn x l then vLane x r l else dflt)
  match o with
  | .sum => tree6 fAdd (lanes 0#32)
  | .max => tree6 fMax (lanes 0xFF800000#32)
  | .min => tree6 fMin (lanes 0x7F800000#32)

/-! ## VCVT (R242 to R244) -/

/-- A vector register as one number, lane 0 lowest. -/
def vNum : List Word → Nat
  | [] => 0
  | w :: l => w.toNat + 2 ^ 32 * vNum l

/-- The exact value of element `i` of a packed register image. -/
def packedVal (src img i : Nat) : FVal :=
  if src = 12 then bs8Val (img / 2 ^ (512 + 8 * (i / 32)) % 256) (img / 2 ^ (8 * i) % 256)
  else elemVal src (img / 2 ^ (fmtBits src * i) % 2 ^ fmtBits src)

/-- Replace bits `at_` to `at_ + n - 1` of a number. -/
def putBits (img at_ n v : Nat) : Nat := img - img / 2 ^ at_ % 2 ^ n * 2 ^ at_ + v % 2 ^ n * 2 ^ at_

/-- The destination image of VCVT: `on` tells the enabled lanes. Of lane 16, which holds the two exponents of a BS8 result, bits
31:16 become 0 (DESIGN CHOICE, log entry 82). -/
def cvtImage (dst old : Nat) (on : Nat → Bool) (vals : List FVal) : Nat :=
  let idx := upFrom 0 64
  if dst = 12 then
    let blk := fun g => (idx.zip vals).filter (fun e => decide (e.1 / 32 = g))
    let res := fun g => bs8Block (((blk g).filter (fun e => on e.1)).map Prod.snd) ((blk g).map Prod.snd)
    let els := (res 0).2 ++ (res 1).2
    let img := (idx.zip els).foldl (fun m e => if on e.1 then putBits m (8 * e.1) 8 e.2 else m) (old % 2 ^ 512)
    img + (res 0).1 * 2 ^ 512 + (res 1).1 * 2 ^ 520
  else
    (idx.zip vals).foldl (fun m e => if on e.1 then putBits m (fmtBits dst * e.1) (fmtBits dst) (cvtTo dst e.2) else m)
      (old % 2 ^ (64 * fmtBits dst))

/-- All 64 lanes of the destination of VCVT. -/
def vcvt (x : Tiller) (src dst vd va : Nat) : List (Nat × Word) :=
  let simg := vNum (vRead x va)
  let img := cvtImage dst (vNum (vRead x vd)) (vOn x) ((upFrom 0 64).map (packedVal src simg))
  (upFrom 0 64).map (fun l => (l, wd (img / 2 ^ (32 * l))))

/-! ## Bundles (R212) -/

/-- The vector register that an instruction writes. -/
def vDest : VInsn → Option Nat
  | .fp _ d _ _ | .fma d _ _ _ | .abs d _ | .neg d _ | .int _ _ d _ _ | .cmp _ d _ _ | .sel d _ _ _ | .cvt _ _ d _
  | .red _ d _ | .sfu _ d _ | .ld d _ | .acc d _ => some d
  | .st _ _ | .mask _ => none

/-- The class of an instruction: 0 arithmetic, integer or conversion; 1 reduction or special function; 2 memory;
3 predicate. -/
def vCls : VInsn → Nat
  | .red .. | .sfu .. => 1
  | .ld .. | .st .. | .acc .. => 2
  | .mask _ => 3
  | _ => 0

/-- Do the members repeat none? -/
def noDup : List Nat → Bool
  | [] => true
  | a :: l => !l.contains a && noDup l

/-- Is a bundle admitted (R212)? A format code that R206 reserves is refused in the same way. -/
def bundleOk (l : List VInsn) : Bool :=
  let n := fun c => (l.filter (fun i => vCls i = c)).length
  decide (n 0 ≤ 4 ∧ n 1 ≤ 1 ∧ n 2 ≤ 1 ∧ n 3 ≤ 1 ∧ n 0 + n 1 + n 2 ≤ 4) && noDup (l.filterMap vDest |>.map (· % 32))
    && l.all (fun i => match i with | .cvt s d _ _ => decide (s < 13 ∧ d < 13) | _ => true)

/-- Enabled lanes of a function of the lane. -/
def onLanes (x : Tiller) (f : Nat → Word) : List (Nat × Word) :=
  ((upFrom 0 64).filter (vOn x)).map (fun l => (l, f l))

/-- What an instruction that is not a memory or predicate one writes, from the registers as they stood before the
bundle. -/
def vResult (x : Tiller) : VInsn → List (Nat × Word)
  | .fp o _ a c => onLanes x (fun l => fpOp o (vLane x a l) (vLane x c l))
  | .fma _ a c d => onLanes x (fun l => fFma (vLane x a l) (vLane x c l) (vLane x d l))
  | .abs _ a => onLanes x (fun l => fAbs (vLane x a l))
  | .neg _ a => onLanes x (fun l => fNeg (vLane x a l))
  | .int o s _ a c => onLanes x (fun l => intOp o s (vLane x a l) (vLane x c l))
  | .cmp o _ a c => onLanes x (fun l => Config.cmpWord (cmpOp o (vLane x a l) (vLane x c l)))
  | .sel _ a c d => onLanes x (fun l => selOp (vLane x d l) (vLane x a l) (vLane x c l))
  | .cvt s d vd a => vcvt x s d vd a
  -- the destination of a reduction is every enabled lane (DESIGN CHOICE, log entry 19)
  | .red o _ a => onLanes x (fun _ => redOp o x a)
  | .sfu o _ a => onLanes x (fun l => sfuOp o (vLane x a l))
  | .acc _ r => onLanes x (fun l => accAt x ((xReg x r).toNat % 1024) l)
  | .ld .. | .st .. | .mask _ => []

/-- Write back one instruction of a bundle. `x0` is the tiller before the bundle, `p` the physical address of its memory
operand. -/
def vCommit (t p : Nat) (x0 : Tiller) (b : Block) (i : VInsn) : Block :=
  match i with
  | .ld d _ =>
    let ws := rdWords b.mems.spad (t * 2 ^ 21 + p) 64
    setTl b t (vWrite (tl b t) d (onLanes x0 (fun l => wAt ws l)))
  | .st r _ => ((upFrom 0 64).filter (vOn x0)).foldl (fun b l => spStore b t (p + 4 * l) (leBytes 4 (vLane x0 r l).toNat)) b
  | .mask r => setTl b t { tl b t with mask := 2 ^ min 64 (xReg x0 r).toNat - 1 }
  | i => match vDest i with
    | some d => setTl b t (vWrite (tl b t) d (vResult x0 i))
    | none => b

/-- The memory instruction of a bundle: is it a store, and its core register. -/
def memOf (l : List VInsn) : Option (Bool × Nat) :=
  l.findSome? (fun i => match i with
    | .ld _ r => some (false, r)
    | .st _ r => some (true, r)
    | _ => none)

/-- Does a bundle read the accumulator? -/
def usesAcc (l : List VInsn) : Bool := l.any (fun i => match i with | .acc .. => true | _ => false)

/-- The whole bundle issues: operands are read before any instruction writes. -/
def bundleRun (t p : Nat) (l : List VInsn) (b : Block) : Block :=
  let x0 := tl b t
  bump (l.foldl (vCommit t p x0) b) (Reg.TLR_CNT_VEC t) 1

/-- A vector bundle (R212). A VACC waits until the array is empty (R210). -/
def vectorBundle (t pc : Nat) (l : List VInsn) (errs : List (Nat × EccStat)) (b : Block) : Block :=
  issue b t pc (fun b =>
    if domSt b (vectorDom t) ≠ 0 ∨ bundleOk l = false then tFault b t 1 pc
    else if usesAcc l && ((tl b t).run.isSome || (tl b t).pend.isSome) then holdAt b t .busy
    else match memOf l with
      | none => bundleRun t 0 l b
      | some (st, r) =>
        let a := (xReg (tl b t) r).toNat
        if st then withRange b t pc a 256 64 true (fun p => bundleRun t p l b)
        else withRead b t pc a 256 64 errs (fun b p => bundleRun t p l b))

/-! ## The transposition tile (R217) -/

/-- Bits of an element width code: 0 8, 1 16, 2 32. -/
def trWidth (w : Nat) : Nat := if w = 0 then 8 else if w = 1 then 16 else 32

/-- The buffer that TRW fills. -/
def fillBuf (x : Tiller) : TBuf := if x.fillIdx = 0 then x.tb0 else x.tb1

/-- Replace a buffer. -/
def setBuf (x : Tiller) (i : Nat) (v : TBuf) : Tiller := if i = 0 then { x with tb0 := v } else { x with tb1 := v }

/-- Buffer `i`. -/
def bufAt (x : Tiller) (i : Nat) : TBuf := if i = 0 then x.tb0 else x.tb1

/-- TRW vs: one row of 32 elements, lanes 32 to 63 with `high`. A fill has the width of its first row; it stalls while
both buffers are full. -/
def trw (t pc vs width : Nat) (high : Bool) (b : Block) : Block :=
  issue b t pc (fun b =>
    let x := tl b t
    if domSt b (vectorDom t) ≠ 0 then tFault b t 1 pc
    else
      let f := fillBuf x
      if f.full then holdAt b t .busy
      else
        let w := if f.rows = 0 then trWidth width else f.width
        let base := if high then 32 else 0
        let els := (upFrom 0 32).foldl (fun m c =>
          spPut (fun _ => 0#32) m (f.rows * 32 + c) (wd ((vLane x vs (base + c)).toNat % 2 ^ w))) f.elems
        let f := { f with elems := els, width := w, rows := f.rows + 1 }
        let f := if f.rows = 32 then { f with full := true } else f
        let x := setBuf x x.fillIdx f
        setTl b t (if f.full then { x with fillIdx := 1 - x.fillIdx } else x))

/-- The full buffer that TRR reads: the older one first, which is the one that TRW fills next where both are full. -/
def readIdx (x : Tiller) : Option Nat :=
  if (bufAt x x.fillIdx).full then some x.fillIdx
  else if (bufAt x (1 - x.fillIdx)).full then some (1 - x.fillIdx)
  else none

/-- TRR vd: the next column into lanes 0 to 31, zeros in lanes 32 to 63; it stalls without a full buffer. A width other
than the fill's returns the bits of the stored elements. -/
def trr (t pc vd _width : Nat) (b : Block) : Block :=
  issue b t pc (fun b =>
    let x := tl b t
    if domSt b (vectorDom t) ≠ 0 then tFault b t 1 pc
    else match readIdx x with
      | none => holdAt b t .busy
      | some i =>
        let f := bufAt x i
        let x := vWrite x vd ((upFrom 0 64).map (fun l => (l, if l < 32 then tabW f.elems (l * 32 + f.cols) else 0#32)))
        let f := if f.cols = 31 then TBuf.init else { f with cols := f.cols + 1 }
        setTl b t (setBuf x i f))

end Sys2Proof.Machine
end

