-- ==== Sys2Proof/Machine/Array.lean ====
section
/-! DEFINITION. The MAC array and the weight chain (spec/09 R206 to R210, R225, R226; spec/10 R245, R246, R248). -/

namespace Sys2Proof.Machine

/-! ## Descriptors (R206, R208) -/

/-- KT and NT of an activation format. -/
def arrKT (afmt : Nat) : Nat := if afmt = 2 then 128 else if afmt = 9 ∨ afmt = 10 then 32 else 64
def arrNT (afmt : Nat) : Nat := if afmt = 9 ∨ afmt = 10 then 32 else 64

/-- Bytes of a weight tile (WT). -/
def arrWT (afmt : Nat) : Nat := if afmt = 12 then 4224 else if afmt = 9 ∨ afmt = 10 then 2048 else 4096

/-- Is a pair of formats accepted (R206)? -/
def pairOk (a w : Nat) : Bool :=
  decide ((a < 2 ∧ w < 2) ∨ (a = 2 ∧ w = 2) ∨ ((a = 7 ∨ a = 8) ∧ (w = 7 ∨ w = 8)) ∨ (a = 12 ∧ w = 12)
    ∨ (a = 9 ∧ w = 9) ∨ (a = 10 ∧ w = 10))

/-- Does the accumulator hold integers? -/
def accInt (a : Nat) : Bool := decide (a < 3)

/-- The fields of an array descriptor. -/
structure ArrDesc where
  op    : Nat
  afmt  : Nat
  wfmt  : Nat
  ofmt  : Nat
  epi   : Nat
  chain : Bool
  accIn : Bool
  ctag  : Nat
  k     : Nat
  n     : Nat
  m     : Nat
  astrm : Nat
  wstrm : Nat
  ostrm : Nat
  xstrm : Nat
  shift : Nat
  epar  : Nat
  rsv   : Bool
  deriving DecidableEq, Repr

/-- Read a descriptor (R208); `rsv`: a reserved field is not zero. -/
def arrDesc (d : List Word) : ArrDesc :=
  let w0 := wAt d 0; let w1 := wAt d 1; let w2 := wAt d 2; let w3 := wAt d 3
  { op := w0.fld 31 28, afmt := w0.fld 27 24, wfmt := w0.fld 23 20, ofmt := w0.fld 19 16, epi := w0.fld 15 14,
    chain := w0.bit 13, accIn := w0.bit 12, ctag := w0.fld 7 0, k := w1.fld 31 20 + 1, n := w1.fld 19 10 + 1,
    m := w1.fld 9 0 + 1, astrm := w2.fld 31 24, wstrm := w2.fld 23 16, ostrm := w2.fld 15 8, xstrm := w2.fld 7 0,
    shift := w3.fld 31 26, epar := w3.fld 20 2 * 4,
    rsv := decide (w0.fld 11 8 ≠ 0 ∨ w3.fld 25 21 ≠ 0 ∨ w3.fld 1 0 ≠ 0) }

/-- The checks that need only the descriptor and the slots (R206, R209, R210, R282). -/
def arrDescOk (x : Tiller) (d : ArrDesc) : Bool :=
  let armed := fun (s kind : Nat) => decide (s < 64) &&
    (let v := slotOf x s; decide (v.state = .armed ∧ dKind v.desc = kind))
  decide (d.op = 0) && pairOk d.afmt d.wfmt && !d.rsv && decide (d.epi ≠ 3)
  && (decide (d.afmt ≠ 12) || decide (d.k % 32 = 0))
  && (decide (d.epi ≠ 1) || (decide (d.ofmt = 0 ∨ d.ofmt = 1 ∨ d.ofmt = 2 ∨ d.ofmt = 5) && decide (1 ≤ d.shift ∧ d.shift ≤ 47)))
  && (decide (d.epi ≠ 2) || decide (7 ≤ d.ofmt ∧ d.ofmt ≤ 11))
  && (!(decide (d.epi = 0) || d.accIn) || decide (d.n ≤ arrNT d.afmt))
  && armed d.astrm 0 && (d.chain || armed d.wstrm 0) && (decide (d.afmt ≠ 12) || armed d.xstrm 0)
  && (decide (d.epi = 0) || armed d.ostrm 1)

/-- LO and HI of an integer epilogue lie within OFMT (R209). -/
def loHiOk (d : ArrDesc) (lo hi : Word) : Bool :=
  decide (d.epi ≠ 1) ||
    (let r := intRange d.ofmt
     decide (r.1 ≤ lo.s32 ∧ lo.s32 ≤ r.2 ∧ r.1 ≤ hi.s32 ∧ hi.s32 ≤ r.2))

/-- The scoreboard entries of an operation (R257). -/
def arrEntries (d : ArrDesc) (op : ArrOp) : List SbEntry :=
  let o := SbOwner.array op.id
  let ent := fun (i : Nat) (w : Bool) =>
    let v := (op.strms[i]?).getD StrmSlot.init
    ((spadRange v.desc v.awin v.cwin false).map (fun q => sbEntry q.1 q.2 w o)).toList
  ent 0 false ++ (if d.afmt = 12 then ent 3 false else []) ++ (if d.chain then [] else ent 1 false)
  ++ (if d.epi = 0 then [] else ent 2 true ++ [sbEntry op.epar (op.epar + 8 + 8 * d.n - 1) false o])

/-- Bytes of the weight stream of a whole operation. -/
def arrWBytes (d : ArrDesc) : Nat := cdiv d.k (arrKT d.afmt) * cdiv d.n (arrNT d.afmt) * arrWT d.afmt

/-- The bytes of tag `tag` at the front of what has arrived by the chain: several transfers of the tag follow one another; and
whether a transfer of another tag comes before there are `n` of them (R226). -/
def chainFront (tag n : Nat) : List ChainIn → List Byte × Bool
  | [] => ([], false)
  | c :: l =>
    if n = 0 then ([], false)
    else if c.tag ≠ tag then ([], true)
    else (let r := chainFront tag (n - c.bytes.length) l; (c.bytes ++ r.1, r.2))

/-- An array that is ready for a chained tile while the arriving transfer carries another tag (R226). -/
def chainTagBad (x : Tiller) : Bool :=
  match x.run with
  | some op => let d := arrDesc op.words; d.chain && (chainFront d.ctag (arrWBytes d) x.chainIn).2
  | none => false

/-- An operation that has passed its checks is issued: it runs, waits as the pending one, or stalls. One that runs with WSRC = 1
may find a transfer of another tag waiting for it (R226). -/
def arrIssue (b : Block) (t pc epar : Nat) (ws : List Word) (d : ArrDesc) : Block :=
  let x := tl b t
  let op : ArrOp := {
    id := x.opId, words := ws, epar := epar,
    strms := [slotOf x d.astrm, slotOf x d.wstrm, slotOf x d.ostrm, slotOf x d.xstrm] }
  if x.run.isSome ∧ x.pend.isSome then holdAt b t .busy
  else
    let es := arrEntries d op
    match sbAdd b t es with
    | none => sbRefused b t es
    | some b =>
      let x := tl b t
      let b := setTl b t (if x.run.isNone then { x with run := some op, opId := x.opId + 1 }
        else { x with pend := some op, opId := x.opId + 1 })
      if chainTagBad (tl b t) then tFault b t 7 pc else b

/-- MMA xs (R208, R210, R508). -/
def mma (t pc xs : Nat) (errs : List (Nat × EccStat)) (b : Block) : Block :=
  issue b t pc (fun b =>
    if domSt b (arrayDom t) ≠ 0 then tFault b t 1 pc
    else withRead b t pc (xReg (tl b t) xs).toNat 16 4 errs (fun b p =>
      let ws := spWords b t p 4
      let d := arrDesc ws
      if !arrDescOk (tl b t) d then tFault b t 4 pc
      else if d.epi = 0 then arrIssue b t pc 0 ws d
      else withRange b t pc d.epar (8 + 8 * d.n) 4 false (fun ep => coreRd b t pc ep 8 errs (fun b =>
        let par := spWords b t ep 2
        if loHiOk d (wAt par 0) (wAt par 1) then arrIssue b t pc ep ws d else tFault b t 4 pc))))

/-! ## What an operation computes (R207, R209, R245, R246, R248) -/

/-- Where an operation's operands come from: activation element (tile pass, row, k within the tile, elements per row of
that tile), activation exponent, weight element (tile pass, k, n) and weight exponent, as fields of their streams. -/
structure ArrSrc where
  act  : Nat → Nat
  aexp : Nat → Nat
  wgt  : Nat → Nat
  wexp : Nat → Nat

/-- Activation elements that precede K tile `i` of N tile `j`: M rows of the elements of each earlier tile. -/
def actBefore (d : ArrDesc) (j i : Nat) : Nat := d.m * (j * d.k + min d.k (i * arrKT d.afmt))

/-- The exact terms of row `m`, column `n` of K tile `i` of N tile `j`. Rows of a tile hold the elements that K has
(DESIGN CHOICE, log entry 20); weight tiles are whole, k by k, n fastest. -/
def tileTerms (d : ArrDesc) (s : ArrSrc) (j i m n : Nat) : List (Nat × Nat × Nat × Nat) :=
  let kt := arrKT d.afmt
  let w := min kt (d.k - i * kt)
  let pass := j * cdiv d.k kt + i
  (upFrom 0 w).map (fun k =>
    (s.act (actBefore d j i + m * w + k), s.aexp (pass * d.m * 2 + m * 2 + k / 32),
     s.wgt (pass * (kt * arrNT d.afmt) + k * arrNT d.afmt + n), s.wexp (pass * 128 + 2 * n + k / 32)))

/-- One tile added to an accumulator value (R245, R246). -/
def tileAcc (d : ArrDesc) (acc : Word) (l : List (Nat × Nat × Nat × Nat)) : Word :=
  if accInt d.afmt then
    wd (wrapN 32 (l.foldl (fun (s : Int) e => s + intDecode d.afmt e.1 * intDecode d.wfmt e.2.2.1) acc.s32))
  else if d.afmt = 12 then
    -- a block's integer dot product that is 0 is +0, whatever the signs of its elements
    toF32 (sumF (f32 acc :: l.map (fun e => posZero ((bs8Val e.2.1 e.1).mul (bs8Val e.2.2.2 e.2.2.1)))))
  else toF32 (sumF (f32 acc :: l.map (fun e => (elemVal d.afmt e.1).mul (elemVal d.wfmt e.2.2.1))))

/-- The accumulator value of row `m`, column `n` after all K tiles of N tile `j`. -/
def outAcc (d : ArrDesc) (s : ArrSrc) (acc0 : Nat → Nat → Word) (j m n : Nat) : Word :=
  (upFrom 0 (cdiv d.k (arrKT d.afmt))).foldl (fun a i => tileAcc d a (tileTerms d s j i m n))
    (if d.accIn && decide (j = 0) then acc0 m n else 0#32)

/-- The exact value of an accumulator (R245, R246). -/
def accVal (d : ArrDesc) (acc : Word) : FVal := if accInt d.afmt then ofInt false acc.s32 0 else f32 acc

/-- The epilogue of one value (R209, R248): `p0`, `p1` are the parameter words of the column. The floating-point one
rounds once, from the accumulator's exact value. An integer epilogue of an FP32 accumulator has no stated result (DESIGN
CHOICE, log entries 3, 20). -/
def epilogue (d : ArrDesc) (lo hi p0 p1 acc : Word) : Nat :=
  if d.epi = 1 then
    if !accInt d.afmt then
      (Config.openWord [4, d.ofmt, d.shift, lo.toNat, hi.toNat, p0.toNat, p1.toNat, acc.toNat]).toNat % 2 ^ fmtBits d.ofmt
    else
    let y := asr ((acc.s32 + p0.s32) * sext 16 p1.toNat + ((2 ^ (d.shift - 1) : Nat) : Int)) d.shift
    wrapN (fmtBits d.ofmt) (clampI lo.s32 hi.s32 y)
  else
    let y := toF32 (sumF [(accVal d acc).mul (f32 p1), f32 p0])
    cvtTo d.ofmt (f32 (fMin hi (fMax lo y)))

/-- Results of N tile `j`: row by row, ascending n. -/
def tileOut (d : ArrDesc) (s : ArrSrc) (acc0 : Nat → Nat → Word) (j : Nat) : List (Nat × Nat × Word) :=
  let nt := arrNT d.afmt
  (upFrom 0 d.m).flatMap (fun m => (upFrom 0 (min nt (d.n - j * nt))).map (fun n => (m, n, outAcc d s acc0 j m n)))

/-- Field `i` of `w` bits of a list of bytes; beyond its end an open value. -/
def byteField (l : List Byte) (w : Nat) (fr : Nat → Word) (i : Nat) : Nat :=
  if (i + 1) * w ≤ 8 * l.length then
    leNat ((l.drop (i * w / 8)).take (w / 8 + 2)) / 2 ^ (i * w % 8) % 2 ^ w
  else (fr i).toNat % 2 ^ w

/-- Weight element number `i` over whole tiles, of the byte or stream field reader `f8` (bytes) in BS8, where 128
exponent bytes follow each tile of 4 096. -/
def bs8Elem (f8 : Nat → Nat) (i : Nat) : Nat := f8 (i / 4096 * 4224 + i % 4096)
def bs8Exp (f8 : Nat → Nat) (i : Nat) : Nat := f8 (i / 128 * 4224 + 4096 + i % 128)

/-- The operands of an operation as its streams and the chain deliver them. -/
def arrSrc (b : Block) (t : Nat) (op : ArrOp) (d : ArrDesc) (chain : List Byte) : ArrSrc :=
  let v := fun i => (op.strms[i]?).getD StrmSlot.init
  -- what follows the last element of a stream is not stated (log entry 3)
  let fr := fun (k i : Nat) => Config.openWord [2, k, i]
  let wf := fun (w : Nat) (i : Nat) => if d.chain then byteField chain w (fr 1) i else localField b t (v 1) w (fr 1) i
  { act := localField b t (v 0) (fmtBits d.afmt) (fr 0),
    aexp := if d.afmt = 12 then localField b t (v 3) 8 (fr 2) else fun _ => 0,
    wgt := if d.afmt = 12 then bs8Elem (wf 8) else wf (fmtBits d.wfmt),
    wexp := if d.afmt = 12 then bs8Exp (wf 8) else fun _ => 0 }

/-- The streams that an operation reads: index and how many bits it takes of each (R206 to R208). -/
def arrReads (d : ArrDesc) : List (Nat × Nat) :=
  let nts := cdiv d.n (arrNT d.afmt)
  [(0, nts * d.m * d.k * fmtBits d.afmt)]
  ++ (if d.chain then [] else [(1, 8 * arrWBytes d)])
  ++ (if d.afmt = 12 then [(3, nts * cdiv d.k (arrKT d.afmt) * d.m * 16)] else [])

/-- Elements of a stream that so many bits are taken from. -/
def elemsFor (v : StrmSlot) (bits : Nat) : Nat := cdiv bits (eBits v.desc)

/-- The scratchpad bytes that an operation reads: its streams and its epilogue block. -/
def arrSpans (b : Block) (t : Nat) (op : ArrOp) (d : ArrDesc) : List (Nat × Nat) :=
  (arrReads d).flatMap (fun p => let v := (op.strms[p.1]?).getD StrmSlot.init; localSpans b t v (elemsFor v p.2))
  ++ (if d.epi = 0 then [] else [(op.epar, 8 + 8 * d.n)])

/-- Does a stream of an operation read a bank group that is off (R510)? -/
def arrBankOff (b : Block) (t : Nat) (op : ArrOp) (d : ArrDesc) : Bool :=
  ((arrReads d).filterMap (fun p =>
    let v := (op.strms[p.1]?).getD StrmSlot.init
    spadRange v.desc v.awin v.cwin false)).any (fun q => !rangeOn b t q.1 q.2)

/-- The operation reads its operands (R255, R288): words in error and out-of-range indices count; is some word
uncorrectable? -/
def arrRead (b : Block) (t : Nat) (op : ArrOp) (d : ArrDesc) (errs : List (Nat × EccStat)) : Block × Bool :=
  let r := spAccount b t (spErrsIn b t (arrSpans b t op d) errs)
  if r.2 then r
  else ((arrReads d).foldl (fun b p => let v := (op.strms[p.1]?).getD StrmSlot.init; localOor t v (elemsFor v p.2) b) r.1, false)

/-- Is the operation in-place (R259): does its output range meet one of its input ranges? The ranges are those of its
scoreboard entries (log entry 41). -/
def arrInPlace (d : ArrDesc) (op : ArrOp) : Bool :=
  let es := arrEntries d op
  decide (d.epi ≠ 0) && es.any (fun w => w.write && es.any (fun r => !r.write && decide (w.lo ≤ r.hi ∧ r.lo ≤ w.hi)))

/-- The whole operation: accumulator and output stream, then the release of its entries; the pending one runs. -/
def arrFinish (b : Block) (t : Nat) (op : ArrOp) (d : ArrDesc) (chain : List Byte) (errs : List (Nat × EccStat)) : Block :=
  let x := tl b t
  let s := arrSrc b t op d chain
  let acc0 := accAt x
  let nts := cdiv d.n (arrNT d.afmt)
  -- the bits that an in-place operation produces are not specified (R259; log entries 3, 41)
  let any := arrInPlace d op
  let fr := fun (k j : Nat) (e : Nat × Nat × Word) => Config.openWord [3, k, e.1, j * arrNT d.afmt + e.2.1]
  let outs := (upFrom 0 nts).map (fun j =>
    if any then (tileOut d s acc0 j).map (fun e => (e.1, e.2.1, fr 0 j e)) else tileOut d s acc0 j)
  let lo := rdWord b.mems.spad (t * 2 ^ 21 + op.epar)
  let hi := rdWord b.mems.spad (t * 2 ^ 21 + op.epar + 4)
  let par := fun (n k : Nat) => rdWord b.mems.spad (t * 2 ^ 21 + op.epar + 8 + 8 * n + 4 * k)
  -- results go out row by row, each row in ascending n over all N tiles (R209)
  let vals := (upFrom 0 d.m).flatMap (fun m => ((upFrom 0 nts).zip outs).flatMap (fun jo =>
    (jo.2.filter (fun e => decide (e.1 = m))).map (fun e =>
      let n := jo.1 * arrNT d.afmt + e.2.1
      if any then (fr 1 jo.1 e).toNat % 2 ^ fmtBits d.ofmt
      else epilogue d lo hi (par n 0) (par n 1) e.2.2)))
  -- the accumulator holds the last N tile; earlier rows and columns are cleared with it
  let keep := if d.accIn then x.acc else []
  let acc := (outs.getLastD []).foldl (fun a e => spPut (fun _ => 0#32) a (e.1 * 64 + e.2.1) e.2.2) keep
  let b := setTl b t { tl b t with acc := acc }
  let b := if d.epi = 0 then b else localWrite t ((op.strms[2]?).getD StrmSlot.init) (fmtBits d.ofmt) vals errs b
  let x := sbFree (tl b t) (.array op.id)
  setTl b t { x with run := x.pend, pend := none }

/-- Take `n` bytes from what has arrived by the chain. -/
def chainTake (n : Nat) : List ChainIn → List ChainIn
  | [] => []
  | c :: l =>
    if n = 0 then c :: l
    else if c.bytes.length ≤ n then chainTake (n - c.bytes.length) l
    else { c with bytes := c.bytes.drop n } :: l

/-- ARRAY_OP_COMPLETE (R207, R209, R226): a chained operation needs the bytes of its tag; another tag faults. -/
def arrayComplete (t : Nat) (errs : List (Nat × EccStat)) (b : Block) : Block :=
  let x := tl b t
  match x.run with
  | none => b
  | some op =>
    let d := arrDesc op.words
    let w := chainFront d.ctag (arrWBytes d) x.chainIn
    if d.chain && w.2 then tFault b t 7 0
    else if d.chain && decide (w.1.length < arrWBytes d) then b
    else if arrBankOff b t op d then tBankFault b t 0
    else
      let r := arrRead b t op d errs
      if r.2 then tFault r.1 t 6 0
      else
        let b := r.1
        let b := if d.chain then setTl b t { tl b t with chainIn := chainTake (arrWBytes d) (tl b t).chainIn } else b
        let b := arrFinish b t op d w.1 errs
        -- the next operation may find that a transfer of another tag has arrived for it
        if chainTagBad (tl b t) then tFault b t 7 0 else b

/-- MWAIT (R210): the core is released when the array holds no operation. -/
def mwait (t pc : Nat) (b : Block) : Block :=
  issue b t pc (fun b =>
    let x := tl b t
    if x.run.isNone ∧ x.pend.isNone then b else setTl b t { x with blocked := .mwait })

/-- A core blocked in MWAIT goes on once the array is empty. -/
def mwaitEnd (b : Block) (t : Nat) : Block :=
  let x := tl b t
  if x.blocked = .mwait ∧ x.run = none ∧ x.pend = none then setTl b t { x with blocked := .none } else b

/-! ## The weight chain (R225, R226) -/

/-- The `c` logical slots that follow `s` in ring order. -/
def ringAfter (s c : Nat) : List Nat := (upFrom 1 c).map (fun i => (s + i) % 32)

/-- WCHAIN xs (R225). The four argument words are: stream slot, byte length, member count, chain tag (DESIGN CHOICE, log
entry 23). A length that is not a multiple of 64, a count outside 1 to 31, or a slot that is neither an armed LOCAL_RD
with that many bytes nor a DMA_RD to CHAIN is ILLEGAL. It stalls while an earlier transfer has not left the head. A LOCAL_RD is
read under the rules of the array port (R204, R255, R258, R510). -/
def wchain (t pc xs : Nat) (errs : List (Nat × EccStat)) (b : Block) : Block :=
  issue b t pc (fun b =>
    withRead b t pc (xReg (tl b t) xs).toNat 16 4 errs (fun b p =>
      let ws := spWords b t p 4
      let s := (wAt ws 0).toNat; let len := (wAt ws 1).toNat; let c := (wAt ws 2).toNat; let tag := (wAt ws 3).toNat % 256
      let v := slotOf (tl b t) s
      let head := slotOfT b t
      let loc := decide (v.state = .armed ∧ dKind v.desc = 0 ∧ len * 8 ≤ elemCount v.desc * eBits v.desc)
      let dma := v.inFlight && decide (dKind v.desc = 2 ∧ (dstPat v.desc).space = 6)
      let new : Chain := ⟨head, ringAfter head c, tag, [], 0, 0, len⟩
      if len % 64 ≠ 0 ∨ c < 1 ∨ 31 < c ∨ 64 ≤ s ∨ (loc || dma) = false then tFault b t 1 pc
      else if b.chains.any (fun ch => decide (ch.head = head ∧ ch.bytes.length < ch.len)) then holdAt b t .busy
      else if dma then setSlot { b with chains := b.chains ++ [new] } t s { v with chain := some tag }
      else
        let r := (spadRange v.desc v.awin v.cwin false).getD (0, 0)
        if !rangeOn b t r.1 r.2 then tBankFault b t pc
        else if sbHit (tl b t).sb none r.1 r.2 false then holdAt b t .conflict
        else
          let n := elemsFor v (8 * len)
          let q := spAccount b t (spErrsIn b t (localSpans b t v n) errs)
          if q.2 then tFault q.1 t 6 pc
          else
            let b := localOor t v n q.1
            let bytes := (upFrom 0 len).map (fun i => BitVec.ofNat 8 (localField b t v 8 (fun _ => 0#32) i))
            { b with chains := b.chains ++ [{ new with bytes := bytes }] }))

/-- The transfer that completes next at a member: the oldest that names its slot and has left its head. -/
def chainFor (b : Block) (slot : Nat) : Option Chain :=
  b.chains.find? (fun ch => ch.members.contains slot && decide (ch.len ≤ ch.bytes.length))

/-- WCHAIN_COMPLETE at a member (R225): its bytes have arrived; an array ready for another tag faults CHAIN_TAG. -/
def wchainComplete (t : Nat) (b : Block) : Block :=
  let slot := slotOfT b t
  match chainFor b slot with
  | none => b
  | some ch =>
    let ch' := { ch with members := ch.members.filter (· ≠ slot) }
    let b := { b with chains := (b.chains.map (fun e => if e = ch then ch' else e)).filter (fun e => !e.members.isEmpty) }
    let x := tl b t
    let b := setTl b t { x with chainIn := x.chainIn ++ [⟨ch.tag, ch.bytes.take ch.len⟩] }
    if chainTagBad (tl b t) then tFault b t 7 0 else b

end Sys2Proof.Machine
end

