-- ==== Sys2Proof/Machine/Hash.lean ====
section
/-! DEFINITION. The hash and the signature check that spec/18 R412 and R419 name: SHA-512 and RSASSA-PKCS1-v1_5 of RFC 8017. The
rules name the standards; their contents stand outside the specification (PRESUMED, log entry 13). -/

namespace Sys2Proof.Machine

/-! ## SHA-512 -/

/-- Round constants 0 to 19. -/
def shaK0 : List Nat :=
  [0x428a2f98d728ae22, 0x7137449123ef65cd, 0xb5c0fbcfec4d3b2f, 0xe9b5dba58189dbbc]
  ++ [0x3956c25bf348b538, 0x59f111f1b605d019, 0x923f82a4af194f9b, 0xab1c5ed5da6d8118]
  ++ [0xd807aa98a3030242, 0x12835b0145706fbe, 0x243185be4ee4b28c, 0x550c7dc3d5ffb4e2]
  ++ [0x72be5d74f27b896f, 0x80deb1fe3b1696b1, 0x9bdc06a725c71235, 0xc19bf174cf692694]
  ++ [0xe49b69c19ef14ad2, 0xefbe4786384f25e3, 0x0fc19dc68b8cd5b5, 0x240ca1cc77ac9c65]

/-- Round constants 20 to 39. -/
def shaK1 : List Nat :=
  [0x2de92c6f592b0275, 0x4a7484aa6ea6e483, 0x5cb0a9dcbd41fbd4, 0x76f988da831153b5]
  ++ [0x983e5152ee66dfab, 0xa831c66d2db43210, 0xb00327c898fb213f, 0xbf597fc7beef0ee4]
  ++ [0xc6e00bf33da88fc2, 0xd5a79147930aa725, 0x06ca6351e003826f, 0x142929670a0e6e70]
  ++ [0x27b70a8546d22ffc, 0x2e1b21385c26c926, 0x4d2c6dfc5ac42aed, 0x53380d139d95b3df]
  ++ [0x650a73548baf63de, 0x766a0abb3c77b2a8, 0x81c2c92e47edaee6, 0x92722c851482353b]

/-- Round constants 40 to 59. -/
def shaK2 : List Nat :=
  [0xa2bfe8a14cf10364, 0xa81a664bbc423001, 0xc24b8b70d0f89791, 0xc76c51a30654be30]
  ++ [0xd192e819d6ef5218, 0xd69906245565a910, 0xf40e35855771202a, 0x106aa07032bbd1b8]
  ++ [0x19a4c116b8d2d0c8, 0x1e376c085141ab53, 0x2748774cdf8eeb99, 0x34b0bcb5e19b48a8]
  ++ [0x391c0cb3c5c95a63, 0x4ed8aa4ae3418acb, 0x5b9cca4f7763e373, 0x682e6ff3d6b2b8a3]
  ++ [0x748f82ee5defb2fc, 0x78a5636f43172f60, 0x84c87814a1f0ab72, 0x8cc702081a6439ec]

/-- Round constants 60 to 79. -/
def shaK3 : List Nat :=
  [0x90befffa23631e28, 0xa4506cebde82bde9, 0xbef9a3f7b2c67915, 0xc67178f2e372532b]
  ++ [0xca273eceea26619c, 0xd186b8c721c0c207, 0xeada7dd6cde0eb1e, 0xf57d4f7fee6ed178]
  ++ [0x06f067aa72176fba, 0x0a637dc5a2c898a6, 0x113f9804bef90dae, 0x1b710b35131c471b]
  ++ [0x28db77f523047d84, 0x32caab7b40c72493, 0x3c9ebe0a15c9bebc, 0x431d67c49c100d4c]
  ++ [0x4cc5d4becb3e42b6, 0x597f299cfc657e2a, 0x5fcb6fab3ad6faec, 0x6c44198c4a475817]

/-- The initial hash value. -/
def shaInit : List Nat :=
  [0x6a09e667f3bcc908, 0xbb67ae8584caa73b, 0x3c6ef372fe94f82b, 0xa54ff53a5f1d36f1]
  ++ [0x510e527fade682d1, 0x9b05688c2b3e6c1f, 0x1f83d9abfb41bd6b, 0x5be0cd19137e2179]

/-- Rotate a 64-bit value right. -/
def rotr64 (x n : Nat) : Nat := x >>> n ||| (x <<< (64 - n)) % 2 ^ 64

/-- One round: the eight working variables after round constant `k` and schedule word `w`. -/
def shaRound (k w : Nat) : List Nat → List Nat
  | [a, b, c, d, e, f, g, h] =>
    let s1 := rotr64 e 14 ^^^ rotr64 e 18 ^^^ rotr64 e 41
    let ch := (e &&& f) ^^^ ((2 ^ 64 - 1 - e) &&& g)
    let t1 := h + s1 + ch + k + w
    let s0 := rotr64 a 28 ^^^ rotr64 a 34 ^^^ rotr64 a 39
    let maj := (a &&& b) ^^^ (a &&& c) ^^^ (b &&& c)
    [(t1 + s0 + maj) % 2 ^ 64, a, b, c, (d + t1) % 2 ^ 64, e, f, g]
  | l => l

/-- The sixteen schedule words one round later. -/
def shaNext (w : List Nat) : List Nat :=
  let g := fun (i : Nat) => (w[i]?).getD 0
  let s0 := rotr64 (g 1) 1 ^^^ rotr64 (g 1) 8 ^^^ g 1 >>> 7
  let s1 := rotr64 (g 14) 19 ^^^ rotr64 (g 14) 61 ^^^ g 14 >>> 6
  w.drop 1 ++ [(s1 + g 9 + s0 + g 0) % 2 ^ 64]

/-- The rounds of one block. -/
def shaRounds : List Nat → List Nat → List Nat → List Nat
  | [], _, v => v
  | k :: ks, w, v => shaRounds ks (shaNext w) (shaRound k ((w.head?).getD 0) v)

/-- Bytes as one number, the first the most significant. -/
def beNat (l : List Byte) : Nat := l.foldl (fun n x => n * 256 + x.toNat) 0

/-- The bytes of a number, the most significant first. -/
def beBytes (n v : Nat) : List Byte := (leBytes n v).reverse

/-- One 128-byte block. -/
def shaBlock (h : List Nat) (l : List Byte) : List Nat :=
  let w := (upFrom 0 16).map (fun i => beNat ((l.drop (8 * i)).take 8))
  (h.zip (shaRounds (shaK0 ++ shaK1 ++ shaK2 ++ shaK3) w h)).map (fun p => (p.1 + p.2) % 2 ^ 64)

/-- The blocks of a padded message. -/
def shaBlocks : Nat → List Nat → List Byte → List Nat
  | 0, h, _ => h
  | n + 1, h, l => shaBlocks n (shaBlock h (l.take 128)) (l.drop 128)

/-- SHA-512 of some bytes, 64 bytes. -/
def sha512 (l : List Byte) : List Byte :=
  let n := l.length
  let m := l ++ [0x80#8] ++ List.replicate ((239 - n % 128) % 128) 0#8 ++ beBytes 16 (8 * n)
  (shaBlocks (m.length / 128) shaInit m).flatMap (beBytes 8)

/-! ## RSASSA-PKCS1-v1_5 (RFC 8017) -/

/-- `x` to the power 65 537 modulo `n`, the one exponent that R412 admits. -/
def pow65537 (x n : Nat) : Nat := (upFrom 0 16).foldl (fun y _ => y * y % n) x * x % n

/-- The 512-byte encoded message of a SHA-512 hash. -/
def pkcs1Encode (h : List Byte) : List Byte :=
  [0#8, 1#8] ++ List.replicate 426 255#8 ++
  [0#8, 0x30#8, 0x51#8, 0x30#8, 0x0D#8, 0x06#8, 0x09#8, 0x60#8, 0x86#8, 0x48#8, 0x01#8, 0x65#8, 0x03#8, 0x04#8, 0x02#8, 0x03#8,
   0x05#8, 0x00#8, 0x04#8, 0x40#8] ++ h

/-- Is `sig` the signature of `msg` under the key whose modulus is the first 512 bytes of `key` (R412)? -/
def rsaVerify (key msg sig : List Byte) : Bool :=
  let n := beNat (key.take 512)
  let s := beNat sig
  decide (s < n) && decide (sig.length = 512) && decide (beBytes 512 (pow65537 s n) = pkcs1Encode (sha512 msg))

end Sys2Proof.Machine
end

