-- ==== Sys2Proof/Machine/Camera.lean ====
section
/-! DEFINITION. The camera ports (spec/03_camera_ports.md R75 to R95) and the trigger outputs of the timebase (R32), which
create their line records. -/

namespace Sys2Proof.Machine

/-! ## The port's registers in force -/

/-- FE_PORTn_CFG in force. -/
def cpCfg (b : Block) (n : Nat) : Word := frc b (Reg.FE_PORT_CFG n)

/-- EN. -/
def cpEn (b : Block) (n : Nat) : Bool := (cpCfg b n).bit 0

/-- LEN (R86). -/
def cpLen (b : Block) (n : Nat) : Nat := (frc b (Reg.FE_PORT_LEN n)).fld 14 0

/-- START_DL, OPEN and END_DL (R82). -/
def cpStartDl (b : Block) (n : Nat) : Nat := (frc b (Reg.FE_PORT_WIN n)).fld 27 16
def cpOpen (b : Block) (n : Nat) : Nat := (frc b (Reg.FE_PORT_WIN n)).fld 11 0
def cpEndDl (b : Block) (n : Nat) : Nat := (frc b (Reg.FE_PORT_WIN_END n)).fld 11 0

/-- FILL (R86). -/
def cpFill (b : Block) (n : Nat) : Nat := (frc b (Reg.FE_PORT_LEN n)).fld 27 16

/-- R77: a pixel after the DEPTH masking. -/
def depthMask (depth p : Nat) : Nat :=
  let q := p % 4096
  if depth = 1 then q / 4 * 4 else if depth = 2 then q / 16 * 16 else q

/-- R77 for the DEPTH in force. -/
def cpMask (b : Block) (n p : Nat) : Nat := depthMask ((cpCfg b n).fld 4 3) p

/-- FRAME_LINES (R87): 0 means 65 536. -/
def cpFrameLines (b : Block) (n : Nat) : Nat :=
  let l := (frc b (Reg.FE_PORT_FRAME n)).fld 15 0
  if l = 0 then 65536 else l

/-- R82: do the written SH values of the port pass its checks? -/
def cpSetOk (b : Block) (n : Nat) : Bool :=
  let cfg := rg b (Reg.FE_PORT_CFG n)
  let len := (rg b (Reg.FE_PORT_LEN n)).fld 14 0
  let op := (rg b (Reg.FE_PORT_WIN n)).fld 11 0
  let st := (rg b (Reg.FE_PORT_WIN n)).fld 27 16
  let en := (rg b (Reg.FE_PORT_WIN_END n)).fld 11 0
  decide (cfg.fld 4 3 ≠ 3 ∧ cfg.fld 11 10 ≠ 3 ∧ len % 4 = 0 ∧ 4 ≤ len ∧ len ≤ 16384 ∧ op ≤ st ∧ st < en ∧ en ≤ 4095 ∧
    st < op + 1250)

/-- The SH registers of port `n` (R95). -/
def cpShRegs (n : Nat) : List Nat :=
  [Reg.FE_PORT_CFG n, Reg.FE_PORT_LEN n, Reg.FE_PORT_WIN n, Reg.FE_PORT_WIN_END n, Reg.FE_PORT_FRAME n, Reg.FE_PORT_LIMIT n]

/-- A port's set fails its checks (R82, R94): CFG_ERR and its event. -/
def cpCfgErr (b : Block) (n : Nat) : Block := raise (orRg b (Reg.FE_PORT_STATUS n) 0x100) 0x34 n

/-! ## Records -/

/-- OPEN_RECS: records that await a line start (R95); the two-bit field saturates at 3 (log entry 61). -/
def cpRecount (b : Block) (n : Nat) : Block :=
  setF b (Reg.FE_PORT_STATUS n) 1 0 (min 3 (((prt b n).recs.filter (fun r => !r.started)).length))

/-- Change the oldest unfinished record. -/
def updHead (p : Port) (f : CRec → CRec) : Port :=
  match p.recs with
  | [] => p
  | r :: l => { p with recs := f r :: l }

/-- The stamp (R81) of the present core cycle: none without an oldest unfinished record whose reference row has opened. -/
def stampNow (b : Block) (n : Nat) : Option Nat :=
  match (prt b n).recs with
  | [] => none
  | r :: _ => r.refC.map (fun x => b.pwr.ccy - x)

/-- R84, R85, R92: the intake entry of a finished record from its class bits, received pixels and header items. The port's
settings are those in force when the entry completes (log entry 61). -/
def intakeOf (b : Block) (n : Nat) (r : CRec) (bits : Nat) (px : List Nat) (susp : Bool) : Intake :=
  let len := cpLen b n
  let kept := px.take len
  let fill := cpMask b n (cpFill b n)
  let w2 := wd (min 65535 kept.length * 2 ^ 16 + n * 2 ^ 12 + bits)
  { line := r.line, ref := r.ref.getD r.line,
    hdr := mkHdr r.line susp (decide (bits ≠ 0)) false (b2n r.sheafSt * 32 + b2n r.late * 16 + r.phase) w2 0 none,
    px := kept ++ List.replicate (len - kept.length) fill, fill := cpFill b n, done := true }

/-- Counters, LAST_HDR2, CP_MALFORMED of a malformed entry (R84, R94, R95). -/
def cpAccount (b : Block) (n line bits : Nat) (w2 : Word) : Block :=
  if bits = 0 then b
  else
    let b := setRg (setRg b (Reg.FE_PORT_LAST_HDR2 n) w2) (Reg.FE_PORT_LAST_LINE n) (wd line)
    if nbit bits 8 then b
    else
      let b := bump b (Reg.FE_PORT_CNT_SHORT n) (b2n (nbit bits 0))
      let b := bump b (Reg.FE_PORT_CNT_LONG n) (b2n (nbit bits 1))
      let b := bump b (Reg.FE_PORT_CNT_LATE_END n) (b2n (nbit bits 2))
      let b := bump b (Reg.FE_PORT_CNT_MISSING n) (b2n (nbit bits 3))
      let b := bump b (Reg.FE_PORT_CNT_FRAME n) (b2n (nbit bits 5) + b2n (nbit bits 6))
      raiseOnce b 0x30 n n

/-- The run of MISSING entries (R89). -/
def cpMissRun (b : Block) (n : Nat) (missing : Bool) : Block :=
  let p := prt b n
  if missing then
    let k := p.missRun + 1
    let b := setPrt b n { p with missRun := k }
    let lim := frc b (Reg.FE_PORT_LIMIT n)
    if lim.fld 15 0 ≠ 0 ∧ lim.fld 15 0 ≤ k ∧ (rg b (Reg.FE_PORT_STATUS n)).bit 3 = false then
      let ask := lim.bit 16
      let b := raiseS (setF b (Reg.FE_PORT_STATUS n) 3 3 1) 0x33 n ask
      if ask then safeCond (safeReq b 14 n) 14 n true else b
    else b
  else safeCond (setF (setPrt b n { p with missRun := 0 }) (Reg.FE_PORT_STATUS n) 3 3 0) 14 n false

/-- R474: the CAM record of a completed entry. -/
def recCam (b : Block) (n : Nat) (r : CRec) (x : Intake) : Block :=
  record b (nbit b.dbg.cam n) 3 0 n 0 0 (wAt x.hdr 2) (wd r.startS) (wd r.lastS) (packU12 x.px)

/-- R114: a captured line of sheaf `sh` carries MALFORMED, whatever becomes of its lane invocation. The counts of the four latest
sheaves are kept. -/
def laneMalf (b : Block) (n sh : Nat) : Block :=
  let x := lane b n
  setLane b n { x with malfs :=
    (spMod (fun _ => 0) x.malfs sh (· + 1)).filter (fun (e : Nat × Nat) => decide (subMod 34 sh e.1 < 4)) }

/-- The oldest unfinished record `r` of a port completes with entry `x` and class bits `bits`: the entry, the counters, the
run of MISSING entries and the CAM record. -/
def cpFinish (b : Block) (n : Nat) (r : CRec) (bits : Nat) (x : Intake) : Block :=
  let p := prt b n
  let b := setPrt b n { p with recs := p.recs.drop 1, intake := p.intake.filter (fun i => i.line ≠ r.line) ++ [x],
                               extra := false, shortF := false }
  let b := cpRecount b n
  let b := if hdrMalformed x.hdr then laneMalf b n (sheafOf r.line) else b
  let b := cpAccount b n r.line bits (wAt x.hdr 2)
  recCam (cpMissRun b n (nbit bits 3)) n r x

/-- The oldest unfinished record completes with class bits `cls` of R84 (SHORT 1, LONG 2, LATE_END 4, MISSING 8). -/
def cpComplete (b : Block) (n cls : Nat) : Block :=
  let p := prt b n
  match p.recs with
  | [] => b
  | r :: _ =>
    let off := !cpEn b n
    let bits := (if off then 256 else cls) + 64 * b2n r.frameL + 32 * b2n p.shortF + 16 * b2n p.extra +
      128 * b2n ((rg b (Reg.FE_PORT_STATUS n)).bit 2)
    -- R505: a transfer in the suspect interval, or a MISSING entry completed within it
    let susp := r.susp || (!r.started && dipMarks b)
    cpFinish b n r bits (intakeOf b n r bits (if off then [] else r.px) susp)

/-! ## Line input (R79 to R87) -/

/-- Receive the pixels of a valid transfer at stamp `s` into the oldest record: those stamped at or before END_DL count
(R85). -/
def cpTake (b : Block) (n s : Nat) (px : List Nat) : Block :=
  if s ≤ cpEndDl b n then
    let room := cpLen b n
    setPrt b n (updHead (prt b n) (fun r =>
      { r with rcvd := r.rcvd + px.length, px := (r.px ++ px.map (cpMask b n)).take room,
               lastS := if r.rcvd < room then s else r.lastS, susp := r.susp || dipMarks b }))
  else b

/-- An EXTRA line start (R83, R84): counted, flagged, discarded up to the line end. -/
def cpExtra (b : Block) (n : Nat) : Block :=
  bump (setPrt b n { prt b n with extra := true, discard := true }) (Reg.FE_PORT_CNT_EXTRA n) 1

/-- FVAL_MODE. -/
def cpMode (b : Block) (n : Nat) : Nat := (cpCfg b n).fld 11 10

/-- R79: is a transfer valid? -/
def cpValid (b : Block) (n : Nat) (x : CamSample) : Bool :=
  x.lval && (x.dval || !(cpCfg b n).bit 9) && (x.fval || decide (cpMode b n = 0))

/-- R77: pixel `4t + i` is on bits `12i + 11` to `12i`. -/
def CamSample.pixels (x : CamSample) : List Nat := (upFrom 0 4).map (fun i => x.d.toNat / 2 ^ (12 * i) % 4096)

/-- FVAL falls (R84, R87): a frame of fewer than FRAME_LINES accepted lines flags the next entry. A disabled port sets no flag
(R85). Lines accepted while FVAL is 1 are counted in every FVAL_MODE (log entry 61). -/
def fvalDrop (b : Block) (n : Nat) : Block :=
  let p := prt b n
  let short := decide (cpMode b n = 2) && cpEn b n && decide (p.frameN < cpFrameLines b n)
  setPrt b n { p with shortF := p.shortF || short, frameN := 0, fval := false }

/-- The level of FVAL that a transfer shows; a rise begins a frame (R87). -/
def fvalSeen (b : Block) (n : Nat) (v : Bool) : Block :=
  if v then (if (prt b n).fval then b else setPrt b n { prt b n with fval := true, frameN := 0 })
  else if (prt b n).fval then fvalDrop b n
  else b

/-- A line start that matches the oldest record (R83): its window is open and its line has not started. -/
def cpAccept (b : Block) (n s : Nat) (r : CRec) (x : CamSample) : Block :=
  let p := prt b n
  let k := p.frameN + b2n x.fval
  let past := decide (cpMode b n = 2 ∧ cpFrameLines b n < k)
  let fresh : Intake := { line := r.line, ref := r.ref.getD r.line, hdr := [], px := [], fill := cpFill b n, done := false }
  let p' := updHead { p with discard := false, frameN := k, intake := p.intake ++ [fresh] }
    (fun r => { r with opened := true, started := true, startS := s, lastS := s, frameL := past })
  cpTake (cpRecount (setPrt b n p') n) n s x.pixels

/-- A transfer that only FVAL keeps from being valid (R79, R84). -/
def cpGated (b : Block) (n : Nat) (x : CamSample) : Bool := !cpValid b n x && cpValid b n { x with fval := true }

/-- LINE_START (R79, R83 to R85): the first valid transfer after one with LVAL 0, or one that only FVAL keeps from being valid,
which is EXTRA. Any other transfer starts no line. -/
def lineStart (n : Nat) (x : CamSample) (b : Block) : Block :=
  let b := fvalSeen b n x.fval
  let p := prt b n
  let valid := cpValid b n x
  if p.lval || (!valid && !cpGated b n x) then b
  else
    let b := setPrt b n { p with lval := true, discard := true }
    if !cpEn b n then b
    else if !valid then cpExtra b n
    else match p.recs, stampNow b n with
      | r :: _, some s =>
        if r.started = false ∧ cpOpen b n ≤ s ∧ s ≤ cpStartDl b n then cpAccept b n s r x else cpExtra b n
      | _, _ => cpExtra b n

/-- VALID_TRANSFER (R77, R79, R85): a later valid transfer of the line. -/
def validTransfer (n : Nat) (x : CamSample) (b : Block) : Block :=
  let b := fvalSeen b n x.fval
  let p := prt b n
  if p.lval && !p.discard && cpEn b n && cpValid b n x then
    match stampNow b n with
    | some s => cpTake b n s x.pixels
    | none => b
  else b

/-- The class of a line by the pixels received (R84, R85): LONG above LEN; below it SHORT at a line end, LATE_END at
END_DL. -/
def cpClass (len rcvd : Nat) (atEnd : Bool) : Nat :=
  if len < rcvd then 2 else if rcvd < len then (if atEnd then 1 else 4) else 0

/-- The line in progress on port `n` ends (R79, R84): the started record completes, where it has not completed at END_DL. -/
def lineOver (n : Nat) (b : Block) : Block :=
  let p := prt b n
  let b := setPrt b n { p with lval := false, discard := false }
  match p.recs with
  | r :: _ => if !p.discard && r.started then cpComplete b n (cpClass (cpLen b n) r.rcvd true) else b
  | [] => b

/-- LINE_END (R79, R84): the first transfer with LVAL 0. Where FVAL falls in it too, the line has completed before that. -/
def lineEnd (n : Nat) (x : CamSample) (b : Block) : Block :=
  fvalSeen (if x.lval || !(prt b n).lval then b else lineOver n b) n x.fval

/-- WINDOW_OPEN (R82, R83): the oldest unfinished record's capture window opens at stamp OPEN. -/
def windowOpen (n : Nat) (b : Block) : Block :=
  match stampNow b n with
  | some s => if cpOpen b n ≤ s then setPrt b n (updHead (prt b n) (fun r => { r with opened := true })) else b
  | none => b

/-- START_DEADLINE (R83, R84): from stamp START_DL on, an unstarted record is closed, after the line starts of the cycle. -/
def startDeadline (n : Nat) (b : Block) : Block :=
  match (prt b n).recs, stampNow b n with
  | r :: _, some s => if r.started || decide (s < cpStartDl b n) then b else setPrt b n { prt b n with closing := .start }
  | _, _ => b

/-- END_DEADLINE (R84, R85): from stamp END_DL on, a started record that has not ended is cut, after the transfers of the
cycle. -/
def endDeadline (n : Nat) (b : Block) : Block :=
  match (prt b n).recs, stampNow b n with
  | r :: _, some s => if r.started && decide (cpEndDl b n ≤ s) then setPrt b n { prt b n with closing := .fin } else b
  | _, _ => b

/-- Step 4 of R83 at the end of the cycle: an unstarted record is MISSING; a started one is complete, and later transfers of its
line are discarded. -/
def closePort (b : Block) (n : Nat) : Block :=
  let p := prt b n
  let b := setPrt b n { p with closing := .none }
  match p.closing, p.recs with
  | .start, r :: _ => if r.started then b else cpComplete b n 8
  | .fin, r :: _ =>
    if r.started then cpComplete (setPrt b n { prt b n with discard := true }) n (cpClass (cpLen b n) r.rcvd false) else b
  | _, _ => b

/-- All ports at the end of a cycle. -/
def closePorts (b : Block) : Block := (b.ports.map Prod.fst).foldl closePort b

/-- FVAL_FALL (R84, R87). -/
def fvalFall (n : Nat) (b : Block) : Block := fvalSeen b n false

/-- CP_CLK_LOSS (R88). -/
def cpClkLoss (n : Nat) (b : Block) : Block :=
  if cpEn b n ∧ (rg b (Reg.FE_PORT_STATUS n)).bit 2 = false then raise (setF b (Reg.FE_PORT_STATUS n) 2 2 1) 0x31 n else b

/-- CP_CLK_BACK (R88). -/
def cpClkBack (n : Nat) (b : Block) : Block :=
  if (rg b (Reg.FE_PORT_STATUS n)).bit 2 then raise (setF b (Reg.FE_PORT_STATUS n) 2 2 0) 0x32 n else b

/-! ## Triggers (R32, R80, R111) -/

/-- R80: output `n` has fired for line `k`: the port creates its record, and the record that waited for this firing has row
its row as reference. Stamps count from cycle 0 of that row. -/
def portFire (b : Block) (port n : Nat) (f : Firing) : Block :=
  let k := f.line
  let p := prt b port
  let lag := (cpCfg b port).bit 8
  let c0 := if b.tb.tickLine = k ∧ b.tb.lastTick.isSome = true then b.tb.lastTick else none
  let fix : CRec → CRec := fun r => if r.ref.isNone && decide (r.out = n) then { r with ref := some k, refC := c0 } else r
  let r : CRec := { line := k, phase := f.phase, late := f.late, sheafSt := f.sheafSt, out := n,
                    ref := if lag then none else some k, refC := if lag then none else c0, opened := false, started := false,
                    startS := 0, lastS := 0, px := [], rcvd := 0, susp := false, frameL := false }
  cpRecount (setPrt b port { p with recs := p.recs.map fix ++ [r] }) port

/-- Is a request for an apply pulse due at a firing for line `k` (R111)? -/
def pulseDue (k : Nat) (a : Option Nat × Nat) : Bool := a.1.all (lineGe k)

/-- The lanes that ask for an apply pulse of output `n` at line `k` (R111), lowest first. -/
def applyLanes (b : Block) (n k : Nat) : List Nat :=
  (upFrom 0 8).filter (fun m => decide ((cpCfg b m).fld 7 5 = n) && (lane b m).applies.any (pulseDue k))

/-- R111: the APW of the pulse that serves every request of the lanes `ls` at line `k`, and the block without them. Of two
requests of one lane the older gives the APW (log entry 62). -/
def applyServe (b : Block) (k : Nat) (ls : List Nat) : Option Nat × Block :=
  (ls.head?.bind (fun m => ((lane b m).applies.find? (pulseDue k)).map (·.2)),
   ls.foldl (fun b m => setLane b m { lane b m with applies := (lane b m).applies.filter (fun a => !pulseDue k a) }) b)

/-- The timebase cycle from which a pulse is asserted, and the one after its last. -/
def Pulse.start (p : Pulse) : Nat := p.fired + p.delay
def Pulse.stop (p : Pulse) : Nat := p.start + p.len

/-- TRIGGER_FIRE (R32): the oldest firing of output `n` that is due: the pulse, which joins those that have not ended by its
timebase cycle, and the line records of the ports that name the output. -/
def triggerFire (n : Nat) (b : Block) : Block :=
  let x := trigOf b n
  match x.due with
  | [] => b
  | f :: l =>
    if nowTb b < f.cyc then b
    else
      let cfg := frc b (Reg.TB_TRIG_CFG n)
      let a := applyServe b f.line (applyLanes b n f.line)
      let pulse : Pulse := { fired := f.cyc, delay := cfg.fld 31 24, len := a.1.getD (cfg.fld 23 16) + 1, low := cfg.bit 1,
                             apply := a.1.isSome }
      let b := setTrig a.2 n { x with last := some f.line, due := l,
                                      pulses := x.pulses.filter (fun p => decide (f.cyc < p.stop)) ++ [pulse],
                                      count := x.count + 1 }
      (upFrom 0 8).foldl (fun b m => if (cpCfg b m).fld 7 5 = n then portFire b m n f else b) b

/-- Every firing of output `n` that is due by now. -/
def fireDue (n : Nat) (b : Block) : Block := (upFrom 0 (trigOf b n).due.length).foldl (fun b _ => triggerFire n b) b

/-- The level of a trigger output in timebase cycle `t` (R32): the active level during a pulse; outside, the level that is not
active by the POL in force. -/
def trigLevel (b : Block) (n t : Nat) : Bool :=
  match (trigOf b n).pulses.find? (fun p => decide (p.start ≤ t ∧ t < p.stop)) with
  | some p => !p.low
  | none => (frc b (Reg.TB_TRIG_CFG n)).bit 1

/-- R90: at cycle 0 of row `row`, entries whose reference row lies four or more rows back are released. -/
def intakeRelease (b : Block) (row : Nat) : Block :=
  b.ports.foldl (fun b e =>
    setPrt b e.1 { prt b e.1 with intake := (prt b e.1).intake.filter (fun i => !lineGe row (lineAdd i.ref 4)) }) b

/-- An event of a port that takes its entries from a recording does nothing (R476). -/
def camLive (n : Nat) (f : Block → Block) (b : Block) : Block :=
  if replayOn b && b.dbg.ports.contains n then b else f b

end Sys2Proof.Machine
end

