-- ==== Sys2Proof/Machine/Lane.lean ====
section
/-! DEFINITION. The front-end lanes (spec/04_front_end_lanes.md R96 to R117): which settings set a line uses, one line
through the lane, statistics, the head message, and the calibration table port. -/

namespace Sys2Proof.Machine

/-! ## Settings sets (R107 to R109, R116) -/

/-- The register file of settings that a line uses (R107, R108): the newest set that formed at the boundary of an earlier
sheaf than the line's. -/
def laneReader (b : Block) (k : Nat) (a : Nat) : Word :=
  if sheafGt (sheafOf k) b.regs.forceAt then frc b a
  else if sheafGt (sheafOf k) b.regs.prevAt then prv b a else prv2 b a

/-- The set of lane `n` for line `k` (R108). -/
def laneSet (b : Block) (n k : Nat) : LaneP := laneSetOf (laneReader b k) (0x3000 + 0x200 * n)

/-- The SH registers of lane `n` that form its set (R107). -/
def laneShRegs (n : Nat) : List Nat :=
  [Reg.FE_LANE_CTRL n, Reg.FE_LANE_SNR n, Reg.FE_LANE_NR_THR n, Reg.FE_LANE_TNR n, Reg.FE_LANE_LEVEL n, Reg.FE_LANE_TAG n,
   Reg.FE_LANE_HEAD n] ++ (upFrom 0 16).map (Reg.FE_LANE_HEADM n) ++
  (upFrom 0 4).flatMap (fun o => [Reg.FE_LANE_OUT_CFG n o, Reg.FE_LANE_OUT_CROP n o])

/-- R116: the checks at set formation. `f` reads the values as they will stand after the boundary. -/
def laneFormOk (f : Nat → Word) (n : Nat) : Bool :=
  let head := f (Reg.FE_LANE_HEAD n)
  let trig := (f (Reg.FE_PORT_CFG n)).fld 7 5
  laneSetOk (laneSetOf f (0x3000 + 0x200 * n)) (head.fld 12 8) &&
    (!head.bit 17 || decide (head.fld 27 20 ≠ (f (Reg.TB_TRIG_CFG trig)).fld 23 16))

/-- A calibration table entry: table 0 FFC, 1 DPC, 2 gamma (R112). -/
def calAt (b : Block) (n bank tbl i : Nat) : Word :=
  spGet calReset b.mems.cal (n * 2 ^ 21 + bank * 2 ^ 20 + tbl * 2 ^ 16 + i)

/-! ## Statistics (R113, R114) -/

/-- The record of lane `n` for the sheaf of line `k` is opened with the sheaf's tag. -/
def statOpen (b : Block) (n k : Nat) : Block :=
  let x := lane b n
  if x.stats.any (fun s => s.sheaf = sheafOf k) then b
  else setLane b n { x with stats := x.stats ++ [⟨sheafOf k, (laneSet b n k).tag, false, false, 0, 0, 0, [], []⟩] }

/-- Change the record of a sheaf. -/
def updStat (b : Block) (n sheaf : Nat) (f : LaneStat → LaneStat) : Block :=
  let x := lane b n
  setLane b n { x with stats := x.stats.map (fun s => if s.sheaf = sheaf then f s else s) }

/-- Add one to a sparse counter. -/
def spInc (m : List (Nat × Nat)) (k v : Nat) : List (Nat × Nat) := spMod (fun _ => 0) m k (· + v)

/-- The zone of column `i` of a line of `len` pixels (R113): zone z begins at floor(z * len / 16). -/
def zoneOf (len i : Nat) : Nat := ((upFrom 1 15).filter (fun z => decide (z * len / 16 ≤ i))).length

/-- R113: a line enters the statistics with its first `m` pixels. -/
def statLine (s : LaneStat) (r : LaneRes) (m : Nat) (bad : Bool) : LaneStat :=
  if bad then s
  else
    let v := r.tap1.take m
    let len := r.tap1.length
    { s with lines := s.lines + 1, sat := s.sat + (v.filter (· = 4095)).length,
             clip := s.clip + ((r.clip.take m).filter (· = true)).length,
             hist := v.foldl (fun h p => spInc h (p / 16) 1) s.hist,
             zones := ((upFrom 0 v.length).zip v).foldl (fun h ip => spInc h (zoneOf len ip.1) ip.2) s.zones }

/-- R114: the words of a statistics record; `malf`: the lines with MALFORMED, included or not. -/
def statWords (n : Nat) (s : LaneStat) (malf : Nat) (headErr : Bool) : List Word :=
  [wd s.sheaf, wd (n * 2 ^ 16 + b2n s.cropOvr * 512 + b2n headErr * 256 + s.tag % 256),
   wd (malf % 65536 * 65536 + s.lines % 65536), wd s.sat, wd s.clip, 0#32, 0#32, 0#32]
  ++ (upFrom 0 256).map (fun i => wd (spGet (fun _ => 0) s.hist i))
  ++ (upFrom 0 16).flatMap (fun z => let v := spGet (fun _ => 0) s.zones z; [wd v, wd (v / 2 ^ 32)])

/-- Is a line of sheaf `sh` still in hand in lane `n`: one that overruns its slot, and enters the statistics yet (R56)? -/
def laneInHand (b : Block) (n sh : Nat) : Bool :=
  b.seq.invs.any (fun v => let e := (schedFor b v.stage v.line).entry v.stage
    !v.done && !v.chaff && !v.golden && decide (e.kind = 0 ∧ e.unit = n ∧ sheafOf v.line = sh))

/-- Has the slot of the last line of sheaf `sh` closed for lane `n` (R114)? The lane's entry is the one that names its unit. -/
def slotsClosed (b : Block) (n sh : Nat) : Bool :=
  match b.sched.stages.find? (fun st => let e := b.sched.entry st; decide (e.kind = 0 ∧ e.unit = n) && !e.gold), b.seq.row with
  | some st, some j =>
    let e := b.sched.entry st
    let cl := lineAdd (sh * 1024 + 1023) (e.offset + e.span)
    lineGt j cl || (decide (j = cl) && decide (b.seq.rowC + e.fin ≤ b.pwr.ccy))
  | some _, none => false
  | none, _ => true

/-- Is the record of sheaf `sh` of lane `n` finished (R114)? -/
def statsClosed (b : Block) (n sh : Nat) : Bool := slotsClosed b n sh && !laneInHand b n sh

/-- LANE_STATS_DONE (R114): after the slot of the sheaf's last line has closed, the record of the oldest sheaf gathered is written
and STAT_SEQ counts. -/
def laneStatsDone (n : Nat) (b : Block) : Block :=
  let x := lane b n
  match x.stats with
  | [] => b
  | s :: l =>
    if statsClosed b n s.sheaf = false then b
    else
    let base := (frc b (Reg.FE_LANE_STAT_BASE_HI n)).fld 1 0 * 2 ^ 32 + (frc b (Reg.FE_LANE_STAT_BASE_LO n)).fld 31 13 * 8192
    let ws := statWords n s (spGet (fun _ => 0) x.malfs s.sheaf) (x.headErr.contains s.sheaf)
    let b := setLane b n { x with stats := l, malfs := spErase s.sheaf x.malfs, headErr := x.headErr.filter (· ≠ s.sheaf) }
    let r := gdPut b (base + 2048 * (s.sheaf % 4)) (wordBytes ws)
    if r.2 then bump r.1 (Reg.FE_LANE_STAT_SEQ n) 1 else r.1

/-! ## One line -/

/-- R105, R106: the payload of output `o` of a lane: the output's pixels, or zeros over the whole pixel region where the
output is disabled. The second part: a source index lay beyond the line. -/
def laneOutBytes (p : LaneP) (r : LaneRes) (fill o region : Nat) : List Byte × Bool :=
  match p.outs[o]? with
  | some out =>
    if out.en then (let x := laneOut out r fill; (packRow out.fmt x.1, x.2)) else (List.replicate region 0#8, false)
  | none => (List.replicate region 0#8, false)

/-- Write the outputs of a lane under one header. The second part: CROP_OVR. -/
def laneOutputs (b : Block) (sc : Sched) (st k : Nat) (p : LaneP) (r : LaneRes) (fill : Nat) (h : List Word) : Block × Bool :=
  let es := outEntries b sc st k
  ((upFrom 0 es.length).zip es).foldl (fun acc ie =>
    let x := laneOutBytes p r fill ie.1 (4096 * ie.2.1.count - 16)
    (ringWrite acc.1 ie.2.1 ie.2.2 h x.1, acc.2 || x.2)) (b, false)

/-- R65, R115: a golden run: the golden image with its own set, tables and temporal state. -/
def laneGolden (b : Block) (sc : Sched) (v : Inv) (g : GoldImg) : Block :=
  let r := laneLine g.set (fun i => wAt g.ffc i) g.dpc (fun j => pxAt g.gam j) g.px (fun i => g.tnr[i]?)
  let h := mkHdr v.line (invSuspect b v) false true 0 (wd (g.px.length * 2 ^ 16 + 0xF000)) g.set.tag (invOwn v)
  (laneOutputs b sc v.stage v.line g.set r g.fill h).1

/-- R101: the temporal state of position `i` from the line before, where it is valid. -/
def tnrPrev (x : LaneSt) (k rcvd : Nat) (bad : Bool) (i : Nat) : Option Nat :=
  if bad = false ∧ i < rcvd ∧ x.tnrLine = some (lineSub k 1) ∧ i < x.tnrOk then x.tnr[i]? else none

/-- R96 to R106: lane `n` processes the intake entry of its line. -/
def laneRun (b : Block) (sc : Sched) (v : Inv) (n : Nat) (e : Intake) : Block :=
  let k := v.line
  let p := laneSet b n k
  let w2 := wAt e.hdr 2
  let len := e.px.length
  let rcvd := min (w2.fld 31 16) len
  let bad := w2.bit 3 || w2.bit 7 || w2.bit 8
  let x := lane b n
  let prev := tnrPrev x k rcvd bad
  let r := laneLine p (calAt b n p.bank 0) ((upFrom 0 256).map (fun i => (calAt b n p.bank 1 i).fld 13 0))
    (fun j => (calAt b n p.bank 2 j).fld 11 0) e.px prev
  let h := mkHdr k (invSuspect b v || hdrSuspect e.hdr) (hdrMalformed e.hdr) false (hdrTick e.hdr) w2 p.tag (invOwn v)
  let o := laneOutputs b sc v.stage k p r e.fill h
  let b := setLane o.1 n { x with tnr := r.tnr, tnrLine := some k, tnrOk := if p.tnrEn && !bad then rcvd else 0 }
  -- every position reset (R101)
  let b := if p.tnrEn && ((upFrom 0 len).all (fun i => (prev i).isNone)) then bump b (Reg.FE_LANE_CNT_TNR_RESET n) 1 else b
  let b := if r.unfix = 0 then b else raiseOnce (bump b (Reg.FE_LANE_CNT_DPC_UNFIX n) r.unfix) 0x3B n n
  let b := if r.dpcBad then orRg b (Reg.FE_LANE_STATUS n) 16 else b
  let b := if o.2 then orRg b (Reg.FE_LANE_STATUS n) 8 else b
  let b := setF b (Reg.FE_LANE_STATUS n) 15 8 p.tag
  updStat (statOpen b n k) n (sheafOf k)
    (fun s => statLine { s with cropOvr := s.cropOvr || o.2 } r rcvd bad)

/-- The invocation of a lane at its completion; false where its intake entry is not complete yet (R90, R97). -/
def lanePipe (b : Block) (sc : Sched) (v : Inv) (n : Nat) : Block × Bool :=
  if v.golden then
    match b.cfg.gold.bind (fun g => (g.lanes.find? (fun e => e.1 = n)).map (·.2)) with
    | some g => (laneGolden b sc v g, true)
    | none => (b, false)
  else
    match (prt b n).intake.find? (fun e => e.line = v.line && e.done) with
    | some e => (laneRun b sc v n e, true)
    | none => (b, false)

/-! ## Head messages (R110, R111) -/

/-- HEAD_BUSY follows the queue of messages. -/
def headBusy (b : Block) (n : Nat) : Block :=
  setF b (Reg.FE_LANE_STATUS n) 5 5 (b2n (decide ((lane b n).msgs ≠ [])))

/-- The oldest message is complete: it asks for its apply pulse, at or after the boundary of its sheaf or, where it is late, at
the next firing. -/
def headDone (x : LaneSt) (m : HeadMsg) (rest : List HeadMsg) : LaneSt :=
  { x with msgs := rest,
           applies := if m.apply then x.applies ++ [(if m.late then none else some (m.sheaf * 1024 % 2 ^ 44), m.apw)]
                      else x.applies }

/-- Messages without a write left complete, in order. -/
def headAdvance (x : LaneSt) : List HeadMsg → LaneSt
  | [] => { x with msgs := [] }
  | m :: l => if m.writes = [] then headAdvance (headDone x m l) l else { x with msgs := m :: l }

/-- HEAD_WRITE_DONE (R110): the STOP of the write under way. -/
def headWriteDone (n : Nat) (b : Block) : Block :=
  let x := lane b n
  match x.msgs with
  | [] => b
  | m :: l => headBusy (setLane b n (headAdvance x ({ m with writes := m.writes.drop 1 } :: l))) n

/-- HEAD_NACK (R111): the rest of the message is aborted; no apply pulse. -/
def headNack (n : Nat) (b : Block) : Block :=
  let x := lane b n
  match x.msgs with
  | [] => b
  | m :: l =>
    let x := { x with headErr := if x.headErr.contains m.sheaf then x.headErr else x.headErr ++ [m.sheaf] }
    raise (orRg (headBusy (setLane b n (headAdvance x l)) n) (Reg.FE_LANE_STATUS n) 2) 0x39 n

/-- R110, R117: the message of the set just formed by lane `n`; `sh`: the sheaf that its record marks, `late`: whether its pulse
comes at the next firing. -/
def headStart (b : Block) (n sh : Nat) (late : Bool) : Block :=
  let x := lane b n
  if x.headWr = false then b
  else
    let h := frc b (Reg.FE_LANE_HEAD n)
    let m : HeadMsg := { addr := h.fld 6 0, writes := (upFrom 0 (h.fld 12 8)).map (fun i => frc b (Reg.FE_LANE_HEADM n i)),
                         apply := h.bit 17, apw := h.fld 27 20, sheaf := sh, late := late }
    headBusy (setLane b n (headAdvance { x with headWr := false } (x.msgs ++ [m]))) n

/-- R111: at the boundary that starts sheaf `sh`, messages of that sheaf's set that have not completed are late. -/
def headLate (b : Block) (n sh : Nat) : Block :=
  let x := lane b n
  if x.msgs.any (fun m => m.sheaf = sh && !m.late) then
    let x := { x with msgs := x.msgs.map (fun m => if m.sheaf = sh then { m with late := true } else m),
                      headErr := x.headErr.filter (· ≠ sh) ++ [sh] }
    raise (orRg (setLane b n x) (Reg.FE_LANE_STATUS n) 4) 0x3A n
  else b

/-! ## Stepping registers (R368) -/

/-- The last read of a stepping register, if it was less than 60 ns (75 core cycles) ago: the value it returned. -/
def stepEarly (b : Block) (reg : Nat) : Option Word :=
  match b.host.stepC.find? (fun e => e.1 = reg) with
  | some (_, c, w) => if b.pwr.ccy < c + 75 then some w else none
  | none => none

/-- The value that a read of a stepping register returns: the mirror copy, or the same value again. -/
def stepVal (b : Block) (reg : Nat) : Word := (stepEarly b reg).getD (mir b reg)

/-- A read of a stepping register: within 60 ns of the previous read of the same register it only counts; else it is
recorded (R474) and steps by `f`. -/
def stepRead (reg : Nat) (f : Block → Block) (b : Block) : Block :=
  let e := stepEarly b reg
  let w := stepVal b reg
  let b := { b with host := { b.host with stepC := b.host.stepC.filter (fun e => e.1 ≠ reg) ++ [(reg, b.pwr.ccy, w)] } }
  if e.isSome then bump b Reg.HOST_CNT_STEP_EARLY 1 else f (recHost b 4 reg w 0)

/-! ## The calibration table port (R112, R117) -/

/-- Key of the entry that TBL_ADDR names, and its mask; none for a reserved table or an index beyond the table. -/
def tblSel (a : Word) (n : Nat) : Option (Nat × Word) :=
  let t := a.fld 17 16; let i := a.fld 15 0
  let key := n * 2 ^ 21 + a.fld 20 20 * 2 ^ 20 + t * 2 ^ 16 + i
  if t = 0 ∧ i < 16384 then some (key, 0xFFFF0FFF#32)
  else if t = 1 ∧ i < 256 then some (key, 0x3FFF#32)
  else if t = 2 ∧ i < 65 then some (key, 0xFFF#32)
  else none

/-- INDEX increments after each access. -/
def tblStep (b : Block) (n : Nat) : Block :=
  setF b (Reg.FE_LANE_TBL_ADDR n) 15 0 ((rg b (Reg.FE_LANE_TBL_ADDR n)).fld 15 0 + 1)

/-- Is a bank of lane `n` locked (R112): named by the set in force or by the pending set? -/
def bankLocked (b : Block) (n bank : Nat) : Bool :=
  decide ((prv b (Reg.FE_LANE_CTRL n)).fld 5 5 = bank ∨ (frc b (Reg.FE_LANE_CTRL n)).fld 5 5 = bank)

/-- The value that FE_LANEn_TBL_DATA shows. -/
def tblData (b : Block) (n : Nat) : Word :=
  match tblSel (rg b (Reg.FE_LANE_TBL_ADDR n)) n with
  | some s => spGet calReset b.mems.cal s.1
  | none => 0#32

/-- Write one entry of a table. -/
def calPut (b : Block) (k : Nat) (w : Word) : Block := { b with mems := { b.mems with cal := spPut calReset b.mems.cal k w } }

/-- A write of FE_LANEn_TBL_DATA. -/
def feTblDataWrite (n : Nat) (w : Word) (b : Block) : Block :=
  let a := rg b (Reg.FE_LANE_TBL_ADDR n)
  let b' := if bankLocked b n (a.fld 20 20) then orRg b (Reg.FE_LANE_STATUS n) 64
    else match tblSel a n with
      | some s => calPut b s.1 (w &&& s.2)
      | none => orRg b (Reg.FE_LANE_STATUS n) 64
  tblStep b' n

/-- A read of FE_LANEn_TBL_DATA. -/
def feTblDataRead (n : Nat) (b : Block) : Block := stepRead (Reg.FE_LANE_TBL_DATA n) (fun b => tblStep b n) b

end Sys2Proof.Machine
end

