-- ==== Sys2Proof/Machine/Engines.lean ====
section
/-! DEFINITION. The vision engines as PIPE stages: what an invocation of a warp, pyramid, tuft, stereo or flow engine reads,
writes and keeps (spec/05 to spec/08), and their table ports. -/

namespace Sys2Proof.Machine

/-! ## What the engines share -/

/-- The ring of the i-th RIPE check of an entry. -/
def inRing (sc : Sched) (e : Entry) (i : Nat) : RingRef :=
  (((sc.checks e).filter (fun c => !c.sync))[i]?).elim ⟨0, 1, 1⟩ (·.ring)

/-- The pixels of a ring entry. -/
def ringPx (b : Block) (r : RingRef) (m fmt w : Nat) : List Nat :=
  unpackRow fmt w (grRd b (r.addr m + 16) (rowBytes fmt w))

/-- The pixels of a ring entry as 12-bit values (R141). -/
def ring12 (b : Block) (r : RingRef) (m fmt w : Nat) : List Nat := (ringPx b r m fmt w).map (to12 fmt)

/-- Lines in ring-index order (R93: among equal line numbers the lowest ring index comes first). -/
def ringOrder (r : RingRef) (ms : List Nat) : List Nat := sortBy (fun a c => decide (ringIdx r.depth a < ringIdx r.depth c)) ms

/-- The headers of some lines of a ring. -/
def ringHdrs (b : Block) (r : RingRef) (ms : List Nat) : List (List Word) := (ringOrder r ms).map (ringHdr b r)

/-- The bytes that the reader of a line reads: header and pixels. -/
def lineSpan (r : RingRef) (fmt w m : Nat) : Nat × Nat := (r.addr m, 16 + rowBytes fmt w)

/-- R273: the own mark of an output that depends on an uncorrectable word. -/
def ueMark (st : Nat) (ue : Bool) : Option (Nat × Nat) := if ue then some (1, st) else none

/-- The header of an output of an invocation from the headers read and a mark of the engine's own. -/
def pipeHdr (b : Block) (v : Inv) (tick : Nat) (ins : List (List Word)) (own : Option (Nat × Nat)) : List Word :=
  outHdr v.line v.golden tick ins (ownMark (invOwn v) own) (invSuspect b v)

/-- Write the i-th output entry of an invocation. -/
def putOut (b : Block) (es : List (RingRef × Nat)) (i : Nat) (h : List Word) (payload : List Byte) : Block :=
  match es[i]? with
  | some e => ringWrite b e.1 e.2 h payload
  | none => b

/-! ## Warp (R120 to R128) -/

/-- A mesh point of a set: DY in 31:16, DX in 15:0 (R121). -/
def meshAt (b : Block) (p : WarpP) (gx gy : Nat) : Word :=
  spGet meshReset b.mems.mesh (p.bank * 65536 + p.mbase + gy * p.mx + gx)

/-- The parameter set of an invocation. -/
def warpP (b : Block) (sc : Sched) (v : Inv) : WarpP :=
  warpSetOf (usedSet b v.stage v.line v.golden) (Reg.WP_SET_CFG ((sc.entry v.stage).arg % 16))

/-- The input lines of an invocation: m - YW to m + YW. -/
def warpLines (p : WarpP) (v : Inv) : List Nat :=
  if v.golden then [v.line] else (upFrom 0 (2 * p.yw + 1)).map (fun i : Nat => lineAdj v.line ((i : Int) - p.yw))

/-- A warp invocation; `bad` are the uncorrectable words among those it read. -/
def warpRun (b : Block) (sc : Sched) (v : Inv) (bad : List Nat) : Block :=
  let e := sc.entry v.stage
  let k := v.line
  let p := warpP b sc v
  let r := inRing sc e 0
  let ms := warpLines p v
  let rows := ms.map (fun m => ringPx b r m p.fmt p.inW)
  let px : Int → Nat → Nat := fun y c => pxAt ((rows[if v.golden then 0 else (y + p.yw).toNat]?).getD []) c
  let dx := fun gx gy => sext 16 ((meshAt b p gx gy).fld 15 0)
  let dy := fun gx gy => sext 16 ((meshAt b p gx gy).fld 31 16)
  let out := (upFrom 0 p.w).map (warpPix p dx dy px (k % 1024))
  let oob := (out.filter (·.2)).length
  let ins := ringHdrs b r ms
  let b := putOut b (outEntries b sc v.stage k) 0 (pipeHdr b v (tickOf b k) ins (ueMark v.stage (bad ≠ [])))
    (packRow p.fmt (out.map (·.1)))
  let b := if oob = 0 then b else
    let b := bump b (Reg.WP_CNT_OOB v.phys) oob
    if p.oob = 2 then raiseOnce b 0x41 v.phys v.phys else b
  bump b (Reg.WP_CNT_INV v.phys) 1

/-- The step of WP_MESH_ADDR.INDEX after an access. -/
def meshStep (b : Block) : Block := setF b Reg.WP_MESH_ADDR 15 0 ((rg b Reg.WP_MESH_ADDR).fld 15 0 + 1)

/-- R128: is a mesh bank named by the current or the previous generation of a warp set? -/
def meshLocked (b : Block) (bank : Nat) : Bool :=
  (upFrom 0 16).any (fun s => decide ((frc b (Reg.WP_SET_CFG s)).fld 11 11 = bank ∨ (prv b (Reg.WP_SET_CFG s)).fld 11 11 = bank))

/-- The key of the mesh point that WP_MESH_ADDR names. -/
def meshKey (b : Block) : Nat := (rg b Reg.WP_MESH_ADDR).fld 16 0

/-- Write a mesh point. -/
def meshPut (b : Block) (k : Nat) (w : Word) : Block := { b with mems := { b.mems with mesh := spPut meshReset b.mems.mesh k w } }

/-- WP_MESH_DATA_WRITE (R128). -/
def wpMeshDataWrite (w : Word) (b : Block) : Block :=
  meshStep (if meshLocked b (meshKey b / 65536) then raise (orRg b Reg.WP_STATUS 2) 0x42 15 else meshPut b (meshKey b) w)

/-- The value that WP_MESH_DATA shows. -/
def meshData (b : Block) : Word := spGet meshReset b.mems.mesh (meshKey b)

/-- WP_MESH_DATA_READ. -/
def wpMeshDataRead (b : Block) : Block := stepRead Reg.WP_MESH_DATA meshStep b

/-! ## Pyramid (R129 to R134) -/

/-- The level store of a physical pyramid engine (R130). -/
def pyrOf (b : Block) (q : Nat) : PyrSt := spGet (fun _ => PyrSt.init) b.pyr q

/-- Write it. -/
def setPyr (b : Block) (q : Nat) (x : PyrSt) : Block := { b with pyr := spPut (fun _ => PyrSt.init) b.pyr q x }

/-- Lines of a level, newest first. -/
def pyrRows (x : List (Nat × List PyrRow)) (l : Nat) : List PyrRow := spGet (fun _ => []) x l

/-- R129, R132: the window of line number `2 n` at a level whose numbers wrap at 2^bits: the five lines a[-2] to a[+2],
an absent one replaced by the nearest present one; and whether one was absent. `rows` are the present lines, newest
first. Numbers present form a run that ends at the newest line. -/
def pyrWindow (rows : List PyrRow) (bits n : Nat) : List PyrRow × Bool :=
  let at5 := (upFrom 0 5).reverse.map (fun j => rows.find? (fun r => r.num = subMod bits (2 * n) j))
  let nearest := at5.findSome? id
  let l := at5.map (fun o => match o with | some r => some r | none => nearest)
  (l.filterMap id, at5.any Option.isNone)

/-- R130: the levels that an invocation for line `m` produces, one after the other. `susp`: the invocation's own SUSPECT;
the result lists the produced lines by level, each with whether its window held an absent line. Stored lines carry the marks that
their outputs carry. -/
def pyrLevels (p : PyrP) (b : Block) (v : Inv) (tick : Nat) :
    List Nat → List (Nat × List PyrRow) → List (Nat × PyrRow × Bool)
  | [], _ => []
  | l :: ls, st =>
    let m2 := (v.line + 2) % 2 ^ 44
    if v.golden = false ∧ m2 % 2 ^ l ≠ 0 then []
    else
      let win := if v.golden then (List.replicate 5 ((pyrRows st (l - 1))[0]?) |>.filterMap id, false)
        else pyrWindow (pyrRows st (l - 1)) (44 - (l - 1)) (m2 / 2 ^ l)
      let rows := win.1
      let ue := rows.any (·.ue)
      let own := ownMark (invOwn v) (if win.2 || ue then some (1, v.stage) else none)
      let h := outHdr v.line v.golden tick (rows.map (·.hdr)) own (invSuspect b v)
      let r : PyrRow := { num := m2 / 2 ^ l, px := pyrLine p (pyrWidth p.w (l - 1)) (rows.map (·.px)), hdr := h, ue := ue }
      (l, r, win.2) :: pyrLevels p b v tick ls (spPut (fun _ => []) st l (r :: (pyrRows st l)))

/-- The parameter set of an invocation. -/
def pyrP (b : Block) (sc : Sched) (v : Inv) : PyrP :=
  pyrSetOf (usedSet b v.stage v.line v.golden) (Reg.PY_SET_CFG ((sc.entry v.stage).arg % 16))

/-- A pyramid invocation. It counts a gap where an output's window held an absent line (R132). -/
def pyrRun (b : Block) (sc : Sched) (v : Inv) (bad : List Nat) : Block :=
  let e := sc.entry v.stage
  let k := v.line
  let p := pyrP b sc v
  let r := inRing sc e 0
  let h0 := ringHdr b r k
  let x := pyrOf b v.phys
  let gap := decide (x.last ≠ some (lineSub k 1))
  let row0 : PyrRow := { num := (k + 2) % 2 ^ 44, px := ringPx b r k p.fmt p.w, hdr := h0, ue := bad ≠ [] }
  let old := if gap then [] else x.levels
  let st := if v.golden then [(0, [row0])] else spPut (fun _ => []) old 0 (row0 :: pyrRows old 0)
  let made := pyrLevels p b v (tickOf b k) (upFrom 1 p.nlev) st
  let es := outEntries b sc v.stage k
  let exp := (pyrExports p).filterMap (fun l => made.find? (fun y => y.1 = l))
  let b := ((upFrom 0 exp.length).zip exp).foldl (fun b iy => putOut b es iy.1 iy.2.2.1.hdr (packRow p.fmt iy.2.2.1.px)) b
  let b := bump b (Reg.PY_CNT_INV v.phys) 1
  if v.golden then b
  else
    let keep := made.foldl (fun s y => spPut (fun _ => []) s y.1 (y.2.1 :: pyrRows s y.1)) st
    let levels := (keep.filter (fun y => decide (y.1 ≤ 5))).map (fun y => (y.1, y.2.take 4))
    let b := setPyr b v.phys { levels := levels, last := some k }
    if exp.any (fun y => y.2.2) then raiseOnce (bump b (Reg.PY_CNT_GAP v.phys) 1) 0x49 v.phys v.phys else b

/-! ## Tuft (R138 to R155) -/

/-- The state of a logical tuft slot. -/
def tuftOf (b : Block) (q : Nat) : TuftSt := spGet (fun _ => TuftSt.init) b.tuft q

/-- Write it. -/
def setTuft (b : Block) (q : Nat) (x : TuftSt) : Block := { b with tuft := spPut (fun _ => TuftSt.init) b.tuft q x }

/-- R141: a coarse line from the S input lines `us`. -/
def tuftCoarse (p : TuftP) (us : List (List Nat)) : List Nat :=
  tab (p.w / p.s) (fun x =>
    ((us.flatMap (fun u => (upFrom 0 p.s).map (fun c => pxAt u (p.s * x + c)))).foldl (· + ·) 0 + p.s * p.s / 2) / (p.s * p.s))

/-- What the features of one coarse line come to (R145 to R152). -/
structure TuftOut where
  nfeat : Nat
  drop  : Nat
  nref  : Nat
  nskip : Nat
  budgetOut : Bool
  /-- canonical columns refined, one entry for each refinement -/
  cols  : List Nat
  words : List Word
  deriving DecidableEq, Repr

/-- R142 to R152: the features of the coarse line at index 10 of the coarse image `c`; `u` is the full-resolution image
whose line S * 10 is line S * d; `bud q` is the budget left of canonical column `q`. A weak feature of a column that has met
REF_LINE counts as refused by it alone, whatever budget is left: BUDGET_OUT is not set (DESIGN CHOICE, log entry 74). -/
def tuftFeatures (p : TuftP) (c u : Int → Int → Nat) (bud : Nat → Nat) : TuftOut :=
  let wc := p.w / p.s
  let t := tuftResp p.rsh c
  let kd := tuftKeep p (tuftCands p wc t 10)
  let kept := kd.1
  let weak := sortBy (fun f g => decide (f.conf < g.conf) || (decide (f.conf = g.conf) && decide (f.x < g.x)))
    (kept.filter (fun f => p.refEn && decide (f.conf < p.confThr)))
  let sel := tuftSelect p weak [] bud
  let colOf := fun x => tuftCanon p x
  let full := fun q => decide ((sel.1.filter (fun x => colOf x = q)).length < p.refLine)
  { nfeat := kept.length, drop := kd.2, nref := sel.1.length, nskip := sel.2.length,
    budgetOut := sel.2.any (fun x => full (colOf x)), cols := sel.1.map colOf,
    words := kept.flatMap (fun f =>
      if sel.1.contains f.x then tuftRecRefined p u 10 f else tuftRecCoarse p c 10 f (sel.2.contains f.x)) }

/-- R151: words 4 on of an entry. -/
def tuftPayload (o : TuftOut) (absent : Bool) (baseLine : Nat) : List Byte :=
  wordBytes ([wd (b2n absent * 2 ^ 18 + b2n o.budgetOut * 2 ^ 17 + b2n (decide (o.drop ≠ 0)) * 2 ^ 16 + o.nfeat % 1024),
    wd (min 65535 o.drop * 2 ^ 16 + o.nref % 1024), wd baseLine, 0#32] ++ o.words)

/-- Counters and events of an entry (R145, R149); `exhausted`: a column has used up its budget, the first of its sheaf. -/
def tuftCount (b : Block) (v : Inv) (o : TuftOut) (exhausted : Bool) : Block :=
  let n := v.phys
  let b := bump (bump b (Reg.FT_CNT_FEAT n) o.nfeat) (Reg.FT_CNT_REF n) o.nref
  let b := bump (bump b (Reg.FT_CNT_REF_SKIP n) o.nskip) (Reg.FT_CNT_INV n) 1
  let b := if o.drop = 0 then b else raiseOnce (bump b (Reg.FT_CNT_DROP n) o.drop) 0x52 n n
  if exhausted then raise b 0x53 n else b

/-- The parameter set of an invocation. -/
def tuftP (b : Block) (sc : Sched) (v : Inv) : TuftP :=
  tuftSetOf (usedSet b v.stage v.line v.golden) (Reg.FT_SET_CFG ((sc.entry v.stage).arg % 16))

/-- The S input lines of an invocation, latest first. -/
def tuftLines (p : TuftP) (v : Inv) : List Nat := if v.golden then [v.line] else (upFrom 0 p.s).map (fun i => lineSub v.line i)

/-- The lines that refinement reads, latest first. -/
def tuftReach (p : TuftP) (v : Inv) : List Nat := if v.golden then [] else (upFrom 0 (11 * p.s + 10)).map (fun i => lineSub v.line i)

/-- A tuft invocation of logical slot `q`. FT_BUDGET is raised where a refinement uses a budget up, so never in a sheaf of REF_BUDGET
0 (DESIGN CHOICE, log entry 75). -/
def tuftRun (b : Block) (sc : Sched) (v : Inv) (q : Nat) (bad : List Nat) : Block :=
  let e := sc.entry v.stage
  let m := v.line
  let p := tuftP b sc v
  let r := inRing sc e 0
  let x := tuftOf b q
  let ls := tuftLines p v
  let us := if v.golden then List.replicate p.s (ring12 b r m p.fmt p.w)
    else ls.reverse.map (fun l => ring12 b r l p.fmt p.w)
  let row : TuftRow := { px := tuftCoarse p us, hdrs := ls.map (ringHdr b r),
                         ue := bad.any (grIn (ls.map (lineSpan r p.fmt p.w))) }
  let gap := decide (x.last ≠ some (lineSub m p.s))
  let rows := if v.golden then List.replicate 21 row else (row :: (if gap then [] else x.rows)).take 21
  let absent := decide (rows.length < 21)
  -- coarse line 20 of `c` is the newest; an absent line is replaced by the nearest present one, the oldest
  let c : Int → Int → Nat := fun y z =>
    pxAt ((rows[min (20 - y).toNat (rows.length - 1)]?).getD row).px z.toNat
  -- full-resolution line y stands for line m + 1 - 21 S + y; the reach begins at y = 10 S - 10
  let fullRows := (tuftReach p v).map (fun l => ring12 b r l p.fmt p.w)
  let u : Int → Int → Nat := fun y z =>
    if v.golden then pxAt ((us[0]?).getD []) z.toNat else pxAt ((fullRows[(21 * p.s - 1 - y).toNat]?).getD []) z.toNat
  -- line S * d (R149, R151)
  let baseL := lineSub (lineAdd m 1) (11 * p.s)
  let sh := sheafOf baseL
  let fresh := decide (x.sheaf ≠ sh ∨ x.load = none)
  let used := if fresh then [] else x.used
  let full := if fresh then p.budget else x.load.getD 0
  let bud : Nat → Nat := fun k => if v.golden then p.refLine else full - spGet (fun _ => 0) used k
  let o := tuftFeatures p c u bud
  let ins := if v.golden then row.hdrs else (rows.flatMap (·.hdrs)).take (11 * p.s + 10)
  let own := if absent || rows.any (·.ue) || decide (bad ≠ []) then some (1, v.stage) else none
  let used' := o.cols.foldl (fun s k => spInc s k 1) used
  let exhausted := !v.golden && o.cols.any (fun k => decide (full ≤ spGet (fun _ => 0) used' k))
  let b := putOut b (outEntries b sc v.stage m) 0 (pipeHdr b v (tickOf b m) ins own) (tuftPayload o absent baseL)
  let told := !fresh && x.told
  let b := tuftCount b v o (exhausted && !told)
  if v.golden then b
  else
    let b := setTuft b q { rows := rows, last := some m, sheaf := sh, load := some full, used := used', told := told || exhausted }
    if absent then raiseOnce (bump b (Reg.FT_CNT_GAP v.phys) 1) 0x51 v.phys v.phys else b

/-- FT_PAT_DATA (R147): the rotated pair that FT_PAT_ADDR names. -/
def patData (b : Block) : Word :=
  let a := rg b Reg.FT_PAT_ADDR
  let t := tuftPair (a.fld 12 8) (a.fld 7 0)
  wd (wrapN 8 t.2.2.2 * 2 ^ 24 + wrapN 8 t.2.2.1 * 2 ^ 16 + wrapN 8 t.2.1 * 256 + wrapN 8 t.1)

/-- PAIR increments after each read, carrying into THETA. -/
def patStep (b : Block) : Block := setF b Reg.FT_PAT_ADDR 12 0 ((rg b Reg.FT_PAT_ADDR).fld 12 0 + 1)

/-- FT_PAT_DATA_READ. -/
def ftPatDataRead (b : Block) : Block := stepRead Reg.FT_PAT_DATA patStep b

/-! ## Stereo (R160 to R180) -/

/-- The state of a logical stereo slot. -/
def stereoOf (b : Block) (q : Nat) : StereoSt := spGet (fun _ => StereoSt.init) b.stereo q

/-- Write it. -/
def setStereo (b : Block) (q : Nat) (x : StereoSt) : Block := { b with stereo := spPut (fun _ => StereoSt.init) b.stereo q x }

/-- The run fields (R179) as one header, for merging. -/
def StereoSt.runHdr (x : StereoSt) : List (List Word) :=
  match x.word2 with
  | none => []
  | some (l, w, t) => [mkHdr l x.susp x.mal false 0 w t x.chaff]

/-- The run fields after the headers `ins` (R179). -/
def StereoSt.merge (x : StereoSt) (ins : List (List Word)) : StereoSt :=
  let all := x.runHdr ++ ins
  { x with susp := all.any hdrSuspect, mal := all.any hdrMalformed, chaff := mergeChaff all,
           word2 := (wordTwoInput all).map (fun h => (hdrLine h, wAt h 2, hdrTag h)) }

/-- What an invocation keeps between its phases: the header of its entry without the marks of its completion, ABSENT and
an uncorrectable word, the coarse columns, and the six input lines (R181). -/
def stereoData (h : List Word) (absent ue : Bool) (ws : List (List CCol)) (rows : List (List Nat)) : List Word :=
  h ++ [wd (b2n absent + 2 * b2n ue)]
  ++ ws.flatMap (fun l => l.map (fun c => wd (c.d * 2 ^ 24 + c.code * 2 ^ 16 + c.disp)))
  ++ rows.flatMap (fun l => l.map wd)

/-- The coarse columns kept in an invocation's data. -/
def dataCols (d : List Word) (nc : Nat) : List (List CCol) :=
  (upFrom 0 nc).map (fun k => ((d.drop (5 + 160 * k)).take 160).map (fun w =>
    (⟨w.fld 15 0, w.fld 23 16, w.fld 31 24⟩ : CCol)))

/-- The input lines kept: row 0 to 2 the reference view at m - 1 to m + 1, 3 to 5 the other view. -/
def dataRow (d : List Word) (nc w i : Nat) : List Nat := ((d.drop (5 + 160 * nc + w * i)).take w).map BitVec.toNat

/-- The three lines about line `m` of a view. -/
def view3 (b : Block) (r : RingRef) (golden : Bool) (m : Nat) (p : StereoP) : List (List Nat) :=
  ([-1, 0, 1] : List Int).map (fun o => ring12 b r (if golden then m else lineAdj m o) p.fmt p.w)

/-- The parameter set of an invocation. -/
def stereoP (b : Block) (sc : Sched) (v : Inv) : StereoP :=
  stereoSetOf (usedSet b v.stage v.line v.golden) (Reg.ST_SET_CFG ((sc.entry v.stage).arg % 16))

/-- The lines that phase A reads of each view (R181). -/
def stereoLines (v : Inv) : List Nat := if v.golden then [v.line] else [lineSub v.line 1, v.line, lineAdd v.line 1]

/-- Phase A of an invocation of logical slot `q`, already started (R162). -/
def stereoA (b : Block) (sc : Sched) (v : Inv) (q : Nat) (bad : List Nat) : Block :=
  let e := sc.entry v.stage
  let m := v.line
  let p := stereoP b sc v
  let rr := inRing sc e 0
  let ro := inRing sc e 1
  let ref := view3 b rr v.golden m p
  let oth := view3 b ro v.golden m p
  let im : List (List Nat) → Int → Nat → Nat := fun l r c => pxAt ((l[(r + 1).toNat]?).getD []) c
  let ms := stereoLines v
  let ins := ringHdrs b rr ms ++ ringHdrs b ro ms
  let x := stereoOf b q
  let restart := v.golden || decide (m % 1024 % 2 ^ p.vr = 0)
  let hole := !restart && decide (x.last ≠ some (lineSub m 1))
  let ph := stereoPhaseA p (im ref) (im oth) (if restart || hole then none else some x.path)
  -- the run fields belong to the run that began at the latest restart line (R179)
  let start := lineSub m (m % 1024 % 2 ^ p.vr)
  let stale := restart || x.last.all (fun l => lineGt start l)
  let x0 : StereoSt := if stale then { StereoSt.init with path := x.path, last := x.last } else x
  let x1 := { x0.merge ins with path := ph.2, last := some m, gap := x0.gap || hole, ue := x0.ue || decide (bad ≠ []) }
  let own := if x1.gap || x1.ue then some (1, v.stage) else none
  let h := outHdr m v.golden (tickOf b m) x1.runHdr own false
  let b := updInv b v.stage m (fun v => { v with data := stereoData h x1.gap x1.ue ph.1 (ref ++ oth) })
  if v.golden then b
  else
    let b := setStereo b q x1
    if x1.gap then raiseOnce (bump b (Reg.ST_CNT_GAP v.phys) 1) 0x59 v.phys v.phys else b

/-- Is an invocation in phase B? Its phase A has ended, and so has the phase B of the earlier invocation of its engine
(R162). -/
def inPhaseB (b : Block) (v : Inv) : Bool :=
  decide (v.data ≠ []) &&
  ((b.seq.invs.find? (fun u => !u.done && !u.chaff && decide (u.phys = v.phys ∧ u.data ≠ []))).all (fun u =>
    decide (u.stage = v.stage ∧ u.line = v.line)))

/-- The end of phase B: the entry is written. False where the invocation is not in phase B. -/
def stereoB (b : Block) (sc : Sched) (v : Inv) : Block × Bool :=
  if !inPhaseB b v then (b, false)
  else
    let p := stereoP b sc v
    let nc := stereoNC p
    let im : Nat → Int → Nat → Nat := fun o r c => pxAt (dataRow v.data nc p.w (o + (r + 1).toNat)) c
    let o := stereoPhaseB p (im 0) (im 3) (dataCols v.data nc)
    let h := v.data.take 4
    let fl := wAt v.data 4
    let own := ownMark (invOwn v) (if fl ≠ 0#32 then some (1, v.stage) else none)
    let h := match own with
      | some mk => listSet h 3 (hdrW3 (hdrTag h) (some mk))
      | none => h
    let h := if invSuspect b v then listSet h 1 (wAt h 1 ||| 0x100000#32) else h
    let n := v.phys
    let cnt := fun c => (o.pix.filter (fun x => x.code = c)).length
    let b := putOut b (outEntries b sc v.stage v.line) 0 h (stereoPayload p (fl.bit 0) o)
    let b := bump (bump (bump b (Reg.ST_CNT_REF n) o.nref) (Reg.ST_CNT_REF_KEEP n) o.nkeep) (Reg.ST_CNT_INV n) 1
    let b := bump (bump (bump b (Reg.ST_CNT_NOTEX n) (cnt 0)) (Reg.ST_CNT_OCC n) (cnt 1)) (Reg.ST_CNT_OOR n) (cnt 2)
    (if o.nskip = 0 then b else raiseOnce (bump b (Reg.ST_CNT_REF_SKIP n) o.nskip) 0x5A n n, true)

/-! ## Flow (R185 to R199) -/

/-- The accumulators of a logical flow slot. -/
def flowOf (b : Block) (q : Nat) : FlowAcc := spGet (fun _ => FlowAcc.init) b.flow q

/-- R196: words 4 on of a summary entry. -/
def flowSumBytes (sheaf : Nat) (a : FlowAcc) (s : Nat × Int × Bool) : List Byte :=
  wordBytes [wd sheaf, wd (b2n s.2.2 * 2 ^ 31 + a.nuse % 2 ^ 15), wd s.1, wd (wrapN 32 s.2.1), wd (wrapN 32 a.sumg),
    wd (wrapN 32 a.sumdx)]

/-- R198: the mirror of a slot. -/
def flowMirror (b : Block) (q sheaf : Nat) (a : FlowAcc) (s : Nat × Int × Bool) (chaff : Bool) : Block :=
  let b := setRg (setRg b (Reg.FL_SUM_SHEAF q) (wd sheaf)) (Reg.FL_SUM_DFLOW q) (wd s.1)
  setRg (setRg b (Reg.FL_SUM_XFLOW q) (wd (wrapN 32 s.2.1))) (Reg.FL_SUM_STAT q)
    (wd (b2n chaff * 2 ^ 31 + b2n s.2.2 * 2 ^ 30 + a.nuse % 2 ^ 15))

/-- The parameter set of an invocation. -/
def flowP (b : Block) (sc : Sched) (v : Inv) : FlowP :=
  flowSetOf (usedSet b v.stage v.line v.golden) (Reg.FL_SET_CFG ((sc.entry v.stage).arg % 16))

/-- The lines that an invocation reads of view B, newest first. -/
def flowLinesB (v : Inv) : List Nat := if v.golden then [v.line] else (upFrom 0 8).map (fun i => lineSub v.line i)

/-- The lines that an invocation reads of view A, newest first. -/
def flowLinesA (p : FlowP) (v : Inv) : List Nat :=
  if v.golden then [v.line] else (upFrom 0 (2 * p.ys + 8)).map (fun i : Nat => lineAdj v.line ((p.ys : Int) - p.g - i))

/-- A flow invocation of logical slot `q`. -/
def flowRun (b : Block) (sc : Sched) (v : Inv) (q : Nat) (bad : List Nat) : Block :=
  let e := sc.entry v.stage
  let m := v.line
  let p := flowP b sc v
  let rb := inRing sc e 0
  let ra := inRing sc e 1
  let lb := flowLinesB v
  let la := flowLinesA p v
  let rowsB := lb.map (fun l => ring12 b rb l p.fmt p.w)
  let rowsA := la.map (fun l => ring12 b ra l p.fmt p.w)
  let row : List (List Nat) → Nat → List Nat := fun l i => (l[if v.golden then 0 else i]?).getD []
  let ub : Nat → Nat → Nat := fun a c => pxAt (row rowsB (7 - a)) c
  let ua : Int → Nat → Nat → Nat := fun dy a c => pxAt (row rowsA ((p.ys : Int) - dy + 7 - a).toNat) c
  let vs := (upFrom 0 (flowNC p)).map (flowVec p ub ua)
  let ins := ringHdrs b rb lb ++ ringHdrs b ra la
  let h := pipeHdr b v (tickOf b m) ins (ueMark v.stage (bad ≠ []))
  let clean := !(hdrChaff h || hdrMalformed h || hdrSuspect h)
  let last := decide (m % 1024 = 1023) && !v.golden
  let acc := if v.golden then (flowOf b q, 0) else flowAccum p (flowOf b q) (sheafOf m) clean vs
  let es := outEntries b sc v.stage m
  let b := putOut b es 0 h (flowPayload vs last acc.2)
  let b := if v.golden then b else { b with flow := spPut (fun _ => FlowAcc.init) b.flow q acc.1 }
  let n := v.phys
  let cnt := fun c => (vs.filter (fun x => x.code = c)).length
  let b := bump (bump (bump b (Reg.FL_CNT_VEC n) vs.length) (Reg.FL_CNT_USED n) acc.2) (Reg.FL_CNT_INV n) 1
  let b := bump b (Reg.FL_CNT_NOTEX n) (cnt 0)
  let b := if cnt 2 = 0 then b else raiseOnce (bump b (Reg.FL_CNT_OOR n) (cnt 2)) 0x61 n n
  if last then
    let s := flowSummary p acc.1
    let own := ownMark (invOwn v) (if s.2.2 then some (1, v.stage) else none)
    let hs := mkHdr m (invSuspect b v) false false (tickOf b m) 0#32 0 own
    let b := putOut b es 1 hs (flowSumBytes (sheafOf m) acc.1 s)
    let b := flowMirror b q (sheafOf m) acc.1 s own.isSome
    if s.2.2 then raise b 0x62 n else b
  else b

/-! ## Completion of a PIPE invocation -/

/-- The Granary bytes that an invocation of a vision engine reads: the lines of its input rings. A stereo engine reads them in
phase A. -/
def pipeSpans (b : Block) (sc : Sched) (v : Inv) : List (Nat × Nat) :=
  let e := sc.entry v.stage
  let r := inRing sc e 0
  let r1 := inRing sc e 1
  match (unitCls e.unit).1 with
  | 1 => let p := warpP b sc v; (warpLines p v).map (lineSpan r p.fmt p.inW)
  | 2 => let p := pyrP b sc v; [lineSpan r p.fmt p.w v.line]
  | 3 => let p := tuftP b sc v; (tuftLines p v ++ tuftReach p v).map (lineSpan r p.fmt p.w)
  | 4 => let p := stereoP b sc v
         (stereoLines v).map (lineSpan r p.fmt p.w) ++ (stereoLines v).map (lineSpan r1 p.fmt p.w)
  | 5 => let p := flowP b sc v
         (flowLinesB v).map (lineSpan r p.fmt p.w) ++ (flowLinesA p v).map (lineSpan r1 p.fmt p.w)
  | _ => []

/-- Account for the words in error among those an invocation reads (R273). -/
def pipeEcc (b : Block) (sc : Sched) (v : Inv) (errs : List (Nat × EccStat)) : Block × List Nat :=
  grErrs b (pipeSpans b sc v) errs

/-- The unit of a PIPE entry does its work; false where it has not come so far. -/
def pipeRun (b : Block) (sc : Sched) (v : Inv) (errs : List (Nat × EccStat)) : Block × Bool :=
  let u := unitCls (sc.entry v.stage).unit
  if u.1 = 6 then lanePipe b sc v u.2
  else if u.1 = 4 then stereoB b sc v
  else
    let r := pipeEcc b sc v errs
    if u.1 = 1 then (warpRun r.1 sc v r.2, true)
    else if u.1 = 2 then (pyrRun r.1 sc v r.2, true)
    else if u.1 = 3 then (tuftRun r.1 sc v u.2 r.2, true)
    else if u.1 = 5 then (flowRun r.1 sc v u.2 r.2, true)
    else (b, false)

/-- STEREO_PHASE_A_DONE. -/
def stereoPhaseADone (st k : Nat) (errs : List (Nat × EccStat)) (b : Block) : Block :=
  match findInv b st k with
  | none => b
  | some v =>
    let sc := schedFor b st k
    let e := sc.entry st
    let u := unitCls e.unit
    if v.done || v.chaff || decide (v.data ≠ []) || decide (e.kind ≠ 0) || decide (u.1 ≠ 4) then b
    else let r := pipeEcc b sc v errs; stereoA r.1 sc v u.2 r.2

end Sys2Proof.Machine
end

