-- ==== Sys2Proof/Machine/Winnow.lean ====
section
/-! DEFINITION. The winnow (spec/19_safety.md R437 to R447) and the slip comparator (spec/01 R43, spec/08 R197): their
invocations, and the verdict of a chaff-run. -/

namespace Sys2Proof.Machine

/-! ## Safety records (R439 to R441) -/

/-- A channel's settings (R465). -/
structure WinCh where
  cfg  : Word
  tol  : Word
  colA : Nat
  colB : Nat
  thr  : Word
  band : Word
  wa   : Nat
  wb   : Nat
  deriving DecidableEq, Repr

/-- The settings in force of channel `w`. -/
def winCh (b : Block) (w : Nat) : WinCh :=
  { cfg := frc b (Reg.SAFE_WCH_CFG w), tol := frc b (Reg.SAFE_WCH_TOL w), colA := (frc b (Reg.SAFE_WCH_COLA w)).fld 19 0,
    colB := (frc b (Reg.SAFE_WCH_COLB w)).fld 19 0, thr := frc b (Reg.SAFE_WCH_THR w), band := frc b (Reg.SAFE_WCH_BAND w),
    wa := (frc b (Reg.SAFE_WCH_WID w)).fld 14 0, wb := (frc b (Reg.SAFE_WCH_WID w)).fld 30 16 }

/-- The maximal runs of pixels that are not present: first pixel and length. `open?` is the start of the run under way. -/
def absentRuns : List Bool → Nat → Option Nat → List (Nat × Nat)
  | [], _, none => []
  | [], i, some s => [(s, i - s)]
  | true :: l, i, none => absentRuns l (i + 1) none
  | true :: l, i, some s => (s, i - s) :: absentRuns l (i + 1) none
  | false :: l, i, none => absentRuns l (i + 1) (some i)
  | false :: l, i, some s => absentRuns l (i + 1) (some s)

/-- The words 6 and 7 of a safety record from the strip columns that set bits. -/
def maskWords (qbase : Nat) (cols : List Nat) : List Word :=
  let on := fun i => cols.any (fun c => decide (c / 256 = qbase + i))
  let half := fun o => wd ((upFrom 0 32).foldl (fun v i => v + (if on (o + i) then 2 ^ i else 0)) 0)
  [half 0, half 32]

/-- R440: words 4 to 7 of the safety record of a line of 12-bit pixels. -/
def reduceLine (pol : Bool) (thr : Word) (qbase col0 : Nat) (u : List Nat) : List Word :=
  let present := fun (p : Nat) => if pol then decide (p ≤ thr.fld 11 0) else decide (thr.fld 11 0 ≤ p)
  let ps := u.map present
  let r := thr.fld 21 16 + 1
  let full := fun x => let l := (ps.drop x).take r; decide (l.length = r) && l.all id
  let starts := (upFrom 0 u.length).filter full
  match starts.head?, starts.getLast? with
  | some l, some s =>
    let r' := s + r - 1
    let holes := (absentRuns ps 0 none).filter (fun h =>
      decide (l + r ≤ h.1 ∧ h.1 + h.2 ≤ r' + 1 - r ∧ thr.fld 31 24 ≤ h.2))
    [wd (2 ^ 31 + (col0 + l) * 16 % 2 ^ 24), wd (2 ^ 31 + (col0 + r') * 16 % 2 ^ 24)]
      ++ maskWords qbase (holes.map (fun h => col0 + h.1))
  | _, _ => [wd (2 ^ 30), 0#32, 0#32, 0#32]

/-- R441: words 4 to 7 of the safety record of a stereo entry; none where HGT is 0. -/
def reduceStereo (b : Block) (band : Word) (qbase col0 a : Nat) : Option (List Word) :=
  let w4 := rdWord b.mems.gran (a + 16)
  if w4.bit 16 = false then none
  else
    let n := w4.fld 14 0
    let code := fun j => (rdByte b.mems.gran (a + 32 + 2 * n + j)).toNat
    let hgt := fun j => sext 16 (leNat (rdBytes b.mems.gran (a + 32 + 3 * n + 2 * j) 2))
    let lo := sext 16 (band.fld 15 0); let hi := sext 16 (band.fld 31 16)
    let out := (upFrom 0 n).filter (fun j => decide (code j ≠ 1 ∧ code j ≠ 2 ∧ (hgt j < lo ∨ hi < hgt j)))
    some ([0#32, 0#32] ++ maskWords qbase (out.map (fun j => col0 + j)))

/-- R439: words 4 to 7 of a side's safety record; none makes the comparison void. -/
def sideRec (b : Block) (ch : WinCh) (form wid col0 : Nat) (r : RingRef) (m : Nat) : Option (List Word) :=
  let a := r.addr m
  if formOk ch.cfg form = false then
    -- R439 does not admit the form, and says nothing of what its reduction gives
    some ((upFrom 0 4).map (fun i => Config.openWord ([90, i, form, ch.cfg.fld 30 29] ++ (rdWords b.mems.gran a 8).map (·.toNat))))
  else if form = 1 then reduceStereo b ch.band (ch.cfg.fld 11 0) col0 a
  else if form = 2 then
    some (reduceLine (ch.cfg.bit 24) ch.thr (ch.cfg.fld 11 0) col0 (ring12 b r m (ch.cfg.fld 23 22) wid))
  else some (rdWords b.mems.gran (a + 16) 4)

/-! ## Verdicts (R442 to R446) -/

/-- Distance of two numbers. -/
def absDiff (a c : Nat) : Nat := (a - c) + (c - a)

/-- Bits in which the masks differ. -/
def maskDiff (x y : List Word) : Nat :=
  popcount 32 (wAt x 2 ^^^ wAt y 2).toNat + popcount 32 (wAt x 3 ^^^ wAt y 3).toNat

/-- The bytes that the reduction of a side reads (R439 to R441). -/
def sideSpan (b : Block) (ch : WinCh) (form wid : Nat) (r : RingRef) (m : Nat) : Nat × Nat :=
  if form = 1 then (r.addr m, 32 + 5 * (rdWord b.mems.gran (r.addr m + 16)).fld 14 0)
  else if form = 2 then lineSpan r (ch.cfg.fld 23 22) wid m
  else (r.addr m, 32)

/-- R442. -/
def winAgree (cls tol : Nat) (x y : List Word) : Bool :=
  if cls = 0 then
    decide ((wAt x 0).bit 31 = (wAt y 0).bit 31 ∧ (wAt x 1).bit 31 = (wAt y 1).bit 31) &&
    (!(wAt x 0).bit 31 || decide (absDiff ((wAt x 0).fld 23 0) ((wAt y 0).fld 23 0) ≤ tol)) &&
    (!(wAt x 1).bit 31 || decide (absDiff ((wAt x 1).fld 23 0) ((wAt y 1).fld 23 0) ≤ tol))
  else if cls = 1 then decide ((wAt x 0).bit 30 = (wAt y 0).bit 30) && decide (maskDiff x y ≤ tol)
  else decide (maskDiff x y ≤ tol)

/-- An event raised at its first occurrence for an item in the sheaf, with its safe-state bit. -/
def raiseOnceS (b : Block) (code item : Nat) (safe : Bool) : Block :=
  if b.once.contains (code, item) then b else raiseS { b with once := b.once ++ [(code, item)] } code item safe

/-- R443, R444: verdict 1 AGREE, 2 DISAGREE, 3 VOID of channel `w`. -/
def verdict (b : Block) (w v : Nat) : Block :=
  let s := Reg.SAFE_WCH_STAT w
  let ch := winCh b w
  let b := setF (bump b (Reg.SAFE_WCH_CNT_CMP w) 1) s 31 30 v
  if v = 1 then setF (setF b s 4 0 0) s 23 8 0
  else if v = 2 then
    let n := (rg b s).fld 4 0 + 1
    let ask := decide (n = ch.cfg.fld 19 16 + 1)
    let b := setF (setF (bump b (Reg.SAFE_WCH_CNT_DIS w) 1) s 23 8 0) s 4 0 (min 31 n)
    let b := raiseOnceS b 0xB2 w ask
    if ask then safeReq b 2 w else b
  else
    let n := (rg b s).fld 23 8 + 1
    let ask := decide (ch.tol.fld 31 16 ≠ 0 ∧ n = ch.tol.fld 31 16)
    let b := setF (bump b (Reg.SAFE_WCH_CNT_VOID w) 1) s 23 8 (min 65535 n)
    let b := raiseOnceS b 0xB3 w ask
    if ask then safeReq b 3 w else b

/-- R446: a golden run of channel `w` passes or fails. -/
def goldVerdict (b : Block) (w : Nat) (pass : Bool) : Block :=
  let s := Reg.SAFE_WCH_STAT w
  if pass then setF b s 27 24 0
  else
    let n := (rg b s).fld 27 24 + 1
    let ask := decide (n = (frc b Reg.SAFE_CTRL).fld 17 16 + 1)
    let b := raiseS (setF (bump b (Reg.SAFE_WCH_CNT_GFAIL w) 1) s 27 24 (min 15 n)) 0xB4 w ask
    if ask then safeReq b 4 w else b

/-- The verdict of an invocation of a COMPARE entry without comparison: a chaff-run (R443), or one that is ended as hung, which the rule
gives a verdict too (DEDUCED, log entry 10). A golden one is a failed golden run (R446). -/
def winChaff (b : Block) (e : Entry) : Block :=
  let w := e.arg % 16
  if (winCh b w).cfg.bit 31 = false then b
  else if e.gold then goldVerdict b w false else verdict b w 3

/-- The invocation of a COMPARE entry. -/
def winnowRun (b : Block) (sc : Sched) (v : Inv) (errs : List (Nat × EccStat)) : Block :=
  let e := sc.entry v.stage
  let w := e.arg % 16
  let ch := winCh b w
  let k := v.line
  let cs := (sc.checks e).filter (fun c => !c.sync)
  let side := fun i => (cs[i]?).elim ((⟨0, 1, 1⟩ : RingRef), k) (fun c => (c.ring, lineAdj k c.adj))
  let ra := side 0; let rb := side 1
  let fa := ch.cfg.fld 28 27; let fb := ch.cfg.fld 26 25
  let rd := grErrs b [sideSpan b ch fa ch.wa ra.1 ra.2, sideSpan b ch fb ch.wb rb.1 rb.2] errs
  let ue := decide (rd.2 ≠ [])
  let b := rd.1
  let ha := ringHdr b ra.1 ra.2; let hb := ringHdr b rb.1 rb.2
  let ins := [ha, hb]
  let xa := sideRec b ch fa ch.wa ch.colA ra.1 ra.2
  let xb := sideRec b ch fb ch.wb ch.colB rb.1 rb.2
  let chaffed := hdrChaff ha || hdrChaff hb
  let x := xa.getD [0#32, 0#32, 0#32, 0#32]; let y := xb.getD [0#32, 0#32, 0#32, 0#32]
  let ref := (upFrom 0 4).map (fun i => frc b (Reg.SAFE_WCH_GREF w i))
  let void := chaffed || xa.isNone || xb.isNone
  let pass := !chaffed && decide (xa = some ref ∧ xb = some ref)
  let agree := winAgree (ch.cfg.fld 30 29) (ch.tol.fld 15 0) x y
  let bad := ch.cfg.bit 31 && (if v.golden then !pass else !void && !agree)
  let own := ownMark (invOwn v) (ownMark (safeOwn b v.stage)
    (if bad then some (5, v.stage) else ueMark v.stage ue))
  let h := outHdr k v.golden (tickOf b k) ins own (invSuspect b v)
  let b := putOut b (outEntries b sc v.stage k) 0 h
    (wordBytes [wAt x 0, wAt x 1, wAt x 2 ||| wAt y 2, wAt x 3 ||| wAt y 3])
  if ch.cfg.bit 31 = false then b
  else if v.golden then goldVerdict b w pass
  else verdict b w (if void then 3 else if agree then 1 else 2)

/-! ## Slip (R43, R197) -/

/-- A skipped comparison. -/
def slipSkip (b : Block) : Block :=
  if (frc b Reg.TB_SLIP_CTRL).bit 24 then bumpSat b Reg.TB_SLIP_STAT 31 24 else b

/-- R43: the comparison of D_flow. -/
def slipCompare (b : Block) (d : Nat) : Block :=
  let c := frc b Reg.TB_SLIP_CTRL
  if c.bit 24 = false then b
  else
    let dev : Int := (d : Int) - 16384
    let s := Reg.TB_SLIP_STAT
    let b := setF b s 15 0 (wrapN 16 (clampI (-32768) 32767 dev))
    if c.fld 15 0 < dev.natAbs then
      let n := min 31 ((rg b s).fld 20 16 + 1)
      let b := setF b s 20 16 n
      let need := if c.fld 19 16 = 0 then 16 else c.fld 19 16
      if need ≤ n then raise b 0x17 n else b
    else setF b s 20 16 0

/-- The invocation of the SLIP entry: D_FLOW is word 6 of the summary. -/
def slipRun (b : Block) (sc : Sched) (v : Inv) (errs : List (Nat × EccStat)) : Block :=
  let r := inRing sc (sc.entry v.stage) 0
  let rd := grErrs b [(r.addr v.line, 28)] errs
  if hdrChaff (ringHdr b r v.line) || decide (rd.2 ≠ []) then slipSkip rd.1
  else slipCompare rd.1 (rdWord b.mems.gran (r.addr v.line + 24)).toNat

end Sys2Proof.Machine
end

