-- ==== Sys2Proof/Machine/Result.lean ====
section
/-! DEFINITION. The result writer (spec/16_host_port.md R374 to R377, spec/17 R398): records, result rings, MARK and golden
records, and the digest of what is published (spec/20 R474, R477). -/

namespace Sys2Proof.Machine

/-! ## Result rings (R374, R377) -/

/-- Offset of record `seq` of ring `r` in the window (R365, R386). -/
def rrAddr (b : Block) (r seq : Nat) : Nat :=
  let c := frc b (Reg.HOST_RR_CFG r)
  0x1000000 + c.fld 11 0 * 4096 + seq % 2 ^ c.fld 27 24 * (c.fld 20 12 * 32)

/-- Write a record to ring `r` of this device (R374, R377): SEQ, OVWR and VALID are the ring writer's. Until the base has loaded the
rings hold no records (R500). -/
def rrWrite (b : Block) (r : Nat) (ws : List Word) : Block :=
  if (rg b Reg.SEQ_STATUS).fld 1 0 = 0 then b
  else
  let seq := (rg b (Reg.HOST_RR_SEQ r)).toNat
  let ovf := decide (2 ^ (frc b (Reg.HOST_RR_CFG r)).fld 27 24 ≤ subMod 32 seq (rg b (Reg.HOST_RR_RD r)).toNat)
  let w0 := wAt ws 0 ||| wd (2 ^ 31 + b2n ovf * 2 ^ 27)
  let b := { b with mems := { b.mems with win := wrWords b.mems.win (rrAddr b r seq) (w0 :: wd seq :: ws.drop 2) } }
  let b := setRg b (Reg.HOST_RR_SEQ r) (wd (seq + 1))
  if ovf then raiseOnce (orRg (bump b (Reg.HOST_RR_CNT_OVWR r) 1) Reg.HOST_ATTN_STATUS 4) 0x9A r r else b

/-- The header of a record (R375), but for VALID, OVWR and SEQ. -/
def recHdr (type dev len line : Nat) (chaff : Option (Nat × Nat)) (susp mal : Bool) (tag rtag : Nat) : List Word :=
  let cw := match chaff with
    | none => 0
    | some m => 2 ^ 31 + m.1 % 16 * 2 ^ 27
  [wd (type * 2 ^ 28 + dev % 64 * 2 ^ 16 + len % 65536), 0#32, wd line,
   wd (cw + b2n susp * 2 ^ 24 + b2n mal * 2 ^ 23 + line / 2 ^ 32 % 4096),
   wd (tag % 256 * 2 ^ 24 + ((chaff.map (·.2)).getD 0) % 4096 * 2 ^ 12), wd (rtag % 65536 * 65536), 0#32, 0#32]

/-- The words of a list of bytes. -/
def bytesWords : List Byte → List Word
  | a :: b :: c :: d :: l => wd (leNat [a, b, c, d]) :: bytesWords l
  | [] => []
  | l => [wd (leNat l)]

/-- A member's record goes to the head in packets of at most 64 bytes (R391, R398). -/
def sendRecord (b : Block) (r : Nat) (ws : List Word) : Block :=
  let n := cdiv ws.length 16
  (upFrom 0 n).foldl (fun b i =>
    (sendTo b 0 (.result r (decide (i = 0)) (decide (i + 1 = n)) ((ws.drop (16 * i)).take 16))).1) b

/-- Deliver a record to ring `r`: on the head to its ring, on a member to the head (R398). -/
def rrDeliver (b : Block) (r : Nat) (ws : List Word) : Block :=
  if devOf b = 0 then rrWrite b r ws else sendRecord b r ws

/-! ## Digests (R474, R477) -/

/-- The recording in GDDR6: base and length in bytes (R472). -/
def recBase (b : Block) : Nat := (rg b Reg.DBG_REC_BASE_HI).fld 1 0 * 2 ^ 32 + (rg b Reg.DBG_REC_BASE_LO).fld 31 16 * 65536
def recSize (b : Block) : Nat := (rg b Reg.DBG_REC_SIZE).fld 17 0 * 65536

/-- Word `i` of the record at offset `o`. -/
def recWord (b : Block) (o i : Nat) : Word := rdWord b.mems.gddr (recBase b + o + 4 * i)

/-- Length in the ring of the record at an offset (R473). -/
def recLen (b : Block) (o : Nat) : Nat := 32 + cdiv ((recWord b o 0).fld 15 0) 32 * 32

/-- The next DIGEST record of ring `r` from offset `o` on: its CRC and the offset after it. It ends at STOP or at the
ring's end. -/
def nextDigest (b : Block) (r : Nat) : Nat → Nat → Option (Word × Nat)
  | 0, _ => none
  | n + 1, o =>
    if recSize b ≤ o then none
    else
      let w := recWord b o 0
      if w.fld 31 28 = 6 ∧ w.fld 27 24 = 2 then none
      else if w.fld 31 28 = 5 ∧ w.fld 20 16 = r then some (recWord b o 5, o + recLen b o)
      else nextDigest b r n (o + recLen b o)

/-- R477: in replay the digest of a published record is compared with the next one of its ring. The position of each ring
stands in `digPos`; key 16 notes the first mismatch. -/
def digestCheck (b : Block) (r line : Nat) (crc : Word) : Block :=
  if (rg b Reg.DBG_RPL_STATUS).fld 1 0 ≠ 1 then b
  else match nextDigest b r (recSize b / 32) (spGet (fun _ => 0) b.dbg.digPos r) with
    | none => b
    | some (c, o) =>
      let b := { b with dbg := { b.dbg with digPos := spPut (fun _ => 0) b.dbg.digPos r o } }
      if c = crc ∨ spGet (fun _ => 0) b.dbg.digPos 16 = 1 then b
      else
        let b := { b with dbg := { b.dbg with digPos := spPut (fun _ => 0) b.dbg.digPos 16 1 } }
        let b := setRg (setRg b Reg.DBG_RPL_DIV_LO (wd line)) Reg.DBG_RPL_DIV_HI (wd (r * 65536 + line / 2 ^ 32 % 4096))
        raise (orRg b Reg.DBG_RPL_STATUS 4) 0xC1 r

/-- Publish a LINE (0) or GOLDEN (1) record: digest, comparison in replay, delivery. -/
def publish (b : Block) (r type line : Nat) (ws : List Word) : Block :=
  let crc := crc32 (wordBytes ((ws.drop 2).take 3 ++ ws.drop 8))
  let b := digestCheck (record b (nbit b.dbg.mask 2) 5 type r 0 0 crc 0#32 0#32 []) r line crc
  rrDeliver b r ws

/-! ## The RESULT invocation (R375, R376) -/

/-- The bytes of one field of the record description. In the safe state a field that holds its ring entry's word 3
carries CAUSE SAFE with the RESULT stage as ORIGIN (R459). -/
def fieldBytes (b : Block) (k : Nat) (safe : Option (Nat × Nat)) (f : RecField) : List Byte :=
  let a := (RingRef.mk f.base f.count f.depth).addr k
  let l := grRd b (a + f.off) f.len
  match safe with
  | none => l
  | some m =>
    if f.off ≤ 12 ∧ 16 ≤ f.off + f.len then
      let w := hdrW3 ((rdWord b.mems.gran (a + 12)).fld 31 24) (some m)
      l.take (12 - f.off) ++ leBytes 4 w.toNat ++ l.drop (16 - f.off)
    else l

/-- Does check `c` for line `k` name the ring entry that field `f` reads? -/
def checkNames (k : Nat) (c : Check) (f : RecField) : Bool :=
  !c.sync && decide (c.ring.addr (lineAdj k c.adj) = (RingRef.mk f.base f.count f.depth).addr k)

/-- The ring entries that the fields of a record read, each once: in the order of the checks that name them, then in the order
of the fields (R93, R375). -/
def resultRefs (sc : Sched) (e : Entry) (fs : List RecField) (k : Nat) : List Nat :=
  let named := ((sc.checks e).filter (fun c => fs.any (checkNames k c))).map (fun c => c.ring.addr (lineAdj k c.adj))
  (named ++ fs.map (fun f => (RingRef.mk f.base f.count f.depth).addr k)).eraseDups

/-- The headers of those entries: a record is chaff-marked when any of its fields is. -/
def resultIns (b : Block) (sc : Sched) (e : Entry) (fs : List RecField) (k : Nat) : List (List Word) :=
  (resultRefs sc e fs k).map (fun a => rdWords b.mems.gran a 4)

/-- The record of a RESULT invocation; `own` is its chaff mark where it is a chaff-run or carries one of its own, and
`run` says whether it read its inputs. -/
def resultRec (b : Block) (sc : Sched) (v : Inv) (own : Option (Nat × Nat)) (ran : Bool) (rtag : Nat) : List Word :=
  let e := sc.entry v.stage
  let safe := safeOwn b v.stage
  let fs := (sc.recs.filter (fun p => p.1 = v.stage)).flatMap (·.2)
  let ins := if ran then resultIns b sc e fs v.line else []
  let pay := fs.flatMap (fieldBytes b v.line safe)
  let mark := match ownMark safe own with
    | some m => some m
    | none => mergeChaff ins
  recHdr (b2n v.golden) (devOf b) pay.length v.line mark (invSuspect b v || ins.any hdrSuspect) (ins.any hdrMalformed)
    (((wordTwoInput ins).map hdrTag).getD 0) rtag ++ bytesWords pay

/-- MARK records (R373) placed before the line record of `line`, in order of acceptance. -/
def publishMarks (b : Block) (r line : Nat) : Block :=
  let due := b.seq.marks.filter (fun m => m.1 = line)
  let b := { b with seq := { b.seq with marks := b.seq.marks.filter (fun m => m.1 ≠ line) } }
  due.foldl (fun b m => rrDeliver b r (recHdr 3 (devOf b) 0 line none false false 0 m.2)) b

/-- Is the stage the last golden RESULT stage of the schedule, by START and then stage ID? -/
def lastGoldResult (sc : Sched) (st : Nat) : Bool :=
  let s0 := (sc.entry st).start
  sc.stages.all (fun s => let e := sc.entry s
    !(decide (e.kind = 4) && e.gold) || decide (e.start < s0 ∨ (e.start = s0 ∧ s ≤ st)))

/-- R448: the TAG of the golden request that the golden run of reference line `k` serves. -/
def greqTag (b : Block) (k : Nat) : Nat := if b.safe.greq = some k then (rg b Reg.SAFE_GREQ).fld 15 0 else 0

/-- PEND clears when the golden records of the request have been published. -/
def greqServed (b : Block) (sc : Sched) (v : Inv) : Block :=
  if v.golden && decide (b.safe.greq = some v.line) && lastGoldResult sc v.stage then
    setF { b with safe := { b.safe with greq := none } } Reg.SAFE_GREQ 31 31 0
  else b

/-- Golden records of line `line` that have waited for its line record follow it (R67). -/
def flushGold (b : Block) (line : Nat) : Block :=
  let due := b.seq.goldQ.filter (fun g => decide (g.line = line))
  let b := { b with seq := { b.seq with goldQ := b.seq.goldQ.filter (fun g => decide (g.line ≠ line)) } }
  due.foldl (fun b g =>
    let sc := schedFor b g.stage g.line
    let v : Inv := { stage := g.stage, line := g.line, row := 0, phys := 0, chaff := false, closed := true, closeC := 0, openC := 0,
                     done := true, mark := none, golden := true, suspect := false, data := [], set := [] }
    greqServed (publish b ((sc.entry g.stage).arg % 16) 1 g.line g.words) sc v) b

/-- Does stage `st` publish a line record of line `line`: an entry of the schedule that serves the line for it (R46, R426)? -/
def publishesLine (b : Block) (line st : Nat) : Bool :=
  let e := (schedFor b st line).entry st
  e.valid && decide (e.kind = 4) && !e.gold && decide (line % e.period = e.phase) &&
    ((oldBankOf b st line).isSome || newBankHolds b st line)

/-- Has every RESULT stage that publishes a line record of line `line` done so? -/
def linePublished (b : Block) (line : Nat) : Bool :=
  (allStages b).all (fun st => !publishesLine b line st || (match b.seq.pubLine.find? (fun p => p.1 = st) with
    | some p => lineGe p.2 line
    | none => false))

/-- The line record of a RESULT stage is out; golden records of the line follow when all are. -/
def linePub (b : Block) (v : Inv) : Block :=
  let b := { b with seq := { b.seq with pubLine := b.seq.pubLine.filter (fun p => p.1 ≠ v.stage) ++ [(v.stage, v.line)] } }
  if linePublished b v.line then flushGold b v.line else b

/-- The result writer publishes the record of an invocation. A golden record comes immediately after the line records of its
line (R67). -/
def resultPublish (b : Block) (sc : Sched) (v : Inv) (own : Option (Nat × Nat)) (ran : Bool) : Block :=
  let r := (sc.entry v.stage).arg % 16
  if v.golden then
    let ws := resultRec b sc v own ran (greqTag b v.line)
    if linePublished b v.line then greqServed (publish b r 1 v.line ws) sc v
    else { b with seq := { b.seq with goldQ := b.seq.goldQ ++ [⟨v.stage, v.line, ws⟩] } }
  else
    let b := publishMarks b r v.line
    linePub (publish b r 0 v.line (resultRec b sc v own ran 0)) v

/-- An invocation of a RESULT stage that has not published yet. -/
def resultOpen (b : Block) (st : Nat) : Option Inv := b.seq.invs.find? (fun v => decide (v.stage = st) && !v.done)

/-- Chaff-runs of a RESULT stage that stand next in line publish their records: one publishes after every invocation that opened
before it (R5, R58). -/
def flushResults (st : Nat) : Nat → Block → Block
  | 0, b => b
  | n + 1, b =>
    match resultOpen b st with
    | none => b
    | some v =>
      if v.chaff then
        let b := resultPublish b (schedFor b st v.line) v (v.mark.map (fun c => (c, st))) false
        flushResults st n (updInv b st v.line (fun v => { v with done := true }))
      else b

/-- The bytes that a RESULT invocation reads: the fields of its record and the headers of their entries. -/
def resultSpans (sc : Sched) (v : Inv) : List (Nat × Nat) :=
  ((sc.recs.filter (fun p => p.1 = v.stage)).flatMap (·.2)).flatMap (fun f =>
    let a := (RingRef.mk f.base f.count f.depth).addr v.line
    [(a, 16), (a + f.off, f.len)])

/-- The invocation of a RESULT entry. -/
def resultRun (b : Block) (sc : Sched) (v : Inv) (errs : List (Nat × EccStat)) : Block :=
  let rd := grErrs b (resultSpans sc v) errs
  resultPublish rd.1 sc v (ownMark (invOwn v) (ueMark v.stage (rd.2 ≠ []))) true

end Sys2Proof.Machine
end

