-- ==== Sys2Proof/Machine/Rachis.lean ====
section
/-! DEFINITION. The rachis opens and closes slots and ends hung stages (spec/02_frame_graph_sequencer.md R46 to R74): what a
stage does when its slot opens, the chaff-runs of every cause, the posting of tasks (spec/14 R333, R334) and the closing of
patch-queue lines (spec/09 R230). -/

namespace Sys2Proof.Machine

/-! ## Checks (R51, R408) -/

/-- The panicle of which a cell is this device's receiving cell (R406). -/
def pnOfCell (b : Block) (k : Nat) : Option Nat :=
  (b.links.pans.find? (fun e => decide (e.2.cell = k) && nbit e.2.mask (devOf b))).map Prod.fst

/-- Result of one check: 0 passes, 1 NOT_RIPE, 8 MCAST_DROP; a failing check of a panicle's cell drops the receiver
(R408). -/
def runCheck (b : Block) (c : Check) (k : Nat) : Block × Nat :=
  match (if c.sync then pnOfCell b (c.ring.base % 4096) else none) with
  | none => (b, if checkPass b c k then 0 else 1)
  | some p =>
    let need := (lineAdj k c.adj + 1) * c.ring.count % 2 ^ 32
    let spoilt := match (pnSt b p).spoil with
      | some v => !decide (0 < subMod 32 need v ∧ subMod 32 need v < 2 ^ 31)
      | none => false
    if (pnSt b p).dropped || spoilt then (b, 8)
    else if checkPass b c k then (b, 0)
    else (pnDrop b p, 8)

/-- All checks of an entry: 0, 1, or 8 where some check fails with MCAST_DROP. -/
def runChecks (b : Block) (l : List Check) (k : Nat) : Block × Nat :=
  l.foldl (fun r c => let q := runCheck r.1 c k; (q.1, max r.2 q.2)) (b, 0)

/-! ## Which lines an entry serves (R46, R65) -/

/-- Does the entry serve line `k`? The line is `j - OFFSET` as a 44-bit number (R20, log entry 38). -/
def serves (b : Block) (e : Entry) (k : Nat) : Bool :=
  if e.gold then (frc b Reg.SEQ_CTRL).bit 1 && decide (k % 1024 = (rg b Reg.SEQ_GOLD).fld 9 0)
  else decide (k % e.period = e.phase)

/-- The lines that an invocation serves: a TASK serves its whole batch (R333), a golden one too (log entry 40). -/
def servedLines (e : Entry) (k : Nat) : List Nat :=
  if e.kind = 1 then (upFrom 0 e.period).map (fun i => lineSub k i) else [k]

/-- Was no row opened for line `k` (R74)? -/
def isUnticked (b : Block) (k : Nat) : Bool :=
  b.seq.unticked.contains k || (match b.seq.base with
    | some f => lineGe f k
    | none => false)

/-- Was line `k` missed (R37, R58)? -/
def isMissed (b : Block) (k : Nat) : Bool := b.seq.missed.contains k

/-! ## Stale flags (R59) -/

/-- Output flags found set are cleared before the producer's invocation opens; a flag that this very cycle sets stays set (R276). -/
def clearStale (b : Block) (sc : Sched) (st k : Nat) : Block :=
  (outEntries b sc st k).foldl (fun b o =>
    (upFrom (o.1.flag0 o.2) o.1.count).foldl (fun b f =>
      if flagBefore b f then raiseOnce (bump (setFlag b f false) Reg.SEQ_CNT_STALE 1) 0x24 0 st else b) b) b

/-! ## Patch-queue lines (R230) -/

/-- The patch queue whose consumer is a stage. -/
def pqFor (b : Block) (st : Nat) : Option Nat := (b.pqs.find? (fun e => e.2.bound && decide (e.2.consumer = st))).map Prod.fst

/-- The words of a patch-list entry: words 0 and 1 describe its line, with the items of the line's own tick (R93, R230). -/
def patchWords (l : PLine) (tick : Nat) (gold susp : Bool) (own : Option (Nat × Nat)) : List Word :=
  let recs := sortBy patchLt l.recs
  let h := mkHdr l.line (susp || l.marks.testBit 1) (l.marks.testBit 0) gold tick (wd (l.word2 % 512)) 0
    (match own with
     | some m => some m
     | none => l.chaff)
  h ++ [wd recs.length, wd (min 65535 l.drops), 0#32, 0#32] ++ recs.flatMap (fun r => [r.raw0, r.raw1])

/-- Granary address of the patch-list entry of line `k`. -/
def pqAddr (x : PQueue) (k : Nat) : Nat := (RingRef.mk x.base x.count x.depth).addr k

/-- The line of a queue closes: its entry is written in the next cycle and its flags set. -/
def closePq (b : Block) (q st k : Nat) (gold : Bool) (own : Option (Nat × Nat)) : Block :=
  let b := pqTrim b q
  let x := pqOf b q
  let l := (x.lines.find? (fun l => l.line = k)).getD (PLine.fresh k)
  let b := bump b (Reg.TLR_PQ_CNT_KEPT q) l.recs.length
  let b := setPq b q { x with last := some k, lines := x.lines.filter (fun l => lineGt l.line k) }
  putOff b { due := b.pwr.ccy + 1, stage := st, line := k, sigs := [], post := none,
             puts := [(pqAddr x k, patchWords l (tickOf b k) gold (dipMarks b) own, (RingRef.mk x.base x.count x.depth).flag0 k,
                       x.count)] }

/-! ## Chaff-runs (R52, R57, R58) -/

/-- A new invocation. -/
def newInv (b : Block) (st k row phys : Nat) (gold chaff : Bool) : Inv :=
  { stage := st, line := k, row := row, phys := phys, chaff := chaff, closed := false, closeC := 0, openC := b.pwr.ccy,
    done := chaff, mark := none, golden := gold, suspect := dipMarks b, data := [], set := [] }

/-- Add an invocation to those the rachis knows. -/
def addInv (b : Block) (v : Inv) : Block := { b with seq := { b.seq with invs := b.seq.invs ++ [v] } }

/-- Counters and events of a chaff decision: NOT_RIPE and MCAST_DROP count as R52, BUSY as R57. -/
def chaffCount (b : Block) (st cause : Nat) : Block :=
  if cause = 1 ∨ cause = 8 then raiseOnce (bump b Reg.SEQ_CNT_NOT_RIPE 1) 0x20 0 st
  else if cause = 4 then raiseOnce (bump b Reg.SEQ_CNT_BUSY 1) 0x22 0 st
  else b

/-- The invocation for line `k` is a chaff-run with the given cause; its entries and flags are written in cycle `due`. -/
def chaffRun (b : Block) (sc : Sched) (st k row due cause : Nat) : Block :=
  let e := sc.entry st
  let v := newInv b st k row 0 e.gold true
  let b := lastChaff (chaffCount (addInv b v) st cause) cause st k
  if e.kind = 4 then
    -- its listed outputs are written as any chaff-run's; the record follows those of invocations that opened before it
    let b := updInv (putOff b (chaffWork b sc st k due e.gold (dipMarks b) cause)) st k
      (fun v => { v with done := false, mark := some cause })
    flushResults st (b.seq.invs.length + 1) b
  else
    let b := putOff b (chaffWork b sc st k due e.gold (dipMarks b) cause)
    if e.kind = 0 then (let u := unitCls e.unit; if u.1 = 6 ∧ e.gold = false then statOpen b u.2 k else b)
    else if e.kind = 1 then
      (match pqFor b st with
       | some q => closePq b q st k e.gold (some (cause, st))
       | none => b)
    else if e.kind = 3 then winChaff b e
    else if e.kind = 5 then slipSkip b
    else b

/-! ## Starting a stage -/

/-- The eight words of a task entry (R333). -/
def taskWords (b : Block) (sc : Sched) (st k : Nat) : List Word :=
  let e := sc.entry st
  let t := spGet (fun _ => Template.mk 0 0#32 0#32 0 0#32) sc.templ st
  let pq := pqFor b st
  [wd (st * 2 ^ 20 + e.ctx * 2 ^ 16 + b2n e.gold * 2 ^ 15 + b2n pq.isSome * 2 ^ 14 + t.prio % 4 * 2 ^ 12 + (e.period - 1)),
   wd k, wd (e.fin * 2 ^ 16 + e.span * 2 ^ 12 + k / 2 ^ 32 % 4096), t.awin, t.cwin,
   wd (e.arg % 64 * 2 ^ 16 + t.kbase % 2 ^ 14 * 4),
   pq.elim 0#32 (fun q => wd (q * 2 ^ 28 + pqAddr (pqOf b q) k)), t.param]

/-- The task is posted in cycle START + 1 (R334). Where the list refuses it, its outputs follow as a chaff-run (R336). -/
def startTask (b : Block) (sc : Sched) (st k : Nat) : Block :=
  let e := sc.entry st
  let p : Posted := { words := taskWords b sc st k, stage := st, line := k, golden := e.gold, postC := b.pwr.ccy + 1,
                      late := false }
  let b := match pqFor b st with
    | some q => closePq b q st k e.gold none
    | none => b
  putOff b { chaffWork b sc st k (b.pwr.ccy + 1) e.gold (dipMarks b) 4 with post := some (e.arg % 64, p) }

/-- R49, R295: the persistent stream of a STREAM entry, slot ARG of its tiller, is queued again with its pattern as it
stands. A slot that holds none, or whose channel or scoreboard is full, is left alone (DESIGN CHOICE, log entry 28). -/
def startStream (b : Block) (t s : Nat) : Block :=
  let v := slotOf (tl b t) s
  let ch := dChan v.desc
  if v.state = .empty ∨ v.inFlight = true ∨ (wAt v.desc 0).bit 27 = false ∨ dKind v.desc < 2 ∨ 8 ≤ (chanOf (tl b t) ch).length then b
  else
    let v' := { StrmSlot.init with desc := v.desc, awin := v.awin, cwin := v.cwin, ctx := v.ctx }
    match sbAdd b t (armEntries b t s v') with
    | none => b
    | some b =>
      let b := setSlot b t s { v' with state := .queued }
      let x := tl b t
      chStat (setTl b t { x with chans := spPut (fun _ => []) x.chans ch (chanOf x ch ++ [s]) }) t

/-- The rachis starts the stage for line `k` on physical unit `phys`. -/
def startStage (b : Block) (sc : Sched) (st k row phys : Nat) : Block :=
  let e := sc.entry st
  let b := addInv b { newInv b st k row phys e.gold false with set := beginSet b e k }
  if e.kind = 0 then (let u := unitCls e.unit; if u.1 = 6 ∧ e.gold = false then statOpen b u.2 k else b)
  else if e.kind = 1 then startTask b sc st k
  else if e.kind = 2 then startStream b phys (e.arg % 64)
  else b

/-! ## Units (R50, R57, R335, R162, R508) -/

/-- The entry that an invocation runs. -/
def invEntry (b : Block) (v : Inv) : Entry := (schedFor b v.stage v.line).entry v.stage

/-- Invocations still running on physical unit `phys` of class `cls`. On a shared unit those that have just opened are none of them:
the result writer takes the invocation of a skipped row with that of the row (R58). -/
def onUnit (b : Block) (cls phys : Nat) : List Inv :=
  b.seq.invs.filter (fun v => !v.done && !v.chaff && decide (v.phys = phys) &&
    decide ((invEntry b v).kind ≠ 1 ∧ (unitCls (invEntry b v).unit).1 = cls) && decide (cls < 7 ∨ v.openC ≠ b.pwr.ccy))

/-- Is the entry's unit busy, or its domain not ON? -/
def unitBusy (b : Block) (st : Nat) (e : Entry) (cls phys : Nat) : Bool :=
  if e.kind = 1 then b.seq.invs.any (fun v => decide (v.stage = st) && !v.done && !v.chaff)
  else
    let l := onUnit b cls phys
    let run := if cls = 4 then decide (2 ≤ l.length) || l.any (fun v => decide (v.data = [])) else decide (l ≠ [])
    let off := decide (1 ≤ cls ∧ cls < 6) && ((unitDom cls phys).elim false (fun d => decide (domSt b d ≠ 0)))
    run || off

/-- The cycle in which the chaff-run of a fenced slot is written: d + 17 within that time, else START + 2 (R428). -/
def fencedDue (b : Block) (cls slot : Nat) : Nat :=
  match b.cfg.fences.find? (fun f => decide (f.1 = cls ∧ f.2.1 = slot ∧ b.pwr.ccy < f.2.2.2 + 17)) with
  | some f => f.2.2.2 + 17
  | none => b.pwr.ccy + 2

/-! ## SLOT_OPEN -/

/-- The slot of one invocation opens in row `row`, or is made up for a skipped row. `old`: the entry of a replaced
partition in row `s` or later (R426). -/
def openOne (b : Block) (sc : Sched) (st k row : Nat) (skip old : Bool) : Block :=
  let e := sc.entry st
  let b := if e.start = 0 then clearStale b sc st k else b
  let due := b.pwr.ccy + 2
  let ls := servedLines e k
  let cs := unitCls e.unit
  if ls.any (isUnticked b) then (if e.kind = 4 then b else chaffRun b sc st k row due 3)
  else if (skip && decide (e.kind ≠ 4)) || ls.any (isMissed b) then chaffRun b sc st k row due 3
  else if old && decide (e.kind ≠ 4) then chaffRun b sc st k row due 7
  else match unitPhys b e.unit with
    | none => chaffRun b sc st k row (fencedDue b cs.1 cs.2) 7
    | some phys =>
      if unitBusy b st e cs.1 phys then chaffRun b sc st k row due 4
      else
        let r := runChecks b (sc.checks e) k
        if r.2 = 0 then startStage r.1 sc st k row phys else chaffRun r.1 sc st k row due r.2

/-- The schedules in which a stage may have an entry, with whether it is an old one and the first line of its cutover
sheaf. -/
def bankList (b : Block) (st : Nat) : List (Sched × Option Nat) :=
  ((b.cfg.old.filter (fun o => (o.sched.entry st).valid)).map (fun o => (o.sched, some o.s))) ++ [(b.sched, none)]

/-- The line that an entry of one schedule serves in row `row`. -/
def rowLine (b : Block) (st row : Nat) (bk : Sched × Option Nat) : Option Nat :=
  let e := bk.1.entry st
  let k := lineSub row e.offset
  let mine := match bk.2 with
    | some s => lineGt s k
    | none => newBankHolds b st k
  if e.valid && mine && serves b e k then some k else none

/-- One entry of one schedule in row `row`. -/
def openRow (b : Block) (st row : Nat) (skip : Bool) (bk : Sched × Option Nat) : Block :=
  match rowLine b st row bk with
  | some k => openOne b bk.1 st k row skip (match bk.2 with
      | some s => lineGe row s
      | none => false)
  | none => b

/-- The schedules in which a stage may have an entry, each with the number under which `opened` knows it. -/
def bankKeys (b : Block) (st : Nat) : List (Nat × (Sched × Option Nat)) :=
  ((b.cfg.old.filter (fun (o : OldBank) => (o.sched.entry st).valid)).map (fun (o : OldBank) => o.part + 1) ++ [0]).zip (bankList b st)

/-- The slots of a stage by one schedule: first what it owed in skipped rows (R58), then that of row `j`. -/
def openBank (j st : Nat) (b : Block) (k : Nat × (Sched × Option Nat)) : Block :=
  let b := { b with seq := { b.seq with opened := b.seq.opened ++ [(st, k.1)] } }
  openRow (b.seq.skipped.foldl (fun b r => openRow b st r true k.2) b) st j false k.2

/-! ### Cycle START - 1 (R59) -/

/-- The entries of the row now open whose stale flags are still to be cleared: the cycle START - 1, the stage and the schedule. A
START of 0 is met at the opening. -/
def staleLeft (b : Block) : List (Nat × Nat × (Nat × (Sched × Option Nat))) :=
  if b.seq.row.isNone || b.seq.arrived.isSome then []
  else (allStages b).flatMap (fun st => ((bankKeys b st).filter (fun k =>
      decide (1 ≤ (k.2.1.entry st).start) && !b.seq.stale.contains (st, k.1))).map (fun k =>
    (b.seq.rowC + (k.2.1.entry st).start - 1, st, k)))

/-- The next cycle in which stale flags are cleared. -/
def staleDueC (b : Block) : Option Nat := ((staleLeft b).map Prod.fst).foldl (fun m d => some (m.elim d (min d))) none

/-- The flags of one entry: for what it owes to skipped rows and for the row. -/
def staleOne (b : Block) (x : Nat × Nat × (Nat × (Sched × Option Nat))) : Block :=
  let k := x.2.2
  let b := { b with seq := { b.seq with stale := b.seq.stale ++ [(x.2.1, k.1)] } }
  ((b.seq.skipped ++ b.seq.row.toList).filterMap (fun r => rowLine b x.2.1 r k.2)).foldl (fun b m => clearStale b k.2.1 x.2.1 m) b

/-- Stale flags whose cycle has come are cleared. -/
def staleDue (b : Block) : Block := ((staleLeft b).filter (fun x => decide (x.1 ≤ b.pwr.ccy))).foldl staleOne b

/-- SLOT_OPEN (R47): in cycle START of the row now open, once for each schedule. DESIGN CHOICE, log entry 70: where EN is written 0
in mid-row, slots of the row whose START comes later still open in HALTED. -/
def slotOpen (st : Nat) (b : Block) : Block :=
  match b.seq.row with
  | none => b
  | some j =>
    (bankKeys b st).foldl (fun b k =>
      if b.pwr.ccy = b.seq.rowC + (k.2.1.entry st).start && !b.seq.opened.contains (st, k.1) then openBank j st b k else b) b

/-! ## SLOT_CLOSE, STAGE_HUNG (R56) -/

/-- Forget an invocation. -/
def dropInv (b : Block) (st k : Nat) : Block :=
  { b with seq := { b.seq with invs := b.seq.invs.filter (fun v => !decide (v.stage = st ∧ v.line = k)) } }

/-- Tasks of an invocation still in a list are late from now on (R341). -/
def markLate (b : Block) (st k : Nat) : Block :=
  { b with lists := b.lists.map (fun e => (e.1, e.2.map (fun p =>
      if p.stage = st ∧ p.line = k then { p with late := true } else p))) }

/-- Does the slot of invocation `v` close in the present cycle (R47)? In cycle END of row k + OFFSET + SPAN, or, where that row
did not open, of the first row that opened after it. -/
def closesNow (b : Block) (v : Inv) : Bool :=
  let e := (schedFor b v.stage v.line).entry v.stage
  let cl := lineAdd v.line (e.offset + e.span)
  match b.seq.row with
  | none => false
  | some j => lineGe j cl && (match b.seq.prevRow with
      | some p => lineGt cl p
      | none => true) && decide (b.pwr.ccy = b.seq.rowC + e.fin)

/-- SLOT_CLOSE: an invocation that has not completed when its slot closes has overrun. -/
def slotClose (st k : Nat) (b : Block) : Block :=
  match findInv b st k with
  | none => b
  | some v =>
    if !closesNow b v || v.closed then b
    else if v.done then dropInv b st k
    else
      let b := updInv b st k (fun v => { v with closed := true, closeC := b.pwr.ccy })
      if v.chaff then b else raiseOnce (bump (markLate b st k) Reg.SEQ_CNT_OVERRUN 1) 0x21 0 st

/-- A task of the invocation that is still in its list is removed and discarded; true where there was one. -/
def dropQueued (b : Block) (st k : Nat) : Block × Bool :=
  match b.lists.find? (fun e => e.2.any (fun p => decide (p.stage = st ∧ p.line = k))) with
  | none => (b, false)
  | some e => (setRlist b e.1 (e.2.filter (fun p => !decide (p.stage = st ∧ p.line = k))), true)

/-- A RESULT invocation has published: chaff-runs that waited for it follow. -/
def resultEnd (b : Block) (v : Inv) : Block :=
  flushResults v.stage (b.seq.invs.length + 1) (updInv b v.stage v.line (fun v => { v with done := true }))

/-- The rachis ends a hung invocation (R56). COMPARE and SLIP are ended as PIPE, and a RESULT publishes its record with
CAUSE OVERRUN (DESIGN CHOICE, log entry 28). -/
def endHung (b : Block) (v : Inv) : Block :=
  let sc := schedFor b v.stage v.line
  let e := sc.entry v.stage
  if e.kind = 1 then
    let q := dropQueued b v.stage v.line
    if q.2 then endInvWith q.1 v.stage v.line 2
    else
      let t := invUnit b 1 v
      if t < 36 then endTask b t 2 else endInvWith b v.stage v.line 2
  else if e.kind = 2 then
    let s := e.arg % 64
    let b := if (slotOf (tl b v.phys) s).inFlight then markBad b v.phys s 7 else b
    completeInv b v.stage v.line
  else if e.kind = 4 then resultEnd (resultPublish b sc v (some (2, v.stage)) true) v
  else if e.kind = 3 then winChaff (endInvWith b v.stage v.line 2) e
  else endInvWith b v.stage v.line 2

/-- STAGE_HUNG: 1 250 cycles after its slot has closed a stage has not completed; before that it has its grace. Where the window watchdog fences the unit,
the fence ends the invocation instead (R449, R450). -/
def stageHung (st k : Nat) (b : Block) : Block :=
  match findInv b st k with
  | none => b
  | some v =>
    if v.done || v.chaff || !v.closed || decide (b.pwr.ccy < v.closeC + 1250) then b
    else
      let sc := schedFor b st k
      let e := sc.entry st
      let b := raise (lastChaff (bump b Reg.SEQ_CNT_HUNG 1) 2 st k) 0x28 st
      let n := b.cfg.fences.length
      let b := if e.safety then violation b sc st (invUnit b e.kind v) true else b
      if n < b.cfg.fences.length then b else endHung b v

/-! ## STAGE_COMPLETE (R48) -/

/-- A stage reports completion. TASKs report by TASK_COMPLETE. -/
def stageComplete (st k : Nat) (errs : List (Nat × EccStat)) (b : Block) : Block :=
  match findInv b st k with
  | none => b
  | some v =>
    let sc := schedFor b st k
    let e := sc.entry st
    let cs := unitCls e.unit
    if v.chaff then b
    else match (if cs.1 < 6 ∧ e.kind ≠ 1 then portShut b cs.1 v.phys else none) with
    | some s => fenceDrop b cs.1 s
    | none =>
      if v.done then b
      else if e.kind = 0 then (let r := pipeRun b sc v errs; if r.2 then completeInv r.1 st k else b)
      else if e.kind = 2 then
        (if (slotOf (tl b v.phys) (e.arg % 64)).inFlight then b else completeInv b st k)
      else if e.kind = 3 then completeInv (winnowRun b sc v errs) st k
      else if e.kind = 4 then
        -- the result writer takes its invocations in the order in which they opened
        (if (resultOpen b st).map Inv.line = some k then
           (let b := completeInv (resultRun b sc v errs) st k; flushResults st (b.seq.invs.length + 1) b)
         else b)
      else if e.kind = 5 then completeInv (slipRun b sc v errs) st k
      else b

/-! ## Enable and halt (R74) -/

/-- SEQ_ENABLE: SEQ_CTRL is written with EN 1; the state moves when a row opens. -/
def seqEnable (w : Word) (b : Block) : Block := setRg b Reg.SEQ_CTRL (wd (w.fld 1 1 * 2 + 1))

/-- SEQ_HALT: SEQ_CTRL is written with EN 0; a RUNNING rachis becomes HALTED. -/
def seqHalt (w : Word) (b : Block) : Block :=
  let b := setRg b Reg.SEQ_CTRL (wd (w.fld 1 1 * 2))
  if (rg b Reg.SEQ_STATUS).fld 1 0 = 2 then setF b Reg.SEQ_STATUS 1 0 3 else b

/-! ## Duplicated logic (R70, R71, R451) -/

/-- DUP_MISMATCH: the condition holds until reset. -/
def dupMismatch (b : Block) : Block :=
  if b.seq.dup then b
  else
    let b := orRg { b with seq := { b.seq with dup := true } } Reg.SEQ_STATUS 0x100
    safeReq (raiseS b 0x26 0 true) 7 0

/-- TBL_ECC_ERROR of rachis copy `copy`. -/
def tblEccError (copy : Nat) (ue : Bool) (b : Block) : Block :=
  if ue then safeReq (raiseS (orRg b Reg.SEQ_STATUS 0x400) 0x27 copy true) 8 copy
  else orRg b Reg.SEQ_STATUS 0x200

/-- ING_DUP: `item` is 0 for the timebase, 0x10 + n for port n, 0x20 + n for lane n (R530). -/
def ingDup (item : Nat) (b : Block) : Block := safeReq (raiseS b 0xBA item true) 9 item

end Sys2Proof.Machine
end

