-- ==== Sys2Proof/Machine/Settings.lean ====
section
/-! DEFINITION. Panel registers as settings (spec/00_scope.md R17, R531): what a write does by the field types of its
register, which writes the owning chapters turn away, and when shadowed fields take effect. -/

namespace Sys2Proof.Machine

/-! ## Field types (R17) -/

/-- The row of an offset; one without fields where no register lies. -/
def rowOf (a : Nat) : RegRow := (regRow? a).getD ⟨a, 0, 0, 0, 0, 0, 0, 0, 0, 0⟩

/-- R369: bits of a register that a unit has set in this very cycle; a write of 1 leaves them set. -/
def freshBits (b : Block) (a : Nat) : Word :=
  b.now.bits.foldl (fun m e => if e.1 = a then m ||| wd e.2 else m) 0#32

/-- The register after a write by its field types: RW and SH take the value written, W1C bits clear, the rest stays. -/
def merged (b : Block) (a : Nat) (w : Word) : Word :=
  let r := rowOf a
  let m := wd (r.rw ||| r.sh)
  ((rg b a &&& ~~~ m) ||| (w &&& m)) &&& ~~~ (w &&& wd r.w1c &&& ~~~ (freshBits b a))

/-- Has the register shadowed fields? -/
def isSh (a : Nat) : Bool := decide ((rowOf a).sh ≠ 0)

/-! ## Writes turned away -/

/-- Index of an offset within a family: `base + stride * i + off` with `i < n`. -/
def famIdx (a base stride n off : Nat) : Option Nat :=
  if base + off ≤ a ∧ (a - base - off) % stride = 0 ∧ (a - base - off) / stride < n then some ((a - base - off) / stride)
  else none

/-- A bit of the register differs in its SH fields from the value as it stands (R438). -/
def shDiffers (b : Block) (a : Nat) (w : Word) : Bool := decide ((w ^^^ rg b a) &&& wd (rowOf a).sh ≠ 0#32)

/-- R279: would a write to a glume register leave BASE + SIZE beyond 2 MiB, or SRC 9 to 15? -/
def glumeBad (b : Block) (a : Nat) (w : Word) : Bool :=
  let t := (a - 0x8000) / 0x100
  let e := (a - 0x8000) % 0x100
  if 0x8000 ≤ a ∧ a < 0xA400 ∧ 0x80 ≤ e ∧ e < 0xC0 then
    let i := (e - 0x80) / 0x10
    if e % 0x10 = 0 then decide (2 ^ 21 < (w &&& 0x1FFFC0#32).toNat + (rg b (Reg.TLR_GLUME_SIZE t i)).toNat)
    else if e % 0x10 = 4 then decide (2 ^ 21 < (rg b (Reg.TLR_GLUME_BASE t i)).toNat + (w &&& 0x3FFFC0#32).toNat)
    else if e % 0x10 = 8 then decide (9 ≤ w.fld 7 4)
    else false
  else false

/-- R386: does a result ring with this CFG and the largest payload `p` lie in its region? -/
def rrCfgOk (w : Word) (p : Nat) : Bool :=
  let n := w.fld 27 24; let z := w.fld 20 12
  decide (4 ≤ n ∧ 1 ≤ z ∧ w.fld 11 0 * 4096 + 2 ^ n * (z * 32) ≤ 2 ^ 24 ∧ 32 + p ≤ z * 32)

/-- R386: does a command ring with this CFG lie in its region? -/
def crCfgOk (w : Word) : Bool :=
  decide (4 ≤ w.fld 19 16 ∧ w.fld 19 16 ≤ 12 ∧ (w.fld 14 0 + 2 ^ w.fld 19 16) * 32 ≤ 2 ^ 20)

/-- The largest payload of a result ring (R374). -/
def rrLargest (b : Block) (r : Nat) : Nat := spGet (fun _ => 0) b.links.largest r

/-- R487: would GLO, GHI make a window that meets the staging region, or an inverted one? -/
def memWinBad (glo ghi : Nat) : Bool := decide (ghi < glo ∨ 0x3F8000000 / 65536 ≤ ghi)

/-- A write that an owning chapter turns away whole: what it does instead. None where the write stands. -/
def writeBad (b : Block) (a : Nat) (w : Word) : Option Block :=
  if a = Reg.TB_SCALE then
    (if 1 ≤ w.toNat ∧ w.toNat ≤ 0x10000000 then none else some (tbCfgErr b a))
  else if glumeBad b a w then some (orRg b Reg.TLR_STATUS 1)
  else if a = Reg.STRM_ARB then
    (if w.fld 11 0 = 0 then some (raise (orRg b Reg.STRM_STATUS 1) 0x7D 0xFFF) else none)
  else if a = Reg.LNK_VC_WHEEL then
    (if w = 0#32 then some (raise (orRg b Reg.LNK_STATUS 0x80000) 0xA7 0) else none)
  else if a = Reg.PWR_DIP_CFG then
    (if w.fld 15 0 = 0 then some (raise (orRg b Reg.PWR_STATUS 4) 0xD4 0) else none)
  else if (0xE800 ≤ a ∧ a < 0xEC00) ∨ (0xED00 ≤ a ∧ a < 0xEE00) ∨ a = Reg.SAFE_CTRL then
    (if (rg b Reg.SEQ_CTRL).bit 0 ∧ isSh a = true ∧ (a ≠ Reg.SAFE_CTRL ∨ shDiffers b a w = true) then
       some (raise (orRg b Reg.SAFE_STATUS 0x100) 0xB9 0)
     else none)
  else match famIdx a 0xA500 0x10 16 0, famIdx a 0xB800 0x20 36 0 with
    | some q, _ => if 1024 < (w.fld 25 20 + 1) * (w.fld 29 26 + 1) then some (raise (orRg b Reg.TLR_STATUS 1) 0x6C q) else none
    | _, some t => if w.fld 3 0 = 0 then some (raise (orRg b Reg.STRM_STATUS 1) 0x7D t) else none
    | none, none =>
      match famIdx a 0xD200 0x20 16 0, famIdx a 0xD100 0x10 16 0 with
      | some r, _ => if rrCfgOk w (rrLargest b r) then none else some (orRg b Reg.HOST_STATUS 2)
      | _, some _ => if crCfgOk w then none else some (orRg b Reg.HOST_STATUS 2)
      | none, none =>
        match famIdx a 0xA900 0x10 16 0, famIdx a 0xA900 0x10 16 4 with
        | some c, _ =>
          if memWinBad (w.fld 17 0) ((rg b (Reg.MEM_CTX_GHI c)).fld 17 0) then some (raise (orRg b Reg.MEM_STATUS 4) 0xCD 0) else none
        | _, some c =>
          if memWinBad ((rg b (Reg.MEM_CTX_GLO c)).fld 17 0) (w.fld 17 0) then some (raise (orRg b Reg.MEM_STATUS 4) 0xCD 0) else none
        | none, none => none

/-! ## Sets (R82, R107, R118, R138, R160, R186) -/

/-- The registers of an engine set. -/
def setRegs (base n : Nat) : List Nat := (upFrom 0 n).map (fun i => base + 4 * i)

/-- An engine class: first offset, bytes per set, registers per set, STATUS register, CFG_ERR event. -/
structure SetClass where
  base : Nat
  step : Nat
  regs : Nat
  stat : Nat
  ev   : Nat
  deriving DecidableEq, Repr

/-- The five classes. -/
def setClasses : List SetClass :=
  [⟨0x4000, 0x20, 4, Reg.WP_STATUS, 0x40⟩, ⟨0x4800, 0x10, 2, Reg.PY_STATUS, 0x48⟩, ⟨0x5000, 0x20, 6, Reg.FT_STATUS, 0x50⟩,
   ⟨0x5800, 0x20, 8, Reg.ST_STATUS, 0x58⟩, ⟨0x6000, 0x20, 7, Reg.FL_STATUS, 0x60⟩]

/-- The checks of the set at `o`, of the class that starts at `base`, for the values that `f` gives. -/
def setPasses (base : Nat) (f : Nat → Word) (o : Nat) : Bool :=
  if base = 0x4000 then warpSetOk (warpSetOf f o)
  else if base = 0x4800 then pyrSetOk (pyrSetOf f o)
  else if base = 0x5000 then tuftSetOk (tuftSetOf f o)
  else if base = 0x5800 then stereoSetOk (stereoSetOf f o)
  else flowSetOk (flowSetOf f o)

/-- The class and offset of the set to which a register belongs. -/
def setOfReg (a : Nat) : Option (SetClass × Nat) :=
  (setClasses.find? (fun k => decide (k.base ≤ a ∧ a < k.base + 16 * k.step ∧ (a - k.base) % k.step < 4 * k.regs))).map
    (fun k => (k, k.base + (a - k.base) / k.step * k.step))

/-- A set fails its checks. -/
def setErr (b : Block) (k : SetClass) : Block := raise (orRg b k.stat 1) k.ev 15

/-- All registers of a list take their written values in every generation (R117, R137). -/
def forceAll (b : Block) (l : List Nat) : Block := l.foldl (fun b a => setGen b a (rg b a)) b

/-- Lane `n` to which a shadowed register of a set belongs. -/
def laneOfReg (a : Nat) : Option Nat :=
  if 0x3000 ≤ a ∧ a < 0x4000 ∧ 0x60 ≤ (a - 0x3000) % 0x200 ∧ (a - 0x3000) % 0x200 < 0xE0 then some ((a - 0x3000) / 0x200) else none

/-- Port `n` to which a register belongs. -/
def portOfReg (a : Nat) : Option Nat :=
  if 0x3000 ≤ a ∧ a < 0x4000 ∧ (a - 0x3000) % 0x200 < 0x60 then some ((a - 0x3000) / 0x200) else none

/-- A lane's settings fail R116. -/
def laneErr (b : Block) (n : Nat) : Block := raise (orRg b (Reg.FE_LANE_STATUS n) 1) 0x38 n

/-- The values by which a lane's set is judged at once (R117): its own as written, the rest in force. -/
def laneNow (b : Block) (n : Nat) (a : Nat) : Word := if laneOfReg a = some n then rg b a else frc b a

/-- R117: the set of lane `n` forms at once. An apply pulse of its message comes at the next firing; HEAD_ERR marks the sheaf in
progress, and the message is never late (log entry 63). -/
def laneAtOnce (b : Block) (n : Nat) : Block :=
  if laneFormOk (laneNow b n) n then headStart (forceAll b (laneShRegs n)) n (curSheaf b) true
  else laneErr b n

/-- TB_CTRL.EN goes to 0: shadowed registers that latch singly and still wait for a boundary take effect, for none can occur
until the next enable (log entry 60). -/
def singlesNow (b : Block) : Block :=
  (b.regs.cur ++ b.regs.force).foldl (fun b e =>
    if isSh e.1 && (portOfReg e.1).isNone && (laneOfReg e.1).isNone && (setOfReg e.1).isNone then setGen b e.1 (rg b e.1) else b) b

/-- R95: the fields of port `n` take effect at once. -/
def portAtOnce (b : Block) (n : Nat) : Block :=
  if cpSetOk b n then forceAll b (cpShRegs n) else cpCfgErr b n

/-- An engine set takes effect at once while SEQ_CTRL.EN is 0 (R137, R531): it becomes the current generation. Invocations under
way keep the set they began with (R119). -/
def setNow (b : Block) (k : SetClass) (o : Nat) : Block :=
  let b := { b with regs := { b.regs with wrote := b.regs.wrote.filter (· ≠ o) } }
  if setPasses k.base (rg b) o then (setRegs o k.regs).foldl (fun b a => setFrc b a (rg b a)) b else setErr b k

/-- SEQ_CTRL.EN goes to 0: engine sets that still wait for a boundary take effect (log entry 60). -/
def setsNow (b : Block) : Block :=
  b.regs.wrote.foldl (fun b o => match setOfReg o with
    | some (k, o) => setNow b k o
    | none => b) b

/-- When the SH fields of a register just written take effect (R531). -/
def shApply (b : Block) (a : Nat) : Block :=
  if 0x2000 ≤ a ∧ a < 0x2100 then tbForce b a
  else match portOfReg a with
    | some n => if cpEn b n then b else portAtOnce b n
    | none =>
      match laneOfReg a with
      | some n =>
        let b := if 0x7C ≤ (a - 0x3000) % 0x200 ∧ (a - 0x3000) % 0x200 < 0xC0 then
            setLane b n { lane b n with headWr := true } else b
        if cpEn b n then b else laneAtOnce b n
      | none =>
        match setOfReg a with
        | some (k, o) =>
          if (rg b Reg.SEQ_CTRL).bit 0 then { b with regs := { b.regs with wrote := b.regs.wrote.filter (· ≠ o) ++ [o] } }
          else setNow b k o
        | none =>
          if (0xE800 ≤ a ∧ a < 0xF000) ∨ tbEn b = false then setGen b a (rg b a) else b

/-- SEQ_SCAN: a CYC above 1249 leaves that field as it was (R74). -/
def scanFix (b : Block) (a : Nat) (w : Word) : Word :=
  if a = Reg.SEQ_SCAN ∧ 1249 < w.fld 10 0 then w.setFld 10 0 ((rg b a).fld 10 0) else w

/-- A TB_TRIGn_CFG that is written makes its ball driven (R523). -/
def trigCfgd (a : Nat) (b : Block) : Block :=
  match famIdx a 0x2080 4 8 0 with
  | some n => setTrig b n { trigOf b n with cfgd := true }
  | none => b

/-- A write to a register by its field types, with the checks of its chapter (R17). It is what a PARAM or GLUME section
does too (R425). -/
def settingWrite (a : Nat) (w : Word) (b : Block) : Block :=
  match writeBad b a w with
  | some b' => b'
  | none =>
    let b := setRg b a (merged b a (scanFix b a w))
    let b := if isSh a then shApply b a else b
    trigCfgd a (if a = Reg.TB_REV_LIMIT then revCheck b else b)

/-! ## The SH latch at a sheaf boundary (R17, R30, R107, R118) -/

/-- Is the register latched by a port, a lane or an engine set together with others? -/
def inGroupSet (a : Nat) : Bool :=
  (portOfReg a).isSome || (laneOfReg a).isSome || (setOfReg a).isSome

/-- Every key of a register store. -/
def keysOf (l : List (Nat × Word)) : List Nat := l.map Prod.fst

/-- Shadowed registers that latch singly. -/
def latchSingles (b : Block) : Block :=
  (keysOf b.regs.cur ++ keysOf b.regs.force).foldl (fun b a =>
    if isSh a && !inGroupSet a then setFrc b a (rg b a) else b) b

/-- The generations move by one sheaf at the boundary that starts sheaf `sh`, whether or not a set changes: the previous
generation of R119 and R128 is the one in force a sheaf earlier (log entry 72). -/
def shiftGens (sh : Nat) (b : Block) : Block :=
  { b with regs := { b.regs with prev2 := b.regs.prev, prev := b.regs.force, forceAt := sh,
                                 prevAt := if sheafGt sh b.regs.forceAt then b.regs.forceAt else subMod 34 sh 1 } }

/-- All registers of a list latch. -/
def latchAll (b : Block) (l : List Nat) : Block := l.foldl (fun b a => setFrc b a (rg b a)) b

/-- The values by which lane `n` is judged at a boundary: as they will stand after it (R116). -/
def laneNext (b : Block) (n : Nat) (a : Nat) : Word :=
  match portOfReg a with
  | some m => if cpSetOk b m then rg b a else frc b a
  | none => if laneOfReg a = some n then rg b a else if 0x2000 ≤ a ∧ a < 0x2100 then rg b a else frc b a

/-- Lane `n` at the boundary that starts sheaf `sh`: the message of the set that forms belongs to sheaf `sh + 1` (R111). -/
def latchLane (sh : Nat) (b : Block) (n : Nat) : Block :=
  if laneFormOk (laneNext b n) n then headStart (latchAll b (laneShRegs n)) n ((sh + 1) % 2 ^ 34) false
  else laneErr (setLane b n { lane b n with headWr := false }) n

/-- Port `n`. -/
def latchPort (b : Block) (n : Nat) : Block := if cpSetOk b n then latchAll b (cpShRegs n) else cpCfgErr b n

/-- Engine sets written in the sheaf that ends (R118): each latches whole, or not at all. -/
def latchSets (b : Block) : Block :=
  let l := sortBy (fun x y => decide (x < y)) b.regs.wrote
  l.foldl (fun b o => match setOfReg o with
    | some (k, o) => if setPasses k.base (rg b) o then latchAll b (setRegs o k.regs) else setErr b k
    | none => b) { b with regs := { b.regs with wrote := [] } }

/-- The SH latch of the boundary tick that starts sheaf `sh`. Lanes are judged before ports latch, by the values that
the ports will have; a COL_CAP that falls drops records at once (R229). -/
def shLatch (sh : Nat) (b : Block) : Block :=
  let b := shiftGens sh b
  let b := (upFrom 0 8).foldl (latchLane sh) b
  let b := (upFrom 0 8).foldl latchPort b
  (upFrom 0 16).foldl pqTrim (latchSingles (latchSets b))

end Sys2Proof.Machine
end

