-- ==== Sys2Proof/Machine/Safe.lean ====
section
/-! DEFINITION. Chombe (spec/19_safety.md R451 to R465): the safe state and its records, CLEAR and FORCE, Chombe's own
faults, the latent-fault test's result, self-tests, and the freedom-from-interference check. -/

namespace Sys2Proof.Machine

/-! ## Entering (R459 to R461) -/

/-- R461: a SAFE record. `exit` marks the record of leaving SAFE. -/
def safeRecord (b : Block) (exit : Bool) : List Word :=
  let f := rg b Reg.SAFE_FIRST
  recHdr 2 (devOf b) 32 b.tb.frontier (some (6, 0)) false false 0 0
    ++ [wd (b2n exit * 2 ^ 31 + f.fld 4 0), wd (f.fld 27 16), wd b.tb.pos, wd (b.tb.pos / 2 ^ 32 % 2 ^ 16),
             rg b Reg.SAFE_CAUSE, 0#32, 0#32, 0#32]

/-- A SAFE record reaches the head's ring HOST_CTRL.SAFE_RING: of a ring whose RSIZE is 1 it is its header alone, with LEN 0 (R461). -/
def safeWrite (b : Block) (ws : List Word) : Block :=
  let ring := (rg b Reg.HOST_CTRL).fld 3 0
  rrWrite b ring (if (frc b (Reg.HOST_RR_CFG ring)).fld 20 12 ≤ 1 then listSet (ws.take 8) 0 (wAt ws 0 &&& 0xFFFF0000#32) else ws)

/-- Publish a SAFE record: on the ring HOST_CTRL.SAFE_RING, or on VC0 to the head (R399). It needs the core domain. -/
def safePublish (b : Block) (exit : Bool) : Block :=
  if b.pwr.core = false then b
  else
    let ws := safeRecord b exit
    if devOf b = 0 then safeWrite b ws else (sendTo b 0 (.safeRec ws)).1

/-- A request latched while in SAFE (R460). -/
def safeMore (b : Block) (r : Nat × Nat) : Block :=
  raise (bump (orRg b Reg.SAFE_CAUSE (2 ^ r.1)) Reg.SAFE_CNT_REQ 1) 0xB8 r.1

/-- The lowest request of a cycle enters SAFE from NORMAL or START (R459). -/
def safeEnter (b : Block) (r : Nat × Nat) : Block :=
  let b := orRg (setF b Reg.SAFE_STATUS 1 0 2) Reg.SAFE_CAUSE (2 ^ r.1)
  let b := setRg b Reg.SAFE_FIRST (wd (r.2 % 4096 * 2 ^ 16 + r.1))
  let b := setRg (setRg b Reg.SAFE_POS_LO (wd b.tb.pos)) Reg.SAFE_POS_HI (wd (b.tb.pos / 2 ^ 32 % 2 ^ 16))
  let b := { b with safe := { b.safe with since := some b.pwr.ccy, tillC := none } }
  raise (bump b Reg.SAFE_CNT_ENTRY 1) 0xB0 r.1

/-- Chombe latches requests in ascending code (R460): from START or NORMAL the lowest enters SAFE, and those after it find the part in
SAFE, where each is added. -/
def latchReqs (b : Block) (l : List (Nat × Nat)) : Block :=
  let b := { b with now := { b.now with reqs := b.now.reqs ++ l } }
  match sortBy (fun p q => decide (p.1 < q.1)) l with
  | [] => b
  | r :: rest =>
    if safeState b = 2 then (r :: rest).foldl safeMore b
    else safePublish (rest.foldl safeMore (safeEnter b r)) false

/-- SAFE_DETECT: the requests that wait are latched. -/
def safeDetect (b : Block) : Block :=
  latchReqs { b with safe := { b.safe with req := [] } } b.safe.req

/-- CHOMBE_MISMATCH, CORE_CLK_LOSS (R452): by Chombe's own path; in the second the core clock is absent. -/
def chombeMismatch (b : Block) : Block := latchReqs b [(10, 0)]
def coreClkLoss (b : Block) : Block :=
  latchReqs { b with pwr := { b.pwr with core := false }, safe := { b.safe with clkSeen := false } } [(11, 0)]

/-! ## Leaving (R462), forcing (R458) -/

/-- May a CLEAR be accepted? -/
def clearOk (b : Block) : Bool :=
  decide (safeState b = 2 ∧ (tbState b = 0 ∨ tbState b = 2) ∧ rg b Reg.SAFE_CAUSE &&& 0xFC1#32 = 0#32 ∧ b.safe.cond = [])

/-- Requests latched in the cycle of a CLEAR come after it (R462): what they did in SAFE is undone, and they are latched again. -/
def latchAgain (b : Block) : Block :=
  match b.now.reqs with
  | [] => b
  | l =>
    let b := { bump b Reg.SAFE_CNT_REQ (2 ^ 32 - l.length) with
      raised := b.raised.filter (fun e => decide (e.code ≠ 0xB8)), now := { b.now with reqs := [] } }
    latchReqs b l

/-- A write of CLEAR = 1. -/
def clearSafe (b : Block) : Block :=
  if clearOk b && decide (b.safe.since ≠ some b.pwr.ccy) then
    let b := setRg (setF b Reg.SAFE_STATUS 1 0 1) Reg.SAFE_CAUSE 0#32
    let b := (upFrom 0 16).foldl (fun b w =>
      let s := Reg.SAFE_WCH_STAT w
      setF (setF (setF b s 4 0 0) s 23 8 0) s 27 24 0) b
    let b := { b with safe := { b.safe with since := none, tillC := some b.pwr.ccy, wdog := [] } }
    latchAgain (raise (safePublish b true) 0xB1 0)
  else raise (orRg b Reg.SAFE_STATUS 0x100) 0xB9 0

/-- A write to SAFE_CTRL: its SH fields under R438, then FORCE and CLEAR. -/
def safeCtrlWrite (w : Word) (b : Block) : Block :=
  let b := settingWrite Reg.SAFE_CTRL w b
  let b := if w.bit 1 then safeReq b 1 0 else b
  if w.bit 0 then clearSafe b else b

/-- SAFE_FORCE and SAFE_CLEAR: the write that holds the bit. -/
def safeForce (w : Word) (b : Block) : Block := safeCtrlWrite (w ||| 2#32) b
def safeClear (w : Word) (b : Block) : Block := safeCtrlWrite (w ||| 1#32) b

/-! ## The latent-fault test (R453, R454) -/

/-- The latent-fault test of a base runs while the base is being written (R453, R454). -/
def lftRunning (b : Block) : Block := setRg b Reg.SAFE_LFT 1#32

/-- The test's result: none passes. -/
def lftResult (lft : Option Nat) (b : Block) : Block :=
  match lft with
  | none =>
    let b := clrRg (setRg b Reg.SAFE_LFT 2#32) Reg.SAFE_CAUSE 1
    if safeState b = 0 then setF b Reg.SAFE_STATUS 1 0 1 else b
  | some k => safeReq (raiseS (setRg b Reg.SAFE_LFT (wd (k % 256 * 256 + 3))) 0xB6 k true) 6 k

/-! ## Self-tests (R455) -/

/-- Are all domains of a unit ON (R508)? -/
def unitOn (b : Block) (cls phys : Nat) : Bool :=
  if cls = 0 ∧ phys < 32 then [arrayDom phys, vectorDom phys, spadDom phys].all (fun d => decide (domSt b d = 0))
  else (unitDom cls phys).elim true (fun d => decide (domSt b d = 0))

/-- Is the unit a spare that may be used? One under test stays SPARE (R455). -/
def isSpare (b : Block) (cls phys : Nat) : Bool :=
  let s := rg b Reg.SAFE_STEST_STAT
  decide ((unitOf b cls phys).st = 2) && unitOn b cls phys &&
  !decide (s.fld 1 0 = 1 ∧ s.fld 23 20 = cls ∧ s.fld 7 2 = phys)

/-- SELF_TEST_GO. -/
def selfTestGo (cls phys : Nat) (b : Block) : Block :=
  if cls < 6 ∧ phys < classSize cls ∧ isSpare b cls phys = true ∧ (rg b Reg.SAFE_STEST_STAT).fld 1 0 ≠ 1 then
    setRg b Reg.SAFE_STEST_STAT (wd (cls * 2 ^ 20 + phys * 4 + 1))
  else raise (orRg b Reg.SAFE_STATUS 0x100) 0xB9 0

/-- The unit becomes FENCED: TLR_t_ID shows it for a tiller. -/
def fenceUnit (b : Block) (cls phys : Nat) : Block :=
  let b := setUnit b cls phys { unitOf b cls phys with st := 3, slot := 0x3F }
  if cls = 0 then setRg b (Reg.TLR_ID phys) (wd (4 * 2 ^ 16 + phys * 256 + 0x3F)) else b

/-- SELF_TEST_DONE. -/
def selfTestDone (pass : Bool) (b : Block) : Block :=
  let s := rg b Reg.SAFE_STEST_STAT
  if s.fld 1 0 ≠ 1 then b
  else
    let cls := s.fld 23 20; let p := s.fld 7 2
    let b := raise (setF b Reg.SAFE_STEST_STAT 1 0 (if pass then 2 else 3)) 0xB7 (cls * 64 + p)
    if pass then b else fenceUnit b cls p

/-! ## Freedom from interference (R457) -/

/-- Contexts of the safety partition: those of the partition that includes CTX0 (R423). -/
def safetyCtx (b : Block) : Nat := ((b.cfg.envs.find? (fun e => nbit e.2.ctx 0)).map (fun e => e.2.ctx)).getD 1

/-- Do the Granary windows in force of two contexts overlap? -/
def winOverlap (b : Block) (c d : Nat) : Bool :=
  let lo := fun k => (frc b (Reg.GRN_CTX_WIN k)).fld 13 0
  let hi := fun k => (frc b (Reg.GRN_CTX_WIN k)).fld 29 16
  decide (lo c ≤ hi c ∧ lo d ≤ hi d ∧ lo c ≤ hi d ∧ lo d ≤ hi c)

/-- Does a window of a context of the safety partition overlap that of a context outside it? A window whose HI is below LO holds no
block. -/
def ffiOverlap (b : Block) : Bool :=
  (upFrom 0 16).any (fun c => nbit (safetyCtx b) c &&
    (upFrom 0 16).any (fun d => !nbit (safetyCtx b) d && winOverlap b c d))

/-- Does the loaded schedule hold a SAFETY entry? -/
def hasSafety (b : Block) : Bool := b.sched.stages.any (fun st => (b.sched.entry st).safety)

/-- The check at a sheaf boundary, after the latch. -/
def ffiCheck (b : Block) : Block :=
  let m := !(frc b Reg.STRM_ARB).bit 16
  let o := ffiOverlap b
  if hasSafety b && (m || o) then
    let arg := if m then 0 else 1
    safeCond (safeReq (raiseS b 0xBB arg true) 18 arg) 18 0 true
  else safeCond b 18 0 false

/-- NOGOLD (R447). -/
def nogold (b : Block) : Block :=
  let cmp := b.sched.stages.any (fun st => decide ((b.sched.entry st).kind = 3))
  setF b Reg.SAFE_STATUS 10 10 (b2n (cmp && !(frc b Reg.SEQ_CTRL).bit 1))

end Sys2Proof.Machine
end

