-- ==== Sys2Proof/Machine/LinkState.lean ====
section
/-! DEFINITION. The state of the Mutil links (spec/17_multi_device.md R387 to R397): training, loss, rerouting, retry,
and unreachability. -/

namespace Sys2Proof.Machine

/-! ## Wiring (R387, R388) -/

/-- Is link `l` used: its dimension is larger than 1 and the device lies in the system? -/
def linkUsed (b : Block) (l : Nat) : Bool :=
  decide (l < 4 ∧ devOf b < xDim b * yDim b ∧ 1 < (if l < 2 then xDim b else yDim b))

/-- Set the state of a link: 0 DOWN, 1 TRAIN, 2 UP, 3 MISMATCH. -/
def setLink (b : Block) (l v : Nat) : Block := setF b Reg.LNK_STATUS (2 * l + 1) (2 * l) v

/-- LNK_SYS.STATE after the base load: 1 TRAINING, 2 UP, 3 DEGRADED (R410). -/
def sysState (b : Block) : Block :=
  let up := (upFrom 0 4).all (fun l => !linkUsed b l || decide (linkSt b l = 2))
  let b := { b with links := { b.links with wasUp := b.links.wasUp || up } }
  setF b Reg.LNK_SYS 31 30 (if up then 2 else if b.links.wasUp then 3 else 1)

/-- Is the link enabled in LNK_CTRL? -/
def linkEn (b : Block) (l : Nat) : Bool := (rg b Reg.LNK_CTRL).bit l

/-- A link begins to train where it is used and enabled. -/
def linkTrain (b : Block) (l : Nat) : Block := setLink b l (if linkUsed b l && linkEn b l then 1 else 0)

/-- A link whose SYSTEM content has changed trains anew: nothing of it waits any more. -/
def linkAnew (b : Block) (l : Nat) : Block :=
  linkTrain { b with links := { b.links with
    wasUp := false, replay := spErase l b.links.replay, alt := b.links.alt.filter (· ≠ l),
    nak := b.links.nak.filter (fun e => e.1 ≠ l), vcq := spErase l b.links.vcq } } l

/-- After a base load (R387, R389, R422): links whose SYSTEM content has changed train. -/
def linksLoaded (changed : Nat → Bool) (b : Block) : Block :=
  let b := if xDim b * yDim b ≤ devOf b then raise (orRg b Reg.LNK_STATUS 0x80000) 0xA7 0 else b
  sysState (((upFrom 0 4).filter changed).foldl linkAnew b)

/-! ## Unreachability (R396) -/

/-- What an unreachability notice says of the discarded traffic: 1 a remote read, 2 a forwarded event, 16 and above a
glume transfer of a logical slot's stream, 0 any other. -/
def lostWhat : Payload → Nat
  | .rrdReq _ => 1
  | .event _ => 2
  | .glumeWr _ _ _ _ _ _ r s => 16 + r * 64 + s
  | .glumeRd _ _ _ _ _ r s => 16 + r * 64 + s
  | _ => 0

/-- R382: a remote read ends. -/
def rrdEnd (b : Block) (ok : Bool) (data : Word) : Block :=
  if b.links.rrd then
    let b := { b with links := { b.links with rrd := false } }
    let b := setRg b Reg.HOST_RRD_DATA (if ok then data else 0#32)
    orRg (setRg b Reg.HOST_RRD_CMD (wd (b2n (!ok) * 4 + 2))) Reg.HOST_ATTN_STATUS 64
  else b

/-- The outcome at the source of discarded traffic. -/
def lostAt (b : Block) (what : Nat) : Block :=
  if what = 1 then rrdEnd b false 0#32
  else if what = 2 then orRg (bump b Reg.LNK_CNT_EVT_LOST 1) Reg.LNK_STATUS 0x10000
  else if 16 ≤ what then
    match physOf b 0 ((what - 16) / 64) with
    | some t => if (slotOf (tl b t) ((what - 16) % 64)).inFlight then markBad b t ((what - 16) % 64) 6 else b
    | none => b
  else b

/-- A notice of unreachability: device `dev` could not be reached; later packets name the numbers that were discarded. -/
def unreachNotice (dev what vc : Nat) (nums : List (Nat × Nat)) (b : Block) : Block :=
  lostAt (unreachHere (noteLost b vc nums) dev) what

/-- A packet that no link takes is discarded; its source learns of it. -/
def lostPacket (b : Block) (dev : Nat) (p : Packet) : Block :=
  if p.src = devOf b then unreachNotice dev (lostWhat p.body) p.vc (p.nums ++ p.lost) b
  else sendNotice b p.src dev (lostWhat p.body) p.vc (p.nums ++ p.lost)

/-- Send a packet on towards device `dst`. -/
def sendOn (b : Block) (dst : Nat) (p : Packet) : Block :=
  let r := forwardPkt b dst p
  if r.2 then r.1 else lostPacket r.1 dst p

/-- A packet of link `l`, which is lost, takes another way (R394): a tree packet to the far end of its tree's link, others to
their destination. -/
def reroute (l : Nat) (b : Block) (p : Packet) : Block :=
  match p.relay with
  | some e => sendOn b e p
  | none => if p.dst = 64 then treePush b l p else sendOn b p.dst p

/-! ## Loss and training (R389, R394) -/

/-- The packets of link `l` that await acknowledgement. -/
def replayOf (b : Block) (l : Nat) : List Packet := spGet (fun _ => []) b.links.replay l

/-- Replace them. -/
def setReplay (b : Block) (l : Nat) (ps : List Packet) : Block :=
  { b with links := { b.links with replay := spPut (fun _ => []) b.links.replay l ps } }

/-- The `n` oldest packets of link `l` that await acknowledgement have been acknowledged. -/
def ackLink (l n : Nat) (b : Block) : Block := if l < 4 then setReplay b l ((replayOf b l).drop n) else b

/-- LINK_DOWN: the link is lost; its unacknowledged packets move to the alternate route; primary routes stay suspended. -/
def linkLost (l : Nat) (b : Block) : Block :=
  if linkSt b l ≠ 2 then b
  else
    let ps := replayOf b l
    let b := setReplay (setLink b l 0) l []
    let b := { b with links := { b.links with alt := b.links.alt.filter (· ≠ l) ++ [l],
                                              nak := b.links.nak.filter (fun e => e.1 ≠ l), vcq := spErase l b.links.vcq } }
    let b := raise (bump b (Reg.LNK_L_CNT_RETRAIN l) 1) 0xA0 l
    sysState (ps.foldl (reroute l) b)

/-- The link trains again on its own after a loss. -/
def linkDown (l : Nat) (b : Block) : Block :=
  if 4 ≤ l ∨ linkSt b l ≠ 2 then b else linkTrain (linkLost l b) l

/-- LINK_DOWN: the link is lost after the `acked` oldest of its packets have been acknowledged. -/
def linkFails (l acked : Nat) (b : Block) : Block := linkDown l (ackLink l acked b)

/-- LINK_UP: the ends have exchanged DEV and SYS_ID. -/
def linkUp (l dev : Nat) (sysId : Word) (b : Block) : Block :=
  if 4 ≤ l ∨ linkSt b l ≠ 1 then b
  else if sysId = rg b Reg.LNK_SYS_ID ∧ dev = linkFar b l then raise (sysState (setLink b l 2)) 0xA1 l
  else raise (setLink b l 3) 0xA3 l

/-- LINK_RETRAIN: a write to LNK_CTRL. RETRAIN forces links DOWN and trains them; a link not enabled is DOWN. -/
def linkRetrain (w : Word) (b : Block) : Block :=
  let o := rg b Reg.LNK_CTRL
  let b := setRg b Reg.LNK_CTRL (w &&& 0x10F#32)
  (upFrom 0 4).foldl (fun b l =>
    if w.bit (4 + l) ∨ (w.bit l = false ∧ o.bit l = true) then
      sysState ((if (rg b Reg.LNK_SYS).fld 31 30 = 0 then id else fun b => linkTrain b l) (linkLost l b))
    else if w.bit l = true ∧ o.bit l = false ∧ (rg b Reg.LNK_SYS).fld 31 30 ≠ 0 then linkTrain b l
    else b) b

/-- At a sheaf boundary primary routes of links that are UP again resume (R394). -/
def linkResume (b : Block) : Block :=
  { b with links := { b.links with alt := b.links.alt.filter (fun l => decide (linkSt b l ≠ 2)) } }

/-- LINK_RETRY (R393): a NAK names the `i`-th unacknowledged packet; those before it have arrived, and the rest is
replayed in order, delayed by `d` core cycles: each is a counted choice (R471 bit 4), and the retry a LATE record (R474). -/
def linkRetry (l i d : Nat) (b : Block) : Block :=
  if 4 ≤ l ∨ linkSt b l ≠ 2 ∨ (replayOf b l).length ≤ i then b
  else
    let rest := (replayOf b l).drop i
    let b := rest.foldl (fun b _ => nondet b 4) (recLate (setReplay b l rest) 1 l d)
    raiseOnce (bump b (Reg.LNK_L_CNT_RETRY l) 1) 0xA2 l l

end Sys2Proof.Machine
end

