-- ==== Sys2Proof/Machine/CfgCheck.lean ====
section
/-! DEFINITION. Signed objects (spec/18_configuration_bitstream.md R411 to R416): layout, keys, signature, sections, and the
rules on the content of a bit-stream that the loader checks (R49, R50, R64, R118, R139, R161, R186, R197, R331, R332, R374,
R421, R423, R424, R437). -/

namespace Sys2Proof.Machine

/-! ## Layout (R411, R412) -/

/-- Word `i` of an object. -/
def ow (o : List Byte) (i : Nat) : Word := wd (leNat ((o.drop (4 * i)).take 4))

/-- KIND, PART, KEYSLOT, NSEC, VERSION and BIND of the header. -/
def oKind (o : List Byte) : Nat := (ow o 2).fld 31 28
def oPart (o : List Byte) : Nat := (ow o 2).fld 27 24
def oKeySlot (o : List Byte) : Nat := (ow o 4).fld 3 0
def oNsec (o : List Byte) : Nat := (ow o 2).fld 7 0
def oVersion (o : List Byte) : Word := ow o 5
def oBind (o : List Byte) : Bool := (ow o 2).bit 16
def oBindId (o : List Byte) : List Byte := (o.drop 32).take 64

/-- An entry of the section table. -/
structure SecEnt where
  type : Nat
  sver : Nat
  off  : Nat
  len  : Nat
  deriving DecidableEq, Repr

/-- The section table. -/
def oSecs (o : List Byte) : List SecEnt :=
  (upFrom 0 (oNsec o)).map (fun i =>
    let w := 32 + 4 * i
    ⟨(ow o w).fld 31 24, (ow o w).fld 23 16, (ow o (w + 1)).toNat, (ow o (w + 2)).toNat⟩)

/-- The bytes of the first section of a type. -/
def oSection (o : List Byte) (ty : Nat) : Option (List Byte) :=
  ((oSecs o).find? (fun s => s.type = ty)).map (fun s => (o.drop s.off).take s.len)

/-- Index of the `n`-th section of a type; 0xFF where there is none. -/
def secIdx (l : List SecEnt) (ty n : Nat) : Nat :=
  (((upFrom 0 l.length).zip l).filterMap (fun e => if e.2.type = ty then some e.1 else none))[n]?.getD 0xFF

/-- Number of sections of a type. -/
def secCount (l : List SecEnt) (ty : Nat) : Nat := (l.filter (fun s => s.type = ty)).length

/-- The signature block's 1 088 bytes, and the 516 bytes of its public key. -/
def oSig (o : List Byte) : List Byte := o.drop (o.length - 1088)
def oKey (o : List Byte) : List Byte := (oSig o).take 516

/-! ## Checks 1 to 5 of R416 -/

/-- Reserved fields of the header are 0; PART and BIND_ID are 0 where they have no meaning (DEDUCED, log entry 29). -/
def hdrReserved (o : List Byte) : Bool :=
  decide (ow o 2 &&& 0xFEFF00#32 = 0#32 ∧ ow o 4 &&& 0xFFFFFFF0#32 = 0#32 ∧ ow o 6 = 0#32 ∧ ow o 7 = 0#32) &&
  (upFrom 24 8).all (fun i => decide (ow o i = 0#32)) &&
  (oKind o == 1 || oPart o == 0) && (oBind o || (oBindId o).all (fun x => decide (x = 0#8)))

/-- 1 FORMAT: over the host port only base, partial and key objects load (DEDUCED, log entry 29). -/
def fmtOk (o : List Byte) (kinds : List Nat) : Bool :=
  decide (ow o 0 = 0x564B4253#32 ∧ (ow o 1).fld 31 16 = 1) && kinds.contains (oKind o) && decide (1 ≤ oNsec o) && hdrReserved o

/-- Do two byte ranges (first, length) meet? -/
def rangesMeet (a n b m : Nat) : Bool := decide (0 < n ∧ 0 < m ∧ a < b + m ∧ b < a + n)

/-- 2 LENGTH: the first failing section, 0xFF for the object. -/
def lengthBad (o : List Byte) (len : Nat) : Option Nat :=
  let t := (ow o 3).toNat
  if t ≠ len ∨ t < 1280 ∨ 2 ^ 27 < t ∨ t % 64 ≠ 0 then some 0xFF
  else
    let l := oSecs o
    (upFrom 0 l.length).find? (fun i => match l[i]? with
      | none => true
      | some s => decide (s.off % 64 ≠ 0 ∨ s.off < 128 + 16 * l.length ∨ t - 1088 < s.off + s.len) ||
          (l.take i).any (fun r => rangesMeet r.off r.len s.off s.len))

/-- Does the PERM of a slot admit the object (R413)? -/
def permAdmits (perm kind : Nat) (l : List SecEnt) : Bool :=
  if kind = 0 then nbit perm 0
  else if kind = 1 then nbit perm 1 || (nbit perm 2 && decide (secCount l 0x03 = 0 ∧ secCount l 0x04 = 0))
  else if kind = 2 then nbit perm 3
  else false

/-- The enrolled hash of a customer slot. -/
def slotHash (b : Block) (k : Nat) : List Byte := spGet (fun _ => []) b.cfg.keyHash k

/-- 3 KEY (R413). -/
def keyOk (b : Block) (o : List Byte) : Bool :=
  let h := sha512 (oKey o)
  let k := oKeySlot o
  if k = 15 then decide (h = Config.vendorHash)
  else if k < 8 then
    (rg b (Reg.CFG_KEY k)).bit 31 && decide (h = slotHash b k) && permAdmits ((rg b (Reg.CFG_KEY k)).fld 3 0) (oKind o) (oSecs o)
  else false

/-- 4 SIGNATURE (R412). -/
def sigOk (o : List Byte) : Bool :=
  let s := oSig o
  decide (128 ≤ ((s.head?).getD 0#8).toNat ∧ (s.drop 512).take 4 = [0#8, 1#8, 0#8, 1#8]) &&
  ((s.drop 516).take 60).all (fun x => decide (x = 0#8)) &&
  rsaVerify (oKey o) (o.take (o.length - 1088)) ((s.drop 576).take 512)

/-- 5 BIND (R418). -/
def bindOk (b : Block) (o : List Byte) : Bool :=
  !oBind o || ((rg b Reg.CFG_STATUS).bit 10 && decide (oBindId o = b.cfg.idHash))

/-! ## Check 6: sections (R415) -/

/-- Least and greatest count of a section type in a kind; `part` is whether a partial holds a SCHEDULE. -/
def secBounds (kind ty : Nat) (sched : Bool) : Nat × Nat :=
  if kind = 0 then
    (if ty = 1 ∨ ty = 2 ∨ ty = 3 ∨ ty = 4 then (1, 1) else if ty = 5 then (0, 32) else if ty = 7 then (0, 64)
     else if ty = 6 ∨ ty = 8 ∨ ty = 9 ∨ ty = 10 then (0, 1) else (0, 0))
  else if kind = 1 then
    (if ty = 3 then (0, 1) else if ty = 4 then (if sched then (1, 1) else (0, 0)) else if ty = 5 then (0, 32)
     else if ty = 7 then (0, 64) else if ty = 6 ∨ ty = 8 then (0, 1) else (0, 0))
  else if kind = 2 then (if ty = 0x10 then (1, 1) else (0, 0))
  else if kind = 3 then (if ty = 0x11 ∨ ty = 0x12 ∨ ty = 0x13 then (1, 1) else (0, 0))
  else if kind = 4 then (if ty = 0x20 then (1, 1) else (0, 0))
  else (0, 0)

/-- 6 SECTION: the first section that R415 does not admit, 0xFF where a section is missing. -/
def sectionBad (o : List Byte) : Option Nat :=
  let l := oSecs o
  let sched := decide (secCount l 3 ≠ 0)
  match (upFrom 0 l.length).find? (fun i => match l[i]? with
      | none => true
      | some s => decide (s.sver ≠ 1 ∨ (secBounds (oKind o) s.type sched).2 < secCount (l.take (i + 1)) s.type)) with
  | some i => some i
  | none =>
    if (upFrom 1 0x20).all (fun ty => decide ((secBounds (oKind o) ty sched).1 ≤ secCount l ty)) then none else some 0xFF

/-- Checks 1 to 6: REASON and SECTION of the first failure. `ecc`: an error in reading the object shows as a signature
that does not verify (DEDUCED, log entry 29). -/
def objectBad (b : Block) (o : List Byte) (len : Nat) (kinds : List Nat) (ecc : Bool) : Option (Nat × Nat) :=
  if !fmtOk o kinds then some (1, 0xFF)
  else match lengthBad o len with
    | some s => some (2, s)
    | none =>
      if !keyOk b o then some (3, 0xFF)
      else if ecc || !sigOk o then some (4, 0xFF)
      else if !bindOk b o then some (5, 0xFF)
      else (sectionBad o).map (fun s => (6, s))

/-! ## Key records (R414) -/

/-- Does a KEY section satisfy R414? -/
def keyRecOk (b : Block) (o sec : List Byte) : Bool :=
  let w := ow sec 0
  let signer := oKeySlot o
  let perm := w.fld 19 16
  decide (w.fld 3 0 < 8) &&
  (signer == 15 || (decide (w.fld 3 0 ≠ signer) &&
    (w.bit 8 || decide (perm &&& (rg b (Reg.CFG_KEY signer)).fld 3 0 = perm))))

/-- A key record takes effect. -/
def keyApply (b : Block) (o sec : List Byte) : Block :=
  let w := ow sec 0
  let k := w.fld 3 0
  if w.bit 8 then
    { setRg b (Reg.CFG_KEY k) 0#32 with cfg := { b.cfg with keyHash := spErase k b.cfg.keyHash } }
  else
    { setRg b (Reg.CFG_KEY k) (wd (2 ^ 31 + oKeySlot o * 2 ^ 24 + w.fld 19 16)) with
      cfg := { b.cfg with keyHash := spPut (fun _ => []) b.cfg.keyHash k (sha512 ((sec.drop 64).take 516)) } }

/-! ## Check 7: the schedule -/

/-- Was the slot left unmapped at boot (R421), and not by a fence? -/
def bootUnmapped (b : Block) (cls slot : Nat) : Bool :=
  decide (cls = 0 ∨ (1 ≤ cls ∧ cls < 6)) && (physOf b cls slot).isNone &&
  !(b.cfg.waits.any (fun w => decide (w.cls = cls ∧ w.slot = slot)))

/-- A RIPE check with this ADJ. -/
def ripeAdj (c : Check) (adj : Int) : Bool := !c.sync && decide (c.adj = adj)

/-- Does an entry serve the last line of every `p` lines, in a slot of fewer than `p` rows (R139, R161, R186)? -/
def servesEvery (e : Entry) (p : Nat) : Bool := decide (e.period = p ∧ e.phase = p - 1 ∧ e.span ≤ p - 1)

/-- R118, R120, R139, R161, R186: what an engine's entry must look like. `val`: the registers of the parameter sets as the load
leaves them. The rules make no exception for a GOLD entry. -/
def pipeOk (val : Nat → Word) (s : Sched) (e : Entry) (cls : Nat) : Bool :=
  let cs := s.checks e
  if cls = 1 then
    decide (e.arg < 16) && ((cs.find? (fun c => !c.sync)).all (fun c => ripeAdj c (warpSetOf val (0x4000 + 0x20 * e.arg)).yw))
  else if cls = 2 then decide (e.arg < 16)
  else if cls = 3 then
    decide (e.arg < 16 ∧ e.nchk = 1) && cs.all (fun c => ripeAdj c 0) &&
    servesEvery e (tuftSetOf val (0x5000 + 0x20 * e.arg)).s
  else if cls = 4 then
    decide (e.arg < 16 ∧ e.nchk = 2 ∧ e.nout = 1 ∧ e.period = 1) && cs.all (fun c => ripeAdj c 1)
  else if cls = 5 then
    let p := flowSetOf val (0x6000 + 0x20 * e.arg)
    decide (e.arg < 16 ∧ e.nchk = 2 ∧ e.nout = 2 ∧ p.vps ≤ 6) && servesEvery e (2 ^ p.vps) &&
    (s.outputs e).all (fun o => !o.sync) &&
    (match cs with
     | c :: d :: _ => ripeAdj c 0 && ripeAdj d ((p.ys : Int) - p.g)
     | _ => false)
  else decide (cls = 6)

/-- Classes of R50 in which a UNIT code lies, by KIND. -/
def kindUnitOk (kind unit : Nat) : Bool :=
  let cls := (unitCls unit).1
  if kind = 0 then decide (1 ≤ cls ∧ cls ≤ 6)
  else if kind = 1 then decide (unit = 0xB0)
  else if kind = 2 then decide (cls = 0)
  else if kind = 3 then decide (unit = 0x90)
  else if kind = 4 then decide (unit = 0x91)
  else decide (kind = 5 ∧ unit = 0x92)

/-- TYPE 2 and 3 of check and output lists are reserved (R50). -/
def listTypesOk (s : Sched) (e : Entry) : Bool :=
  (upFrom e.chk0 e.nchk).all (fun i => decide ((tabW s.chk (2 * i)).fld 31 30 < 2)) &&
  (upFrom e.out0 e.nout).all (fun i => decide ((tabW s.out i).fld 31 30 < 2)) &&
  decide (e.chk0 + e.nchk ≤ 8192 ∧ e.out0 + e.nout ≤ 4096)

/-- The summary rings: output 1 of every flow entry (R186). -/
def summaryRings (s : Sched) : List RingRef :=
  s.stages.filterMap (fun st =>
    let e := s.entry st
    if e.kind = 0 ∧ (unitCls e.unit).1 = 5 then ((s.outputs e)[1]?).map OutRef.ring else none)

/-- Does an entry consume a summary ring (R197)? -/
def readsSummary (s : Sched) (e : Entry) : Bool :=
  let l := summaryRings s
  (s.checks e).any (fun c => !c.sync && l.contains c.ring)

/-- The stages whose output list writes the ring of a check, GOLD as `gold`. -/
def producers (s : Sched) (r : RingRef) (gold : Bool) : List Nat :=
  s.stages.filter (fun st => decide ((s.entry st).gold = gold) && (s.outputs (s.entry st)).any (fun o => !o.sync && decide (o.ring = r)))

/-- The rings that the pyramid entries write, with their levels: exported levels take the RIPE outputs in order (R131). -/
def levelRings (val : Nat → Word) (s : Sched) : List (RingRef × Nat) :=
  s.stages.flatMap (fun st =>
    let e := s.entry st
    if e.kind = 0 ∧ (unitCls e.unit).1 = 2 then
      (((s.outputs e).filter (fun o => !o.sync)).map OutRef.ring).zip (pyrExports (pyrSetOf val (Reg.PY_SET_CFG (e.arg % 16))))
    else [])

/-- R131: an entry that consumes level `l` of a pyramid has PERIOD_M1 = 2^l - 1 and PHASE = 2^l - 2. -/
def levelsOk (levels : List (RingRef × Nat)) (s : Sched) (e : Entry) : Bool :=
  (s.checks e).all (fun c => c.sync || levels.all (fun r =>
    decide (r.1 ≠ c.ring) || decide (e.period = 2 ^ r.2 ∧ e.phase = 2 ^ r.2 - 2)))

/-- The vector rings: output 0 of every flow entry, with its vector period (R186, R192). -/
def vectorRings (val : Nat → Word) (s : Sched) : List (RingRef × Nat) :=
  s.stages.filterMap (fun st =>
    let e := s.entry st
    if e.kind = 0 ∧ (unitCls e.unit).1 = 5 then
      ((s.outputs e)[0]?).map (fun o => (o.ring, 2 ^ (flowSetOf val (0x6000 + 0x20 * e.arg)).vps))
    else none)

/-- R192: an entry that consumes a vector ring has PERIOD_M1 = PHASE = VP - 1. -/
def vectorsOk (rings : List (RingRef × Nat)) (s : Sched) (e : Entry) : Bool :=
  (s.checks e).all (fun c => c.sync || rings.all (fun r =>
    decide (r.1 ≠ c.ring) || decide (e.period = r.2 ∧ e.phase = r.2 - 1)))

/-- R437, R439: the diverse producers of a COMPARE entry, and forms that the class of its channel admits. -/
def compareOk (val : Nat → Word) (s : Sched) (e : Entry) : Bool :=
  let cs := s.checks e
  let cfg := val (Reg.SAFE_WCH_CFG (e.arg % 16))
  formOk cfg (cfg.fld 28 27) && formOk cfg (cfg.fld 26 25) &&
  let side := fun (i : Nat) => match cs[i]? with
    | some c => (match producers s c.ring e.gold with
      | [] => (producers s c.ring false).head?
      | st :: _ => some st)
    | none => none
  decide (e.arg < 16 ∧ e.safety = true ∧ e.nchk = 2 ∧ e.nout = 1) && cs.all (fun c => !c.sync) &&
  (match side 0, side 1 with
   | some p, some q =>
     let a := s.entry p; let c := s.entry q
     decide (p ≠ q ∧ (a.kind = 1 ∨ c.kind = 1 ∨ a.unit ≠ c.unit)) &&
     ((decide (a.kind = 0 ∧ c.kind = 1)) || (decide (a.kind = 1 ∧ c.kind = 0)) ||
      (decide (a.kind = 0 ∧ c.kind = 0) && decide ((unitCls a.unit).1 ≠ (unitCls c.unit).1)))
   | _, _ => false) &&
  (e.gold || s.stages.any (fun st => decide ((s.entry st).kind = 3 ∧ (s.entry st).gold = true ∧ (s.entry st).arg = e.arg)))

/-- The RLn_CFG word that a SCHEDULE section gives a list; the register's layout: EN, CTX, LIMIT (R344). -/
def listWord (l : List (Nat × Word)) (n : Nat) : Word := tabW l n

/-- R332: the entry's list is enabled and of its context. -/
def taskOk (lists : List (Nat × Word)) (s : Sched) (st : Nat) (e : Entry) : Bool :=
  let w := listWord lists e.arg
  decide (e.arg < 64) && w.bit 31 && decide (w.fld 19 16 = e.ctx) && s.templ.any (fun t => t.1 = st)

/-- An entry of the schedule obeys its rules. -/
def entryOk (b : Block) (lag : Nat) (lists : List (Nat × Word)) (val : Nat → Word) (s : Sched) (st : Nat) : Bool :=
  let e := s.entry st
  let cs := unitCls e.unit
  kindUnitOk e.kind e.unit && listTypesOk s e &&
  decide (e.start < 1250 ∧ e.fin < 1250 ∧ e.offset ≤ 512 ∧ (e.span = 0 → e.start < e.fin) ∧ (e.gold = true ∨ e.phase < e.period)) &&
  !(bootUnmapped b cs.1 cs.2) &&
  (if e.kind = 4 then decide (e.offset = lag ∧ e.span = 0 ∧ e.arg < 16) else decide (e.offset + e.span < lag)) &&
  (if e.kind = 0 then pipeOk val s e cs.1
   else if e.kind = 1 then taskOk lists s st e
   else if e.kind = 3 then compareOk val s e
   else if e.kind = 5 then
     decide (e.nchk = 1) && (s.checks e).all (fun c => ripeAdj c 0 && (summaryRings s).contains c.ring)
   else true) && (!readsSummary s e || decide (e.period = 1024 ∧ e.phase = 1023))

/-- The tables are lists in rising order of stage, check and output, within their bounds (R49); each of the 2 048 entries of the ring
table holds at most one ring (R276). -/
def tablesOk (s : Sched) : Bool :=
  s.rings.all (fun r => decide (r.entry < 2048)) && (s.rings.map RingDef.entry).eraseDups.length == s.rings.length &&
  keysRising s.tbl && keysRising s.chk && keysRising s.out && s.tbl.all (fun e => decide (e.1 < 4 * 4096)) &&
  s.chk.all (fun e => decide (e.1 < 2 * 8192)) && s.out.all (fun e => decide (e.1 < 4096))

/-- R331: the lists that a SCHEDULE section sets exist, and hold 1 to 256 entries. -/
def listsOk (l : List (Nat × Word)) : Bool :=
  l.all (fun e => decide (e.1 < 64 ∧ 1 ≤ e.2.fld 8 0 ∧ e.2.fld 8 0 ≤ 256))

/-- The whole schedule: the header (R4, R64), the tables, every entry, at most one SLIP entry (R197), and patch-queue consumers
that serve every line (R227). `lists`: the settings of every list after the load. -/
def schedOk (b : Block) (d : SchedSec) (lists : List (Nat × Word)) (val : Nat → Word) (s : Sched) : Bool :=
  decide (64 ≤ d.lag ∧ d.lag ≤ 512 ∧ d.gold < 1024) && tablesOk s && listsOk d.lists &&
  s.stages.all (entryOk b d.lag lists val s) && s.stages.all (fun st => levelsOk (levelRings val s) s (s.entry st)) &&
  s.stages.all (fun st => vectorsOk (vectorRings val s) s (s.entry st)) &&
  decide ((s.stages.filter (fun st => decide ((s.entry st).kind = 5))).length ≤ 1) &&
  d.pqs.all (fun q => decide (q.1 < 16 ∧ (s.entry q.2.consumer).kind = 1 ∧ (s.entry q.2.consumer).period = 1))

/-! ## Envelopes (R423, R424) -/

/-- Is `n` inside a range (first, last)? -/
def inRange (r : Nat × Nat) (n : Nat) : Bool := decide (r.1 ≤ n ∧ n ≤ r.2)

/-- The mask of an envelope for a class of logical slots. -/
def envUnits (e : Envelope) (cls : Nat) : Nat :=
  if cls = 0 then e.unitsK else if cls = 1 then e.unitsW else if cls = 2 then e.unitsP else if cls = 3 then e.unitsT
  else if cls = 4 then e.unitsS else if cls = 5 then e.unitsL else if cls = 6 then e.unitsF else 0

/-- The mask of parameter sets of a class. -/
def envSets (e : Envelope) (cls : Nat) : Nat :=
  if cls = 1 then e.psetW else if cls = 2 then e.psetP else if cls = 3 then e.psetT else if cls = 4 then e.psetS
  else if cls = 5 then e.psetL else 0

/-- Do the flags of a ring place lie inside the range? -/
def ringIn (r : Nat × Nat) (x : RingRef) : Bool := inRange r x.base && inRange r (x.base + x.count * x.depth - 1)

/-- Does an entry keep to an envelope? Checks may name rings of another partition; SYNC checks, outputs, lists, result
rings, contexts and units may not. Entries on shared units keep to SH_CYC. -/
def entryIn (v : Envelope) (s : Sched) (st : Nat) : Bool :=
  let e := s.entry st
  let cs := unitCls e.unit
  inRange v.stage st && nbit v.ctx e.ctx &&
  (e.nchk == 0 || (inRange v.check e.chk0 && inRange v.check (e.chk0 + e.nchk - 1))) &&
  (e.nout == 0 || (inRange v.out e.out0 && inRange v.out (e.out0 + e.nout - 1))) &&
  (s.checks e).all (fun c => !c.sync || inRange v.cell (c.ring.base % 4096)) &&
  (s.outputs e).all (fun o => if o.sync then inRange v.cell (o.ring.base % 4096) else ringIn v.flag o.ring) &&
  (if cs.1 < 7 then nbit (envUnits v cs.1) cs.2 else decide (v.shCyc.1 ≤ e.start ∧ e.fin ≤ v.shCyc.2)) &&
  (if e.kind = 1 then nbit v.rl e.arg else if e.kind = 4 then nbit v.rr e.arg
   else if e.kind = 0 ∧ cs.1 ≤ 5 then nbit (envSets v cs.1) e.arg else true)

/-- R424: the schedule part of a partial keeps to the envelope. -/
def schedIn (b : Block) (v : Envelope) (d : SchedSec) : Bool :=
  d.sched.stages.all (entryIn v d.sched) &&
  d.sched.tbl.all (fun e => inRange v.stage (e.1 / 4)) && d.sched.chk.all (fun e => inRange v.check (e.1 / 2)) &&
  d.sched.out.all (fun e => inRange v.out e.1) &&
  d.sched.rings.all (fun r => inRange v.ring r.entry && ringIn v.flag ⟨r.first, r.count, r.depth⟩) &&
  d.sched.templ.all (fun t => inRange v.stage t.1) && d.sched.recs.all (fun r => inRange v.stage r.1) &&
  d.lists.all (fun l => nbit v.rl l.1 && nbit v.ctx (l.2.fld 19 16)) &&
  d.pqs.all (fun q => nbit v.pq q.1 && inRange v.stage q.2.consumer && ringIn v.flag ⟨q.2.base, q.2.count, q.2.depth⟩) &&
  decide (d.demand.1 ≤ v.demand.1 ∧ d.demand.2 ≤ v.demand.2 ∧ d.lag = (rg b Reg.SEQ_LAG).toNat ∧ d.gold = (rg b Reg.SEQ_GOLD).fld 9 0)

/-- R424: the SYNC part. -/
def syncIn (v : Envelope) (y : SyncSec) : Bool :=
  y.cells.all (fun c => inRange v.cell c.1 && nbit v.ctx c.2.owner) &&
  y.vt.all (fun e => nbit v.ctx (e.1 / 1024) && (!e.2.bit 31 || e.2.bit 30 || inRange v.cell (e.2.fld 11 0))) &&
  y.rt.all (fun r => nbit v.ctx r.1)

/-- R424: a PARAM offset of a partial. -/
def paramIn (v : Envelope) (a : Nat) : Bool :=
  match setOfReg a, laneOfReg a, famIdx a 0xA500 0x10 16 0 with
  | some (k, o), _, _ =>
    nbit (envSets v (if k.base = 0x4000 then 1 else if k.base = 0x4800 then 2 else if k.base = 0x5000 then 3
      else if k.base = 0x5800 then 4 else 5)) ((o - k.base) / k.step)
  | none, some n, _ => nbit v.unitsF n
  | none, none, some q => nbit v.pq q
  | _, _, _ => false

/-- R424: a CALIB section of a partial names a lane of UNITS or a mesh bank. -/
def calibIn (v : Envelope) : CalibSec → Bool
  | .lane n _ _ => nbit v.unitsF n
  | .mesh _ _ => true

/-- Do two ranges meet? -/
def spansMeet (a c : Nat × Nat) : Bool := decide (a.1 ≤ c.2 ∧ c.1 ≤ a.2 ∧ a.1 ≤ a.2 ∧ c.1 ≤ c.2)

/-- R423: two envelopes meet in some field. -/
def envMeet (a c : Envelope) : Bool :=
  spansMeet a.stage c.stage || spansMeet a.check c.check || spansMeet a.out c.out || spansMeet a.ring c.ring ||
  spansMeet a.flag c.flag || spansMeet a.cell c.cell ||
  decide ((a.ctx &&& c.ctx) ≠ 0 ∨ (a.rl &&& c.rl) ≠ 0 ∨ (a.pq &&& c.pq) ≠ 0 ∨ (a.rr &&& c.rr) ≠ 0) ||
  (upFrom 0 7).any (fun k => decide ((envUnits a k &&& envUnits c k) ≠ 0)) ||
  (upFrom 1 5).any (fun k => decide ((envSets a k &&& envSets c k) ≠ 0))

/-- Some two envelopes overlap. -/
def envsMeet : List (Nat × Envelope) → Bool
  | [] => false
  | e :: l => l.any (fun f => envMeet e.2 f.2) || envsMeet l

/-- R424: a ring of the partial shares a flag with a resident ring of the partition. -/
def ringsShare (b : Block) (v : Envelope) (d : SchedSec) : Bool :=
  (b.sched.rings.filter (fun r => inRange v.flag r.first)).any (fun r =>
    d.sched.rings.any (fun q => rangesMeet r.first (r.count * r.depth) q.first (q.count * q.depth)))

/-! ## Checks 7 to 11 -/

/-- The schedule of a partial merged into the loaded one: the partition's part replaced (R426). -/
def mergeSched (o : Sched) (v : Envelope) (n : Sched) : Sched :=
  let put := fun (old new : List (Nat × Word)) (r : Nat × Nat) (per : Nat) =>
    old.filter (fun e => decide (e.1 / per < r.1)) ++ new ++ old.filter (fun e => decide (r.1 ≤ e.1 / per ∧ r.2 < e.1 / per))
  { tbl := put o.tbl n.tbl v.stage 4,
    chk := put o.chk n.chk v.check 2,
    out := put o.out n.out v.out 1,
    rings := o.rings.filter (fun r => !inRange v.flag r.first) ++ n.rings,
    templ := o.templ.filter (fun t => !inRange v.stage t.1) ++ n.templ,
    recs := o.recs.filter (fun t => !inRange v.stage t.1) ++ n.recs }

/-- The list settings after a partial. -/
def mergeLists (b : Block) (v : Envelope) (l : List (Nat × Word)) : List (Nat × Word) :=
  (upFrom 0 64).map (fun n => (n, if nbit v.rl n then tabW l n else rg b (Reg.DSP_RL_CFG n)))

/-- Is the offset one that an ARB section may set (R415)? -/
def isArbReg (a : Nat) : Bool :=
  decide (a = Reg.STRM_ARB ∨ a = Reg.LNK_VC_WHEEL) || (upFrom 0 16).any (fun r => decide (a = Reg.HOST_RR_CFG r)) ||
  decide (a = Reg.STRM_WHEEL)

/-- Is the offset a glume register? -/
def isGlumeReg (a : Nat) : Bool := decide (0x8000 ≤ a ∧ a < 0xA400 ∧ 0x80 ≤ (a - 0x8000) % 0x100 ∧ (a - 0x8000) % 0x100 < 0xC0)

/-- R374: at the head every ring's largest payload fits the RSIZE that the load leaves in force. -/
def payloadsFit (b : Block) (y : SystemSec) (arb : List (Nat × Word)) : Bool :=
  decide (devOf b ≠ 0) || y.largest.all (fun l =>
    let w := ((arb.find? (fun e => e.1 = Reg.HOST_RR_CFG l.1)).map Prod.snd).getD (rg b (Reg.HOST_RR_CFG l.1))
    decide (l.2 + 32 ≤ w.fld 20 12 * 32))

/-- Has the content the structured part that a section of the table stands for (log entry 12), and none that no section stands for? -/
def partsThere (c : Content) (l : List SecEnt) : Option Nat :=
  let need := fun (ty : Nat) (has : Bool) => if decide (secCount l ty ≠ 0) = has then none else some (secIdx l ty 0)
  let count := fun (ty n : Nat) => if secCount l ty = n then none else some (secIdx l ty 0)
  let only := fun (ty : Nat) (has : Bool) => if has = true ∧ secCount l ty = 0 then some 0xFF else none
  [need 1 c.system.isSome, need 2 (!c.envs.isEmpty), need 3 c.sched.isSome, need 4 c.sync.isSome,
   count 5 c.fw.length, only 6 (!c.param.isEmpty),
   count 7 c.calib.length, only 8 (!c.glume.isEmpty), only 9 (!c.arb.isEmpty), need 10 c.gold.isSome].findSome? id

/-- The SYSTEM section: dimensions of 1 to 8, group masks, panicles and rings that exist (R387, R403, R406, R374). -/
def systemOk (y : SystemSec) : Bool :=
  decide (1 ≤ y.xdim ∧ y.xdim ≤ 8 ∧ 1 ≤ y.ydim ∧ y.ydim ≤ 8) && y.groups.all (fun g => decide (g.1 < 8)) &&
  y.pans.all (fun p => decide (p.1 < 16 ∧ p.2.root < 64 ∧ p.2.slot < 32 ∧ p.2.win < 4 ∧ p.2.cell < 4096)) &&
  y.largest.all (fun l => decide (l.1 < 16))

/-- The PARTITION section: up to eight partitions, each once (R423). -/
def partsOk (l : List (Nat × Envelope)) : Bool := l.all (fun e => decide (e.1 < 8)) && (l.map Prod.fst).eraseDups.length == l.length

/-- The SYNC section: cells, contexts and virtual IDs that exist, cells with fields of their kind (R308, R313). -/
def syncOk (y : SyncSec) : Bool :=
  y.cells.all (fun c => decide (c.1 < 4096 ∧ c.2.owner < 16) && cellOk c.2) && y.vt.all (fun e => decide (e.1 < 16384)) &&
  y.rt.all (fun r => decide (r.1 < 16))

/-- R437: every COMPARE entry has a context of the safety partition (R423). -/
def compareCtxOk (envs : List (Nat × Envelope)) (s : Sched) : Bool :=
  let safe := ((envs.find? (fun e => nbit e.2.ctx 0)).map (fun e => e.2.ctx)).getD 1
  s.stages.all (fun st => decide ((s.entry st).kind ≠ 3) || nbit safe (s.entry st).ctx)

/-- A register as the PARAM section of a bit-stream leaves it. -/
def paramVal (b : Block) (c : Content) (a : Nat) : Word :=
  ((c.param.reverse.find? (fun p => p.1 = a)).map Prod.snd).getD (rg b a)

/-- 7 CONTENT: the section that fails. -/
def contentBad (b : Block) (o : List Byte) (c : Content) : Option Nat :=
  let l := oSecs o
  match c.bad with
  | some i => some i
  | none => match partsThere c l with
    | some i => some i
    | none =>
      let v := b.cfg.envs.find? (fun e => e.1 = oPart o)
      let sOk := match c.sched with
        | none => true
        | some d =>
          if oKind o = 0 then schedOk b d d.lists (paramVal b c) d.sched &&
            d.sched.stages.all (fun st => match c.envs.find? (fun e => inRange e.2.stage st) with
              | some e => entryIn e.2 d.sched st
              | none => false) &&
            compareCtxOk c.envs d.sched
          else match v with
            | some e => let m := mergeSched b.sched e.2 d.sched
                        let ls := mergeLists b e.2 d.lists
                        schedOk b d ls (paramVal b c) m && compareCtxOk b.cfg.envs m
            | none => true
      if c.system.any (fun y => !systemOk y) then some (secIdx l 1 0)
      else if !partsOk c.envs then some (secIdx l 2 0)
      else if !sOk then some (secIdx l 3 0)
      else if c.sync.any (fun y => !syncOk y) then some (secIdx l 4 0)
      else if c.param.any (fun p => !isSh p.1 || !isReg p.1) then some (secIdx l 6 0)
      else if c.glume.any (fun p => !isGlumeReg p.1) then some (secIdx l 8 0)
      else if c.arb.any (fun p => !isArbReg p.1) then some (secIdx l 9 0)
      else match c.system with
        | some y => if payloadsFit b y c.arb then none else some (secIdx l 1 0)
        | none => none

/-- 8 ENVELOPE (R424): a partial only. -/
def envelopeBad (b : Block) (o : List Byte) (c : Content) : Option Nat :=
  if oKind o ≠ 1 then none
  else
    let l := oSecs o
    match b.cfg.envs.find? (fun e => e.1 = oPart o) with
    | none => some 0xFF
    | some (_, v) =>
      if c.sched.any (fun d => !schedIn b v d) then some (secIdx l 3 0)
      else if c.sync.any (fun y => !syncIn v y) then some (secIdx l 4 0)
      else if c.fw.any (fun f => decide (f.mask &&& v.unitsK ≠ f.mask)) then some (secIdx l 5 0)
      else if c.param.any (fun p => !paramIn v p.1) then some (secIdx l 6 0)
      else if c.calib.any (fun x => !calibIn v x) then some (secIdx l 7 0)
      else if c.glume.any (fun p => !nbit v.unitsK (slotOfT b ((p.1 - 0x8000) / 0x100))) then some (secIdx l 8 0)
      else none

/-- Is the bank of a CALIB section locked (R112, R128)? -/
def calibLocked (b : Block) : CalibSec → Bool
  | .lane n sel _ => bankLocked b n (bitsOf sel 20 20)
  | .mesh bank _ => meshLocked b bank

/-- 9 LOCKED. -/
def lockedBad (b : Block) (o : List Byte) (c : Content) : Option Nat :=
  ((upFrom 0 c.calib.length).find? (fun i => (c.calib[i]?).any (calibLocked b))).map (secIdx (oSecs o) 7)

/-- STATE of a partition: 0 ABSENT, 1 RESIDENT, 2 READY, 3 DRAINING. -/
def partState (b : Block) (p : Nat) : Nat := (rg b (Reg.CFG_PART_STAT p)).fld 31 30

/-- 10 BUSY (R416, R422). -/
def busyBad (b : Block) (o : List Byte) : Bool :=
  if oKind o = 0 then (rg b Reg.TB_CTRL).bit 0 || (rg b Reg.SEQ_CTRL).bit 0
  else decide (oKind o = 1 ∧ 2 ≤ partState b (oPart o))

/-- 11 OVERLAP (R423, R424). -/
def overlapBad (b : Block) (o : List Byte) (c : Content) : Option Nat :=
  if oKind o = 0 then (if envsMeet c.envs then some (secIdx (oSecs o) 2 0) else none)
  else match b.cfg.envs.find? (fun e => e.1 = oPart o), c.sched with
    | some (_, v), some d => if ringsShare b v d then some (secIdx (oSecs o) 3 0) else none
    | _, _ => none

/-- Checks 7 to 11 of a base or partial; a KEY record has only its own content rule. -/
def streamBad (b : Block) (o : List Byte) (c : Content) : Option (Nat × Nat) :=
  if oKind o = 2 then
    (if keyRecOk b o ((oSection o 0x10).getD []) then none else some (7, secIdx (oSecs o) 0x10 0))
  else match contentBad b o c with
    | some s => some (7, s)
    | none => match envelopeBad b o c with
      | some s => some (8, s)
      | none => match lockedBad b o c with
        | some s => some (9, s)
        | none => if busyBad b o then some (10, 0xFF) else (overlapBad b o c).map (fun s => (11, s))

end Sys2Proof.Machine
end

