-- ==== Sys2Proof/Machine/CfgApply.lean ====
section
/-! DEFINITION. What an accepted bit-stream does (spec/18_configuration_bitstream.md R416 to R427): images, base loads, the
cutover of a partial, and the release of an old schedule bank. -/

namespace Sys2Proof.Machine

/-! ## Firmware images (R218, R417, R425) -/

/-- A byte store with the 64 KiB block `k` replaced. -/
def putBlock (m : List Host.Cell) (k : Nat) (cells : List Host.Cell) : List Host.Cell :=
  m.filter (fun e => decide (e.1 < k * 2 ^ 16)) ++ cells ++ m.filter (fun e => decide ((k + 1) * 2 ^ 16 ≤ e.1))

/-- The cells of block `j` of a store, as cells of block `k`. -/
def moveBlock (m : List Host.Cell) (j k : Nat) : List Host.Cell :=
  (m.filter (fun e => decide (e.1 / 2 ^ 16 = j))).map (fun e => (k * 2 ^ 16 + e.1 % 2 ^ 16, e.2))

/-- Keep the image of a logical slot in the staging store. -/
def keepImage (slot : Nat) (f : FwSec) (b : Block) : Block :=
  { b with mems := { b.mems with image := wrBytes (putBlock b.mems.image slot []) (slot * 2 ^ 16) (f.image.take (2 ^ 16)) },
           cfg := { b.cfg with imgs := spPut (fun _ => (0, 0#32)) b.cfg.imgs slot (min (2 ^ 16) f.image.length, f.ver) } }

/-- Copy the image of a logical slot into the instruction memory of tiller `t`; TLR_t_FW_VER receives its version. -/
def loadImage (b : Block) (slot t : Nat) : Block :=
  let i := spGet (fun _ => (0, 0#32)) b.cfg.imgs slot
  let b := { b with mems := { b.mems with imem := putBlock b.mems.imem t (moveBlock b.mems.image slot t) } }
  setRg (setTl b t { tl b t with imgLen := i.1 }) (Reg.TLR_FW_VER t) i.2

/-- Keep the images of the FIRMWARE sections. -/
def keepImages (fw : List FwSec) (b : Block) : Block :=
  fw.foldl (fun b f => (upFrom 0 32).foldl (fun b s => if nbit f.mask s then keepImage s f b else b) b) b

/-- The slots that FIRMWARE sections name. -/
def fwSlots (fw : List FwSec) : List Nat := (upFrom 0 32).filter (fun s => fw.any (fun f => nbit f.mask s))

/-- R425: a slot is marked for a new image; a tiller without a current task is reloaded at once. -/
def markImage (b : Block) (s : Nat) : Block :=
  let b := { b with cfg := { b.cfg with marked := b.cfg.marked.filter (· ≠ s) ++ [s] } }
  match physOf b 0 s with
  | some t => if (tl b t).task.isNone then startReload b t else b
  | none => b

/-- FIRMWARE_RELOAD_DONE: the reload of tiller `t` ends, 1 024 cycles after it began. -/
def reloadDone (t : Nat) (b : Block) : Block :=
  if b.cfg.reload.any (fun e => decide (e.1 = t ∧ e.2 + 1024 ≤ b.pwr.ccy)) then
    let b := { b with cfg := { b.cfg with reload := b.cfg.reload.filter (fun e => e.1 ≠ t) } }
    if slotOfT b t < 32 then loadImage b (slotOfT b t) t else b
  else b

/-! ## Parts that base and partial share -/

/-- A PARAM pair writes the SH fields of its register alone (R415). -/
def applyParam (l : List (Nat × Word)) (b : Block) : Block :=
  l.foldl (fun b p =>
    let m := wd (rowOf p.1).sh
    settingWrite p.1 ((p.2 &&& m) ||| (rg b p.1 &&& ~~~ m)) b) b

/-- Apply SH settings as host writes (R425); in a base, larger offsets never depend on smaller ones. -/
def applyPairs (l : List (Nat × Word)) (b : Block) : Block := l.foldl (fun b p => settingWrite p.1 p.2 b) b

/-- A CALIB section: one table load (R112, R128). -/
def applyCalib (b : Block) : CalibSec → Block
  | .lane n sel data =>
    ((upFrom 0 data.length).zip data).foldl (fun b e =>
      match tblSel (wd (sel / 65536 * 65536 + e.1)) n with
      | some s => calPut b s.1 (e.2 &&& s.2)
      | none => b) b
  | .mesh bank data => ((upFrom 0 data.length).zip data).foldl (fun b e => meshPut b (bank % 2 * 65536 + e.1 % 65536) e.2) b

/-- A SYNC section allocates a cell (R311): it becomes LIVE. One that is LIVE is not allocated (DESIGN CHOICE, log entry 66). -/
def allocCell (b : Block) (c : Nat × Cell) : Block :=
  if (cell b (c.1 % 4096)).state = .live then b else setCell b (c.1 % 4096) { c.2 with state := .live }

/-- The SYNC section allocates its cells and loads its tables (R308, R313, R323). Tables of the contexts in `mask` are
replaced. -/
def applySync (y : SyncSec) (mask : Nat) (b : Block) : Block :=
  let b := y.cells.foldl allocCell b
  let vt := y.vt.foldl (fun m e => spPut (fun _ => 0#32) m e.1 e.2)
    (b.sync.vt.filter (fun e => !nbit mask (e.1 / 1024)))
  let b := { b with sync := { b.sync with vt := vt } }
  (upFrom 0 16).foldl (fun b c =>
    if nbit mask c then
      let v := (y.rt.find? (fun r => r.1 = c)).elim false Prod.snd
      setF b (Reg.SYNC_CTX_CFG c) 31 31 (b2n v)
    else b) b

/-- The list settings of a SCHEDULE section (R331). -/
def applyLists (l : List (Nat × Word)) (b : Block) : Block :=
  l.foldl (fun b e => setRg b (Reg.DSP_RL_CFG e.1) (e.2 &&& 0x800F01FF#32)) b

/-- How many different numbers does a rising list hold? -/
def runsOf : List Nat → Nat
  | [] => 0
  | [_] => 1
  | x :: y :: l => (if x = y then 0 else 1) + runsOf (y :: l)

/-- Counts of what is loaded, valid or not: SEQ_TBL_INFO and GRN_RT_INFO. -/
def tableInfo (b : Block) : Block :=
  let n := runsOf (b.sched.tbl.map (fun (e : Nat × Word) => e.1 / 4))
  let c := runsOf (b.sched.chk.map (fun (e : Nat × Word) => e.1 / 2))
  setRg (setRg b Reg.SEQ_TBL_INFO (wd (c * 2 ^ 16 + n))) Reg.GRN_RT_INFO (wd b.sched.rings.length)

/-! ## Base loads (R422) -/

/-- The SYSTEM content of link `l` changes (R422, R415): the dimensions, SYS_ID, group masks, panicles and largest payloads belong to
every link, a route to the links that it names (DESIGN CHOICE, log entry 29). Before the first load everything is new. -/
def systemChanged (y : SystemSec) (b : Block) (l : Nat) : Bool :=
  let named := fun (r : List (Nat × (Nat × Nat))) => r.filter (fun e => decide (e.2.1 = l ∨ e.2.2 = l))
  decide ((rg b Reg.LNK_SYS).fld 31 30 = 0 ∨ xDim b ≠ y.xdim ∨ yDim b ≠ y.ydim ∨ rg b Reg.LNK_SYS_ID ≠ y.sysId ∨
    b.links.pans ≠ y.pans ∨ b.links.largest ≠ y.largest ∨ named b.links.route ≠ named y.route) ||
  y.groups.any (fun g => decide (rg b (Reg.LNK_GM_LO g.1) ≠ wd g.2 ∨ rg b (Reg.LNK_GM_HI g.1) ≠ wd (g.2 / 2 ^ 32)))

/-- The SYSTEM section. -/
def applySystem (y : SystemSec) (b : Block) : Block :=
  let changed := (upFrom 0 4).map (systemChanged y b)
  let b := setF (setF b Reg.LNK_SYS 8 6 (y.xdim - 1)) Reg.LNK_SYS 11 9 (y.ydim - 1)
  let b := setRg b Reg.LNK_SYS_ID y.sysId
  let b := { b with links := { b.links with route := y.route, pans := y.pans, largest := y.largest, pn := [], pnq := [] } }
  let b := (upFrom 0 16).foldl (fun b p => setF b (Reg.LNK_PN_STAT p) 31 31 0) b
  let b := y.groups.foldl (fun b g =>
    setGen (setGen (setRg (setRg b (Reg.LNK_GM_LO g.1) (wd g.2)) (Reg.LNK_GM_HI g.1) (wd (g.2 / 2 ^ 32)))
      (Reg.LNK_GM_LO g.1) (wd g.2)) (Reg.LNK_GM_HI g.1) (wd (g.2 / 2 ^ 32))) b
  linksLoaded (fun l => (changed[l]?).getD false) b

/-- The PARTITION section: every partition takes the new content. -/
def applyEnvs (l : List (Nat × Envelope)) (b : Block) : Block :=
  let b := { b with cfg := { b.cfg with envs := l, old := [], ready := none, commit := none, partHash := [] } }
  (upFrom 0 8).foldl (fun b p =>
    let w := (l.find? (fun e => e.1 = p)).elim 0#32 (fun e => wd (2 ^ 30 + e.2.ctx % 2 ^ 16))
    setRg (setRg b (Reg.CFG_PART_STAT p) w) (Reg.CFG_PART_VER p) 0#32) b

/-- The SCHEDULE section. -/
def applySched (d : SchedSec) (b : Block) : Block :=
  let b := { b with sched := d.sched, pqs := [], seq := { b.seq with invs := [], missed := [], unticked := [], skipped := [], row := none, opened := [] } }
  let b := d.pqs.foldl (fun b q => setPq b q.1 { q.2 with lines := [], last := none, bound := true }) b
  let b := (upFrom 0 64).foldl (fun b n => setRlist (setRg b (Reg.DSP_RL_CFG n) 0#32) n []) b
  let b := applyLists d.lists b
  let b := setRg (setRg b Reg.SEQ_LAG (wd d.lag)) Reg.SEQ_GOLD (wd (d.gold % 1024))
  tableInfo (setF b Reg.SEQ_STATUS 1 0 1)

/-- Every sync cell becomes FREE. -/
def freeCells (b : Block) : Block :=
  { b with sync := { b.sync with cells := [], vt := [] } }

/-- A base bit-stream takes effect. -/
def applyBase (o : List Byte) (c : Content) (lft : Option Nat) (b : Block) : Block :=
  let b := freeCells b
  let b := c.sync.elim b (fun y => applySync y 0xFFFF b)
  let b := c.sched.elim b (fun d => applySched d b)
  let b := applyEnvs c.envs b
  let b := c.system.elim b (fun y => applySystem y b)
  let b := keepImages c.fw b
  let b := (fwSlots c.fw).foldl (fun b s =>
    match physOf b 0 s with
    | some t => if (tl b t).task.isNone then loadImage b s t else markImage b s
    | none => b) b
  let b := c.calib.foldl applyCalib b
  let b := applyPairs c.arb (applyPairs c.glume (applyParam c.param b))
  let b := { setRg b Reg.CFG_BASE_VER (oVersion o) with cfg := { b.cfg with gold := c.gold, baseHash := sha512 o } }
  nogold (lftResult lft b)

/-! ## Cutover (R425, R426) -/

/-- Tasks of an old invocation that a list still holds are discarded; its outputs are marked in cycle 2. -/
def discardTask (b : Block) (p : Posted) : Block :=
  match findInv b p.stage p.line with
  | none => bump b Reg.CFG_CNT_DISCARD 1
  | some v =>
    if v.done then bump b Reg.CFG_CNT_DISCARD 1
    else
      let b := putOff (bump b Reg.CFG_CNT_DISCARD 1)
        (chaffWork b (schedFor b p.stage p.line) p.stage p.line (b.pwr.ccy + 2) v.golden (invSuspect b v) 7)
      updInv b p.stage p.line (fun v => { v with done := true, mark := some 7 })

/-- Step 3: every current task of the contexts in `mask` ends with CAUSE FENCED. -/
def endCtxTasks (mask : Nat) (b : Block) : Block :=
  (b.tlr.map Prod.fst).foldl (fun b t =>
    match curCtx b t with
    | some c => if nbit mask c then endTask b t 7 else b
    | none => b) b

/-- Step 4: the partition's lists lose their tasks. -/
def emptyLists (mask : Nat) (b : Block) : Block :=
  (upFrom 0 64).foldl (fun b n =>
    if nbit mask n then
      let l := rlist b n
      if l = [] then b else setRlist (l.foldl discardTask b) n []
    else b) b

/-- Step 6: the old bank, with only the partition's entries, released in row s + X (R427). -/
def oldBank (b : Block) (p : Nat) (v : Envelope) (s : Nat) : OldBank :=
  let sc := { b.sched with tbl := b.sched.tbl.filter (fun e => inRange v.stage (e.1 / 4)),
                           rings := b.sched.rings.filter (fun r => inRange v.flag r.first) }
  let x := sc.stages.foldl (fun m st => max m ((sc.entry st).offset + (sc.entry st).span)) 0
  { part := p, sched := sc, s := s, rel := lineAdd s (x + 1) }

/-- Old invocations that run on vision units will carry CAUSE FENCED. -/
def fenceRunning (b : Block) (v : Envelope) : Block :=
  { b with seq := { b.seq with invs := b.seq.invs.map (fun i =>
      if inRange v.stage i.stage = true ∧ i.done = false ∧ i.chaff = false ∧ (invEntry b i).kind = 0 ∧
          1 ≤ (unitCls (invEntry b i).unit).1 ∧ (unitCls (invEntry b i).unit).1 < 6 then
        { i with mark := some 7 } else i) } }

/-- Steps 1 to 6 of R426: the partition is replaced from line `s` on. -/
def replacePart (p : Nat) (v : Envelope) (d : SchedSec) (y : Option SyncSec) (s : Nat) (b : Block) : Block :=
  let b := (upFrom 0 16).foldl (fun b c => if nbit v.ctx c then orphanCells (raise b 0x82 c) c else b) b
  let b := y.elim b (fun y => applySync y v.ctx b)
  let b := emptyLists v.rl (endCtxTasks v.ctx b)
  let b := { b with pqs := b.pqs.map (fun q => if nbit v.pq q.1 then (q.1, { q.2 with lines := [] }) else q) }
  let b := fenceRunning b v
  let ob := oldBank b p v s
  let b := { b with cfg := { b.cfg with old := b.cfg.old ++ [ob] }, sched := mergeSched b.sched v d.sched }
  let b := (upFrom 0 64).foldl (fun b n => if nbit v.rl n then setRg b (Reg.DSP_RL_CFG n) 0#32 else b) b
  let b := applyLists d.lists b
  let b := (upFrom 0 16).foldl (fun b q =>
    if nbit v.pq q then
      match d.pqs.find? (fun e => e.1 = q) with
      | some e => setPq b q { e.2 with lines := [], last := (pqOf b q).last, bound := true }
      | none => setPq b q { pqOf b q with bound := false }
    else b) b
  tableInfo b

/-- Set the loader's STATE. -/
def cfgState (b : Block) (st : Nat) : Block := setF b Reg.CFG_STATUS 31 28 st

/-- STATE leaves READY; an attestation under way goes on. -/
def readyLeft (b : Block) : Block := if (rg b Reg.CFG_STATUS).fld 31 28 = 4 then cfgState b 0 else b

/-- A READY partial takes effect at the boundary tick whose first line is `s`. -/
def cutNow (r : ReadyPart) (s : Nat) (b : Block) : Block :=
  let b := match b.cfg.envs.find? (fun e => e.1 = r.part), r.con.sched with
    | some (_, v), some d => replacePart r.part v d r.con.sync s b
    | _, _ => b
  let b := applyPairs r.con.glume (applyParam r.con.param b)
  let b := (fwSlots r.con.fw).foldl markImage (keepImages r.con.fw b)
  let b := setRg b (Reg.CFG_PART_VER r.part) r.ver
  let b := setF b (Reg.CFG_PART_STAT r.part) 31 30 (if r.con.sched.isSome then 3 else 1)
  let b := { b with cfg := { b.cfg with ready := none, commit := none,
                                        partHash := spPut (fun _ => []) b.cfg.partHash r.part r.hash } }
  raise (setF (readyLeft b) Reg.CFG_STATUS 3 0 0) 0xAA r.part

/-- R425: at a boundary tick of line `s`, is it the cutover tick? -/
def cutover (s : Nat) (b : Block) : Block :=
  match b.cfg.ready, b.cfg.commit with
  | some r, some (target, c) =>
    let due := match target with
      | none => true
      | some t => decide (subMod 32 (sheafOf s) t < 2 ^ 31)
    if due && decide (c + 2048 ≤ b.pwr.ccy) then cutNow r s b else b
  | _, _ => b

/-- R427: old banks whose row `j` has come are released: their rings' flags clear, the partition is RESIDENT. -/
def releaseOld (j : Nat) (b : Block) : Block :=
  (b.cfg.old.filter (fun o => lineGe j o.rel)).foldl (fun b o =>
    let b := o.sched.rings.foldl (fun b r => setFlags b r.first (r.count * r.depth) false) b
    setF { b with cfg := { b.cfg with old := b.cfg.old.filter (fun q => q ≠ o) } } (Reg.CFG_PART_STAT o.part) 31 30 1) b

end Sys2Proof.Machine
end

