-- ==== Sys2Proof/Machine/Cfg.lean ====
section
/-! DEFINITION. The loader's commands and the spare logic (spec/18_configuration_bitstream.md R416 to R432): LOAD, COMMIT,
ABANDON, ATTEST; fences, swaps, readmissions and the mapping of spares. -/

namespace Sys2Proof.Machine

/-! ## Loading over the host port (R416) -/

/-- First byte of the staging region (R417). -/
abbrev stagingBase : Nat := 0x3F8000000

/-- STATE of the loader. -/
def cfgSt (b : Block) : Nat := (rg b Reg.CFG_STATUS).fld 31 28

/-- An ignored command. -/
def cfgErr (b : Block) : Block := orRg b Reg.CFG_STATUS 0x100

/-- A rejection. -/
def cfgReject (b : Block) (reason section_ : Nat) : Block :=
  let b := setF (setF (cfgState b 0) Reg.CFG_STATUS 27 24 reason) Reg.CFG_STATUS 23 16 section_
  raise (bump b Reg.CFG_CNT_REJECT 1) 0xA8 (section_ * 16 + reason)

/-- CFG_LOAD: the object is copied to the staging region (state COPY). A unit of it that is poisoned, or that nothing gives, makes it one
that is rejected with SIGNATURE (R485; log entry 29). -/
def cfgLoad (b : Block) : Block :=
  if cfgSt b ≠ 0 then cfgErr b
  else
    let a := (rg b Reg.CFG_LOAD_HI).fld 1 0 * 2 ^ 32 + (rg b Reg.CFG_LOAD_LO).toNat
    let n := (rg b Reg.CFG_LOAD_LEN).toNat
    let k := min n (2 ^ 27)
    let r := memSpan b a k []
    let b := gdStore r.1 stagingBase (gdRd r.1 a k)
    { cfgState b 1 with cfg := { b.cfg with
        loading := some ⟨a, n, r.2 || spanRefuses b a k || decide (2 ^ 34 < a + k), none⟩ } }

/-- An accepted object is written. -/
def loadAccept (o : List Byte) (con : Content) (lft : Option Nat) (b : Block) : Block :=
  if oKind o = 2 then keyApply (cfgState b 0) o ((oSection o 0x10).getD [])
  else if oKind o = 0 then applyBase o con lft (cfgState b 0)
  else
    let p := oPart o
    let b := con.calib.foldl applyCalib b
    let b := setF (setF (cfgState b 4) Reg.CFG_STATUS 3 0 p) (Reg.CFG_PART_STAT p) 31 30 2
    raise { b with cfg := { b.cfg with ready := some ⟨p, oVersion o, con, sha512 o⟩, commit := none } } 0xA9 p

/-- Account for the units in error that the loader met, of the object and of its copy, those of the object that were poisoned when it
was copied apart. The second part: one could not be read. -/
def loadRead (b : Block) (j : LoadJob) (errs : List (Nat × EccStat)) : Block × Bool :=
  let k := min j.len (2 ^ 27)
  let src := (unitsOf j.addr k errs []).filter (fun u => !b.mem.poison.contains u)
  let r := src.foldl (fun (r : Block × Bool) u => let q := memUnit r.1 (64 * u) errs; (q.1, r.2 || q.2)) (b, j.bad)
  let q := memSpan r.1 stagingBase k errs
  (q.1, r.2 || q.2)

/-- The checks in table order (R416): rejected, or ready to be written, which is the last argument's. -/
def loadCheck (b : Block) (j : LoadJob) (con : Content) (errs : List (Nat × EccStat)) (go : List Byte → Block → Block) : Block :=
  let r := loadRead { b with cfg := { b.cfg with loading := none } } j errs
  let o := gdRd r.1 stagingBase j.len
  match objectBad r.1 o j.len [0, 1, 2] r.2 with
  | some (why, sec) => cfgReject r.1 why sec
  | none => match streamBad r.1 o con with
    | some (why, sec) => cfgReject r.1 why sec
    | none => go o r.1

/-- The writes begin (state WRITE); of a base the latent-fault test runs meanwhile (R453). -/
def loadWrite (j : LoadJob) (con : Content) (o : List Byte) (b : Block) : Block :=
  let b := cfgState { b with cfg := { b.cfg with loading := some { j with con := some con } } } 3
  if oKind o = 0 then lftRunning b else b

/-- LOAD_DONE: the checks in table order, then the writes. `step` says how far the loader has come: verifying, writing, at its
end. -/
def loadDone (con : Content) (errs : List (Nat × EccStat)) (step : LoadStep) (b : Block) : Block :=
  match b.cfg.loading with
  | none => b
  | some j =>
    match step, j.con with
    | .verify, _ => if cfgSt b = 1 then cfgState b 2 else b
    | .write, none => loadCheck b j con errs (loadWrite j con)
    | .write, some _ => b
    | .ended lft, none => loadCheck b j con errs (fun o b => loadAccept o con lft b)
    | .ended lft, some con =>
      loadAccept (gdRd b stagingBase j.len) con lft { b with cfg := { b.cfg with loading := none } }

/-- CFG_COMMIT and CFG_COMMIT_NEXT name the cutover tick of the READY partial (R425); without one they do nothing. -/
def commitAt (target : Option Nat) (b : Block) : Block :=
  if b.cfg.ready.isSome then { b with cfg := { b.cfg with commit := some (target, b.pwr.ccy) } } else b

def cfgCommit (b : Block) : Block := commitAt (some (rg b Reg.CFG_COMMIT).toNat) b
def cfgCommitNext (b : Block) : Block := commitAt none b

/-- CFG_ABANDON discards the READY partial. -/
def cfgAbandon (b : Block) : Block :=
  match b.cfg.ready with
  | none => b
  | some r =>
    let b := setF (setF (readyLeft b) Reg.CFG_STATUS 3 0 0) (Reg.CFG_PART_STAT r.part) 31 30 1
    { b with cfg := { b.cfg with ready := none, commit := none } }

/-! ## Attestation (R419) -/

/-- Address of the report. -/
def reportAt (b : Block) : Nat := (rg b Reg.CFG_REPORT_HI).fld 1 0 * 2 ^ 32 + (rg b Reg.CFG_REPORT_LO).toNat

/-- `n` bytes, filled with zeros. -/
def padTo (n : Nat) (l : List Byte) : List Byte := (l ++ List.replicate n 0#8).take n

/-- CFG_ATTEST: the nonce is read; of a region that refuses the read it is zeros (DESIGN CHOICE, log entry 29). -/
def cfgAttest (b : Block) : Block :=
  if cfgSt b = 0 ∨ cfgSt b = 4 then
    cfgState { b with cfg := { b.cfg with nonce := if spanRefuses b (reportAt b) 64 then [] else gdRd b (reportAt b) 64 } } 5
  else b

/-- The signed bytes of the report. -/
def reportBody (b : Block) : List Byte :=
  padTo 64 b.cfg.nonce ++ padTo 64 b.cfg.idHash ++ padTo 64 b.cfg.baseHash ++ padTo 64 b.cfg.unitHash ++
  (upFrom 0 8).flatMap (fun p => padTo 64 (spGet (fun _ => []) b.cfg.partHash p)) ++
  ([rg b Reg.CFG_BASE_VER] ++ (upFrom 0 8).map (fun p => rg b (Reg.CFG_PART_VER p)) ++
    (upFrom 0 8).map (fun k => rg b (Reg.CFG_KEY k))).flatMap (fun w => leBytes 4 w.toNat) ++ List.replicate 60 0#8

/-- ATTEST_DONE: the report stands at CFG_REPORT, its first 64 bytes the nonce. -/
def attestDone (b : Block) : Block :=
  if cfgSt b ≠ 5 then b
  else
    let r := reportBody b
    let l := r ++ padTo 512 (Config.idSign b.cfg.idHash r)
    let b := if spanRefuses b (reportAt b) l.length then b else gdStore b (reportAt b) l
    orRg (cfgState b (if b.cfg.ready.isSome then 4 else 0)) Reg.CFG_STATUS 0x200

/-! ## Fences (R428) -/

/-- Is the class and logical slot one of R435? -/
def slotOk (cls slot : Nat) : Bool := decide (cls < 6 ∧ slot < classSlots cls)

/-- UNIT_FENCE: a FENCE write. -/
def unitFence (cls slot : Nat) (b : Block) : Block :=
  if slotOk cls slot then
    let r := declareDead b cls slot
    if r.2 then r.1 else cfgErr r.1
  else cfgErr b

/-- The invocations in flight on a unit: a tiller's current task and its STREAM entries, or those of a vision unit. -/
def inFlightOn (b : Block) (cls p : Nat) : List Inv :=
  b.seq.invs.filter (fun v => !v.done && !v.chaff && decide ((invEntry b v).kind ≠ 1) && decide (v.phys = p) &&
    decide ((unitCls (invEntry b v).unit).1 = cls))

/-- FENCE_FLUSH: cycle d + 17 of a fence. -/
def fenceFlush (cls slot : Nat) (b : Block) : Block :=
  match b.cfg.fences.find? (fun f => decide (f.1 = cls ∧ f.2.1 = slot ∧ f.2.2.2 + 17 = b.pwr.ccy)) with
  | none => b
  | some f =>
    let p := f.2.2.1
    let b := (inFlightOn b cls p).foldl (fun b v => endInvWith b v.stage v.line 7) b
    let b := if cls = 0 then
        (match (tl b p).task with
         | some t => freeTiller (endInvWith b t.stage t.line 7) p
         | none => b)
      else b
    { b with cfg := { b.cfg with fences := b.cfg.fences.filter (fun g => g ≠ f) } }

/-! ## Swaps, readmission, clearing (R431, R432) -/

/-- Is there a SPARE unit of the class? -/
def anySpare (b : Block) (cls : Nat) : Bool := (upFrom 0 (classSize cls)).any (isSpare b cls)

/-- UNIT_SWAP. -/
def unitSwap (cls slot : Nat) (b : Block) : Block :=
  if !slotOk cls slot then cfgErr b
  else match physOf b cls slot with
    | none => cfgErr b
    | some p =>
      if !anySpare b cls then raise (cfgErr b) 0xAE (cls * 64 + slot)
      else { b with cfg := { b.cfg with
        waits := b.cfg.waits.filter (fun w => !decide (w.cls = cls ∧ w.slot = slot)) ++
          [⟨cls, slot, b.pwr.ccy, some b.pwr.ccy, p, true⟩] } }

/-- UNIT_READMIT: a FENCED unit is cleared. -/
def unitReadmit (cls phys : Nat) (b : Block) : Block :=
  if cls < 6 ∧ phys < classSize cls ∧ (unitOf b cls phys).st = 3 then
    setUnit b cls phys { unitOf b cls phys with st := 5, since := b.pwr.ccy }
  else cfgErr b

/-- A tiller's core is reset, its slots EMPTY, its instruction memory and scratchpad zero. -/
def clearTiller (b : Block) (t : Nat) : Block :=
  let b := setTl b t Tiller.init
  let b := { b with mems := { b.mems with imem := putBlock b.mems.imem t [],
                                          spad := b.mems.spad.filter (fun e => decide (e.1 / 2 ^ 21 ≠ t)) } }
  setRg b (Reg.TLR_ID t) (wd (5 * 2 ^ 16 + t * 256 + 0x3F))

/-- Slots of a class for which no unit was SPARE count from now on (R430). -/
def spareCame (b : Block) (cls : Nat) : Block :=
  { b with cfg := { b.cfg with waits := b.cfg.waits.map (fun w =>
      if w.cls = cls ∧ w.c = none then { w with c := some b.pwr.ccy } else w) } }

/-- Has a unit anything in flight that it opened? -/
def unitRuns (b : Block) (cls phys : Nat) : Bool :=
  (decide (cls = 0) && (tl b phys).task.isSome) || !(inFlightOn b cls phys).isEmpty

/-- A DRAINING unit that has completed every invocation it had opened closes its port and is CLEARING from this cycle on (R431,
R432). -/
def drainOne (b : Block) (e : Nat × UnitSt) : Block :=
  let cls := e.1 / 64; let p := e.1 % 64
  if e.2.st = 4 ∧ unitRuns b cls p = false then setUnit b cls p { e.2 with st := 5, since := b.pwr.ccy } else b

/-- Every unit that drains, at the end of a cycle. -/
def drainUnits (b : Block) : Block := (b.cfg.units.filter (fun e => e.2.st = 4)).foldl drainOne b

/-- What clearing leaves (R432): of a tiller the reset state, of a vision unit an empty pipeline; the level store of a pyramid engine
stands in the engine. -/
def clearUnit (b : Block) (cls phys : Nat) : Block :=
  if cls = 0 then clearTiller b phys else if cls = 2 then { b with pyr := spErase phys b.pyr } else b

/-- CLEAR_DONE: clearing of a CLEARING unit has ended. The zero-fill of a tiller's scratchpad takes 32 768 cycles. -/
def clearDone (cls phys : Nat) (b : Block) : Block :=
  let u := unitOf b cls phys
  if cls < 6 ∧ phys < classSize cls ∧ u.st = 5 ∧ (cls ≠ 0 ∨ u.since + 32768 ≤ b.pwr.ccy) then
    let b := setUnit b cls phys { u with st := 2, slot := 0x3F, was := 0x3F }
    spareCame (clearUnit b cls phys) cls
  else b

/-! ## Mapping spares at a sheaf boundary (R430, R431) -/

/-- Copy the glume windows of a slot's former tiller into the spare's registers (R268). -/
def copyGlumes (b : Block) (old new : Nat) : Block :=
  let cp := fun (d : Nat → Word) (m : List (Nat × Word)) (o : Nat) =>
    spPut d m (Reg.TLR_GLUME_BASE new 0 + o) (spGet d m (Reg.TLR_GLUME_BASE old 0 + o))
  (upFrom 0 4).foldl (fun b w => [0, 4, 8].foldl (fun b k =>
    let o := 16 * w + k
    { b with regs := { b.regs with cur := cp regReset b.regs.cur o, force := cp regReset b.regs.force o,
                                   prev := cp regReset b.regs.prev o, prev2 := cp regReset b.regs.prev2 o } }) b) b

/-- Spare `p` takes the slot of a wait. -/
def mapInto (b : Block) (w : SpareWait) (p : Nat) : Block :=
  let b := if w.swap then
      let b := setUnit b w.cls w.old { unitOf b w.cls w.old with st := 4, slot := 0x3F, since := b.pwr.ccy }
      if w.cls = 0 then setF b (Reg.TLR_ID w.old) 5 0 0x3F else b
    else b
  let b := setUnit b w.cls p ⟨1, slotEpoch b w.cls w.slot, w.slot, 0, w.slot⟩
  let b := if w.cls = 0 then
      copyGlumes (loadImage (setRg b (Reg.TLR_ID p) (wd (2 ^ 16 + p * 256 + w.slot))) w.slot p) w.old p
    else b
  let b := { b with cfg := { b.cfg with waits := b.cfg.waits.filter (fun x => !decide (x.cls = w.cls ∧ x.slot = w.slot)) } }
  raise b 0xAC (w.cls * 64 + w.slot)

/-- One waiting slot at a boundary tick: the lowest-numbered SPARE unit, or NO_SPARE. -/
def mapOne (b : Block) (w : SpareWait) : Block :=
  match w.c with
  | none => b
  | some c =>
    if b.pwr.ccy < c + 1250 then b
    else match (upFrom 0 (classSize w.cls)).find? (isSpare b w.cls) with
      | some p => mapInto b w p
      | none =>
        raise { b with cfg := { b.cfg with waits := b.cfg.waits.map (fun x => if x = w then { x with c := none } else x) } }
          0xAE (w.cls * 64 + w.slot)

/-- The waiting slots in order of declaration, then of logical slot. -/
def mapSpares (b : Block) : Block :=
  (sortBy (fun v w => decide (v.decl < w.decl ∨ (v.decl = w.decl ∧ v.slot < w.slot))) b.cfg.waits).foldl mapOne b

end Sys2Proof.Machine
end

