-- ==== Sys2Proof/Machine/Boot.lean ====
section
/-! DEFINITION. Boot from the configuration flash (spec/22_power_clocks_reset.md R501, R502): the directory, the boot image,
the unit record with row repair (spec/11 R269, R270), identity (spec/18 R418) and spare map (R420, R421), key records and
the base bit-stream. -/

namespace Sys2Proof.Machine

/-! ## The directory (R501) -/

/-- A directory entry: its index, KIND and bytes. -/
structure DirEnt where
  idx   : Nat
  kind  : Nat
  bytes : List Byte
  deriving DecidableEq, Repr

/-- The directory; none where MAGIC, COUNT or CRC is wrong. -/
def directory (flash : List Byte) : Option (List DirEnt) :=
  let n := (ow flash 1).fld 15 0
  if ow flash 0 = 0x564B4644#32 ∧ 1 ≤ n ∧ n ≤ 64 ∧ crc32 (flash.take (8 + 12 * n)) = ow flash (2 + 3 * n) then
    some ((upFrom 0 n).map (fun e =>
      ⟨e, (ow flash (2 + 3 * e)).fld 3 0,
       (flash.drop (ow flash (3 + 3 * e)).toNat).take (ow flash (4 + 3 * e)).toNat⟩))
  else none

/-- The first entry of a KIND. -/
def firstOf (d : List DirEnt) (kind : Nat) : Option DirEnt := d.find? (fun e => e.kind = kind)

/-- PWR_BOOT: STAGE, ERR, ENTRY. -/
def bootAt (b : Block) (stage err entry : Nat) : Block :=
  setRg b Reg.PWR_BOOT (wd (stage * 2 ^ 28 + err * 2 ^ 24 + entry * 2 ^ 16))

/-! ## Row repair (R269, R270) -/

/-- A failing row: Granary (else scratchpad), tiller, bank, row. -/
structure BadRow where
  gran : Bool
  t    : Nat
  bank : Nat
  row  : Nat
  deriving DecidableEq, Repr

/-- The entries of a repair table in the layout of R270 (for the test-time row map: PRESUMED, log entry 29). -/
def badRows (l : List Byte) : List BadRow :=
  (upFrom 0 (min 1024 ((ow l 0).fld 15 0))).map (fun e =>
    let w := ow l (2 + e)
    ⟨w.bit 31, w.fld 30 25, w.fld 24 17, w.fld 9 0⟩)

/-- Does the CRC of a field row repair table hold? -/
def repairCrcOk (l : List Byte) : Bool :=
  decide (crc32 ((l.drop 8).take (4 * (ow l 0).fld 15 0)) = ow l 1)

/-- Rows mapped out so far, tillers excluded, the Granary bank that is full. -/
structure Repair where
  rows : List BadRow
  excl : List Nat
  full : Option Nat
  deriving DecidableEq, Repr

/-- Apply one entry. -/
def repairRow (r : Repair) (x : BadRow) : Repair :=
  if r.rows.contains x ∨ r.full.isSome then r
  else if (r.rows.filter (fun y => decide (y.gran = x.gran ∧ (x.gran = true ∨ y.t = x.t) ∧ y.bank = x.bank))).length < 2 then
    { r with rows := r.rows ++ [x] }
  else if x.gran then { r with full := some x.bank }
  else if r.excl.contains x.t then r else { r with excl := r.excl ++ [x.t] }

/-- Spare rows in use in bank `i` of tiller `t`. -/
def rowsUsed (r : Repair) (t i : Nat) : Nat :=
  (r.rows.filter (fun y => decide (y.gran = false ∧ y.t = t ∧ y.bank = i))).length

/-- TLR_t_REPAIR_LO and _HI, and REPAIR_FULL of the excluded tillers. -/
def repairRegs (r : Repair) (b : Block) : Block :=
  let word := fun (t o : Nat) => wd ((upFrom 0 16).foldl (fun n i => n + rowsUsed r t (o + i) * 4 ^ i) 0)
  let b := (upFrom 0 36).foldl (fun b t => setRg (setRg b (Reg.TLR_REPAIR_LO t) (word t 0)) (Reg.TLR_REPAIR_HI t) (word t 16)) b
  r.excl.foldl (fun b t => raise b 0x73 t) b

/-! ## The spare map (R420, R421) -/

/-- Is a unit disabled by the UNITMAP section? -/
def unitDisabled (m : List Byte) (cls p : Nat) : Bool :=
  let lo := leNat (m.take 8); let hi := leNat ((m.drop 8).take 8)
  if cls = 0 then nbit lo p
  else if cls < 4 then nbit lo (36 + 9 * (cls - 1) + p)
  else nbit hi (9 * (cls - 4) + p)

/-- Map one class: slot i takes unit i, else the lowest unused spare. -/
def mapClass (off : Nat → Bool) (b : Block) (cls : Nat) : Block :=
  let put := fun (b : Block) (p st slot tst : Nat) =>
    let b := setUnit b cls p ⟨st, 0, slot, 0, slot⟩
    if cls = 0 then setRg b (Reg.TLR_ID p) (wd (tst * 2 ^ 16 + p * 256 + slot)) else b
  let b := (upFrom 0 (classSize cls)).foldl (fun b p => if off p then put b p 0 0x3F 0 else put b p 2 0x3F 5) b
  (upFrom 0 (classSlots cls)).foldl (fun b i =>
    if off i then
      match (upFrom (classSlots cls) (classSize cls - classSlots cls)).find? (fun p => decide ((unitOf b cls p).st = 2)) with
      | some p => put b p 1 i 1
      | none => b
    else put b i 1 i 1) b

/-- All classes. -/
def spareMap (m : List Byte) (r : Repair) (b : Block) : Block :=
  (upFrom 0 6).foldl (fun b cls =>
    mapClass (fun p => unitDisabled m cls p || (decide (cls = 0) && r.excl.contains p)) b cls) b

/-! ## Identity (R418) -/

/-- The device's identity is known. -/
def setIdentity (key : List Byte) (b : Block) : Block :=
  let h := sha512 key
  let b := orRg { b with cfg := { b.cfg with idHash := h } } Reg.CFG_STATUS 0x400
  (upFrom 0 16).foldl (fun b i => setRg b (Reg.CFG_ID_HASH i) (ow h i)) b

/-! ## Stages (R502) -/

/-- A stop. -/
def bootStop (b : Block) (err entry : Nat) : Block := bootAt b 7 err entry

/-- The end of boot. -/
def bootEnd (b : Block) (err entry : Nat) : Block := raise (bootAt b 6 err entry) 0xD5 0

/-- Stage 5: the first BASE entry. -/
def bootBase (d : List DirEnt) (con : Content) (lft : Option Nat) (b : Block) : Block :=
  match firstOf d 0 with
  | none => bootEnd b 0 0
  | some e =>
    match objectBad b e.bytes e.bytes.length [0] false with
    | some (why, sec) => bootEnd (cfgReject b why sec) 5 e.idx
    | none => match streamBad b e.bytes con with
      | some (why, sec) => bootEnd (cfgReject b why sec) 5 e.idx
      | none => bootEnd (applyBase e.bytes con lft b) 0 0

/-- Stage 4: the KEY entries in directory order. -/
def bootKeys (d : List DirEnt) (con : Content) (b : Block) : Block :=
  (d.filter (fun e => e.kind = 2)).foldl (fun b e =>
    match objectBad b e.bytes e.bytes.length [2] false with
    | some (why, sec) => cfgReject b why sec
    | none => match streamBad b e.bytes con with
      | some (why, sec) => cfgReject b why sec
      | none => keyApply b e.bytes ((oSection e.bytes 0x10).getD [])) b

/-- Row repair of stage 3: the row map, then the first KIND 8 entry. The second part: its CRC was wrong. -/
def bootRepair (d : List DirEnt) (u : List Byte) : Repair × Bool :=
  let r := (badRows ((oSection u 0x12).getD [])).foldl repairRow ⟨[], [], none⟩
  match firstOf d 8 with
  | none => (r, false)
  | some e => if repairCrcOk e.bytes then ((badRows e.bytes).foldl repairRow r, false) else (r, true)

/-- After the unit record has been accepted. -/
def bootUnit (d : List DirEnt) (u : DirEnt) (con : Content) (lft : Option Nat) (b : Block) : Block :=
  let b := { b with cfg := { b.cfg with unitHash := sha512 u.bytes } }
  let r := bootRepair d u.bytes
  let b := repairRegs r.1 (if r.2 then raise b 0x74 0 else b)
  match r.1.full with
  | some bank => bootStop (raise (orRg b Reg.GRN_STATUS 4) 0x73 (0x800 + bank)) 4 u.idx
  | none => bootBase d con lft (bootKeys d con (spareMap ((oSection u.bytes 0x11).getD []) r.1 b))

/-- Stage 3: the first UNIT entry, the identity, the BIND check. -/
def bootIdent (d : List DirEnt) (puf : List Byte) (con : Content) (lft : Option Nat) (b : Block) : Block :=
  match firstOf d 3 with
  | none => bootStop b 3 0
  | some u =>
    let o := u.bytes
    if !fmtOk o [3] || (lengthBad o o.length).isSome || !keyOk b o || !sigOk o || !oBind o then bootStop b 3 u.idx
    else match Config.identity puf ((oSection o 0x13).getD []) with
      | none => bootStop b 3 u.idx
      | some key =>
        let b := setIdentity key b
        if !bindOk b o || (sectionBad o).isSome then bootStop b 3 u.idx else bootUnit d u con lft b

/-- Boot from its first stage to its end. -/
def bootRun (flash puf : List Byte) (con : Content) (lft : Option Nat) (b : Block) : Block :=
  match directory flash with
    | none => bootStop b 1 0
    | some d =>
      match firstOf d 4 with
      | none => bootStop b 2 0
      | some e =>
        match objectBad b e.bytes e.bytes.length [4] false with
        | some _ => bootStop b 2 e.idx
        | none => bootIdent d puf con lft (gdStore b stagingBase e.bytes)

/-- The last stage that boot enters before it ends or stops, by the failure that it meets. -/
def bootReach (r : Block) : Nat :=
  let err := (rg r Reg.PWR_BOOT).fld 27 24
  if err = 0 ∨ err = 5 then 5 else if err = 1 then 0 else if err = 2 then 2 else 3

/-- Boot enters stage `n` (R502). While a base that is accepted is written, the latent-fault test runs (R453). -/
def bootStage (n : Nat) (writing : Bool) (r b : Block) : Block :=
  let b := if (rg b Reg.PWR_BOOT).fld 31 28 < n ∧ n ≤ bootReach r then bootAt b n 0 0 else b
  if writing && decide ((rg b Reg.PWR_BOOT).fld 31 28 = 5) && decide ((rg r Reg.SAFE_LFT).fld 1 0 ≠ 0) then lftRunning b else b

/-- BOOT_DONE: boot runs once after a reset. `step` says how far it has come: it enters a stage, or it is at its end. -/
def bootDone (flash puf : List Byte) (con : Content) (step : BootStep) (b : Block) : Block :=
  if 6 ≤ (rg b Reg.PWR_BOOT).fld 31 28 ∨ b.pwr.core = false then b
  else match step with
    | .stage n writing => bootStage n writing (bootRun flash puf con none b) b
    | .ended lft => bootRun flash puf con lft b

end Sys2Proof.Machine
end

