-- ==== Sys2Proof/Machine/Gddr.lean ====
section
/-! DEFINITION. GDDR6 events (spec/21_gddr6_memory.md R482 to R491): refresh, temperature, errors, paging invalidation and
region power-down; and the recorder's own commands (spec/20_determinism_and_replay.md R472, R475). -/

namespace Sys2Proof.Machine

/-! ## Refresh and temperature (R482, R483) -/

/-- One request that a refresh delayed by `d` core cycles. -/
def refDelay (ch : Nat) (b : Block) (d : Nat) : Block :=
  recLate (nondet (bump b Reg.MEM_CNT_REF_DELAY 1) 3) 0 (ch / 2) d

/-- GDDR6_REFRESH of channel `ch`: the next bank in ascending order. -/
def gddrRefresh (ch : Nat) (delayed : List Nat) (b : Block) : Block :=
  let k := spGet (fun _ => 0) b.mem.refresh ch
  let b := { b with mem := { b.mem with refresh := spPut (fun _ => 0) b.mem.refresh ch ((k + 1) % 16) } }
  delayed.foldl (refDelay ch) b

/-- MEM_HOT: a component above 85 °C. -/
def memHot (comp : Nat) (b : Block) : Block :=
  let b' := setF { b with mem := { b.mem with hot := b.mem.hot.filter (· ≠ comp) ++ [comp] } } Reg.MEM_STATUS 3 3 1
  if (rg b Reg.MEM_STATUS).bit 3 then b' else raise b' 0xCE comp

/-- MEM_COOL: every component below 80 °C. -/
def memCool (b : Block) : Block := setF { b with mem := { b.mem with hot := [] } } Reg.MEM_STATUS 3 3 0

/-! ## Errors (R484, R485) -/

/-- MEM_READ_DONE: the status that a read of a unit returned. -/
def memReadDone (a : Nat) (ecc : EccStat) (b : Block) : Block := (memStatus b a ecc).1

/-- MEM_WRITE_EDC: the EDC result of a write, and of the one rewrite from the buffer. -/
def memWriteEdc (a : Nat) (first second : Bool) (b : Block) : Block :=
  if first then b
  else
    let b := bump b Reg.MEM_CNT_WCRC 1
    if second then b
    else raise { b with mem := { b.mem with poison := b.mem.poison.filter (· ≠ a / 64) ++ [a / 64] } } 0xCA (gdCtrl a)

/-- MEM_CE_WRITEBACK: the queued write-back of the corrected unit is made. -/
def memCeWriteback (a : Nat) (b : Block) : Block :=
  { b with mem := { b.mem with wback := b.mem.wback.filter (· ≠ a / 64) } }

/-! ## Regions (R490, R491) -/

/-- Set the state of a region. -/
def setRegion (b : Block) (r v : Nat) : Block := setF b Reg.MEM_PD_STAT (2 * r + 1) (2 * r) v

/-- MEM_CFG_ERR. -/
def memCfgErr (b : Block) : Block := raise (orRg b Reg.MEM_STATUS 4) 0xCD 0

/-- A 1 written to bit `r` of MEM_PD_CTRL. -/
def regionOffReq (r : Nat) (b : Block) : Block :=
  if r = 15 then memCfgErr b
  else if 15 < r then b
  else
    let b := setF b Reg.MEM_PD_CTRL r r 1
    if regionSt b r = 0 then setRegion b r 1 else b

/-- A 0 written to bit `r`: PENDING returns to ON at once, a change to ON that raises MEM_PD (R491). -/
def regionOnReq (r : Nat) (b : Block) : Block :=
  if 15 ≤ r then b
  else
    let b := setF b Reg.MEM_PD_CTRL r r 0
    if regionSt b r = 1 then raise (setRegion b r 0) 0xCB r else if regionSt b r = 2 then setRegion b r 3 else b

/-- Zeros over a region. -/
def zeroRegion (b : Block) (r : Nat) : Block :=
  { b with mems := { b.mems with gddr := b.mems.gddr.filter (fun e => decide (e.1 / 2 ^ 30 ≠ r)) },
           mem := { b.mem with poison := b.mem.poison.filter (fun u => decide (u / 2 ^ 24 ≠ r)),
                               wback := b.mem.wback.filter (fun u => decide (u / 2 ^ 24 ≠ r)) } }

/-- REGION_FILL_DONE: a FILLING region is ON. A 1 written meanwhile makes it PENDING (DEDUCED, log entry 31). -/
def regionFillDone (r : Nat) (b : Block) : Block :=
  if r < 15 ∧ regionSt b r = 3 then
    let b := raise (setRegion (zeroRegion b r) r 0) 0xCB r
    if (rg b Reg.MEM_PD_CTRL).bit r then setRegion b r 1 else b
  else b

/-! ## Paging (R489) -/

/-- PT_INVALIDATE: a write to MEM_PT_INV. The entries go at the write; BUSY stays until PT_INVALIDATE_DONE (DESIGN CHOICE,
log entry 31). A translation in progress goes on with the entry it has. -/
def ptInvalidate (w : Word) (b : Block) : Block :=
  let has := fun (c : Nat) => w.bit 8 || decide (c = w.fld 3 0)
  let b := (b.tlr.map Prod.fst).foldl (fun b t =>
    let b := pinUnits has b t
    setTl b t { tl b t with tlb := (tl b t).tlb.filter (fun e => !has e.ctx) }) b
  setRg b Reg.MEM_PT_INV 0x80000000#32

/-- PT_INVALIDATE_DONE. -/
def ptInvalidateDone (b : Block) : Block := setRg b Reg.MEM_PT_INV 0#32

/-! ## Recording (R472, R475) -/

/-- The START record. -/
def recStartRec (b : Block) (midrun : Bool) : Block :=
  record b true 6 0 0 0 0 (rg b Reg.DBG_DSET_CRC) (wd (b2n midrun)) 0#32 []

/-- A write to DBG_REC_CTRL: EN from 0 to 1 latches the masks and begins a recording at offset 0; from 1 to 0 ends it. A 1
written to EN is ignored while domain 141 is not ON (R508): EN keeps its value. -/
def recCtrlWrite (w : Word) (b : Block) : Block :=
  let on := recOn b
  let w := if domSt b 141 = 0 then w else w &&& (0x7FFFFFFF#32 ||| rg b Reg.DBG_REC_CTRL)
  let b := if on && !w.bit 31 then record b true 6 2 0 0 0 0#32 0#32 0#32 [] else b
  let b := setRg b Reg.DBG_REC_CTRL (w &&& 0x8FF0000F#32)
  if !on && w.bit 31 then
    let m := tbEn b
    let b := { b with dbg := { b.dbg with mask := w.fld 3 0, cam := w.fld 27 20, queue := [], wrOff := 0, wraps := 0, lost := 0,
                                          midrun := m } }
    recStartRec b m
  else b

/-- REC_LOST_WRITE: space has come free after records were dropped. -/
def recLostWrite (b : Block) : Block :=
  if b.dbg.lost = 0 ∨ 65536 < recBytes b + 32 ∨ recOn b = false then b
  else
    let n := b.dbg.lost
    raise (record { b with dbg := { b.dbg with lost := 0 } } true 6 3 0 0 0 (wd n) 0#32 0#32 []) 0xC0 (min 4095 n)

/-- R475: TB_CTRL.EN goes from 0 to 1 while a recording runs. -/
def recTbStart (b : Block) : Block :=
  if recOn b && !b.dbg.midrun then recStartRec b false else b

end Sys2Proof.Machine
end

