-- ==== Sys2Proof/Machine/Frames.lean ====
section
/-! DEFINITION. What the host port holds behind its registers (spec/16_host_port.md): the value a register shows in its own
domain, stepping reads (R368), paged frames (R383), remote reads (R382), and the start of a replay (spec/20 R476). -/

namespace Sys2Proof.Machine

/-! ## What a register shows -/

/-- CFG_UNIT_INFO (R435): the unit that CFG_UNIT_SEL names. -/
def unitInfo (b : Block) : Word :=
  let s := rg b Reg.CFG_UNIT_SEL
  let cls := s.fld 23 20; let p := s.fld 5 0
  if cls < 6 ∧ p < classSize cls then
    let u := unitOf b cls p
    wd (u.st * 2 ^ 29 + u.epoch % 256 * 256 + u.slot % 64)
  else 0x3F#32

/-- GRN_FLAG_DATA (R279): the 32 flags of WORD. -/
def flagData (b : Block) : Word :=
  let w := (rg b Reg.GRN_FLAG_ADDR).fld 8 0
  (upFrom 0 32).foldl (fun m i => if flag b (32 * w + i) then m ||| wd (2 ^ i) else m) 0#32

/-- SYNC_VT_DATA (R330). -/
def vtData (b : Block) : Word :=
  let a := rg b Reg.SYNC_VT_ADDR
  vtEntry b (a.fld 13 10) (a.fld 9 0)

/-- The lane whose FE_LANEn_TBL_DATA lies at `a`. -/
def tblLane (a : Nat) : Option Nat := famIdx a 0x3000 0x200 8 0xE4

/-- The register at `a` as its own domain shows it now. -/
def liveReg (b : Block) (a : Nat) : Word :=
  if a = Reg.CFG_UNIT_INFO then unitInfo b
  else if a = Reg.WP_MESH_DATA then meshData b
  else if a = Reg.FT_PAT_DATA then patData b
  else if a = Reg.GRN_FLAG_DATA then flagData b
  else if a = Reg.SYNC_VT_DATA then vtData b
  else if a = Reg.CLK_CCY_LO then wd b.pwr.ccy
  else if a = Reg.CLK_CCY_HI then wd (b.pwr.ccy / 2 ^ 32)
  else match tblLane a with
    | some n => tblData b n
    | none => rg b a

/-! ## Stepping registers (R368) -/

/-- GRN_FLAG_ADDR.WORD after a read of GRN_FLAG_DATA (R279). -/
def flagStep (b : Block) : Block := setF b Reg.GRN_FLAG_ADDR 8 0 ((rg b Reg.GRN_FLAG_ADDR).fld 8 0 + 1)

/-- SYNC_VT_ADDR.VID after a read of SYNC_VT_DATA, carrying into CTX (R330). -/
def vtStep (b : Block) : Block := setF b Reg.SYNC_VT_ADDR 13 0 ((rg b Reg.SYNC_VT_ADDR).fld 13 0 + 1)

/-- GRN_FLAG_DATA_READ. -/
def grnFlagDataRead (b : Block) : Block := stepRead Reg.GRN_FLAG_DATA flagStep b

/-- SYNC_VT_DATA_READ. -/
def syncVtDataRead (b : Block) : Block := stepRead Reg.SYNC_VT_DATA vtStep b

/-- What a read of the register at `a` advances; none for a register that does not step. -/
def stepOf (a : Nat) : Option (Block → Block) :=
  if a = Reg.WP_MESH_DATA then some meshStep
  else if a = Reg.FT_PAT_DATA then some patStep
  else if a = Reg.GRN_FLAG_DATA then some flagStep
  else if a = Reg.SYNC_VT_DATA then some vtStep
  else (tblLane a).map (fun n b => tblStep b n)

/-! ## Snapshots (R45, R74, R95, R117, R203, R234, R330, R410, R465, R479, R512) -/

/-- The registers that a read of the register at `a` snapshots. -/
def snapsOf (a : Nat) : List Nat :=
  if a = Reg.TB_POS_LO ∨ a = Reg.TB_FRONTIER_LO ∨ a = Reg.SEQ_ROW_LO ∨ a = Reg.SEQ_LAST_CHAFF ∨ a = Reg.SAFE_POS_LO ∨
      a = Reg.DBG_RPL_DIV_LO ∨ a = Reg.PWR_DIP_LAST_LO ∨ a = Reg.CLK_CCY_LO then [a + 4]
  else if (famIdx a 0x3000 0x200 8 0x40).isSome ∨ (famIdx a 0x3000 0x200 8 0xE8).isSome ∨ (famIdx a 0x8000 0x100 36 8).isSome ∨
      (famIdx a 0xB800 0x20 36 0x18).isSome ∨ (famIdx a 0xD820 8 8 0).isSome then [a + 4]
  else if (famIdx a 0x6300 0x10 4 0).isSome then [a + 4, a + 8, a + 12]
  else []

/-- Is the register at `a` one that is read through a snapshot? -/
def isSnapped (a : Nat) : Bool :=
  (decide (4 ≤ a) && (snapsOf (a - 4)).contains a) || (decide (8 ≤ a) && (snapsOf (a - 8)).contains a) ||
  (decide (12 ≤ a) && (snapsOf (a - 12)).contains a)

/-- The snapshot of the register at `a`. -/
def snapOf (b : Block) (a : Nat) : Word := spGet regReset b.regs.snap a

/-- Take a snapshot. -/
def setSnap (b : Block) (a : Nat) (w : Word) : Block := { b with regs := { b.regs with snap := spPut regReset b.regs.snap a w } }

/-! ## Reserved encodings (R18) -/

/-- The fields of the register at `a` that have a reserved encoding: highest bit, lowest bit, the encoding. -/
def reservedCodes (a : Nat) : List (Nat × Nat × Nat) :=
  if a = Reg.SYNC_CELL_CFG then [(29, 28, 3)]
  else if 0x3000 ≤ a ∧ a < 0x4000 then
    let e := (a - 0x3000) % 0x200
    if e = 0 then [(4, 3, 3), (11, 10, 3)]
    else if 0xC0 ≤ e ∧ e < 0xE0 ∧ e % 8 = 0 then [(4, 3, 3), (2, 1, 3)]
    else if e = 0xE0 then [(17, 16, 3)]
    else []
  else if 0x4000 ≤ a ∧ a < 0x4200 ∧ a % 0x20 = 0 then [(7, 6, 3), (5, 4, 3)]
  else if 0x4800 ≤ a ∧ a < 0x4900 ∧ a % 0x10 = 0 then [(1, 0, 3)]
  else if 0xE800 ≤ a ∧ a < 0xEC00 ∧ a % 0x40 = 0 then [(30, 29, 3), (28, 27, 3), (26, 25, 3), (23, 22, 3)]
  else []

/-- R18: a reserved encoding reads as 0. What was written stays for the checks of the register's chapter. -/
def hideReserved (a : Nat) (w : Word) : Word :=
  (reservedCodes a).foldl (fun w f => if w.fld f.1 f.2.1 = f.2.2 then w.setFld f.1 f.2.1 0 else w) w

/-! ## Remote reads (R382) -/

/-- A read of a panel register for a remote reader, from the register's own domain: its value, the snapshots that it takes, and the
step of a stepping register (DESIGN CHOICE, log entry 32). -/
def remoteRead (b : Block) (a : Nat) : Word × Block :=
  let w := if isReg a = false then 0#32 else if isSnapped a then snapOf b a else hideReserved a (liveReg b a)
  let b := (snapsOf a).foldl (fun b h => setSnap b h (liveReg b h)) b
  (w, match stepOf a with
    | some f => f b
    | none => b)

/-- A write to HOST_RRD_CMD: GO starts a remote read of the register that HOST_RRD_ADDR names, unless one is in progress.
This device's own number reads its own register (DEDUCED, log entry 32). -/
def rrdGo (w : Word) (b : Block) : Block :=
  if w.bit 0 = false ∨ b.links.rrd = true ∨ (isHead b = false ∧ (rg b Reg.HOST_RRD_ADDR).fld 31 26 ≠ devOf b) then b
  else
    let a := rg b Reg.HOST_RRD_ADDR
    let dev := a.fld 31 26; let off := a.fld 19 2 * 4
    let b := setRg { b with links := { b.links with rrd := true } } Reg.HOST_RRD_CMD 0#32
    if dev = devOf b then (let r := remoteRead b off; rrdEnd r.2 true r.1)
    else
      let r := sendTo b dev (.rrdReq off)
      if r.2 then r.1 else rrdEnd r.1 false 0#32

/-! ## Paged frames (R383, R417) -/

/-- Window offset of byte `i` of frame `f`. -/
def frameAt (f i : Nat) : Nat := 0x180000000 + f * 0x10000 + i

/-- HOST_FRAMEf_CTRL.STATE: 0 UNMAPPED, 1 BUSY, 2 READY, 3 ERROR. -/
def frameSt (b : Block) (f : Nat) : Nat := (rg b (Reg.HOST_FRAME_CTRL f)).fld 9 8

/-- Set it. -/
def setFrameSt (b : Block) (f v : Nat) : Block := setF b (Reg.HOST_FRAME_CTRL f) 9 8 v

/-- Forget which units of frame `f` a host write has touched. -/
def untouch (b : Block) (f : Nat) : Block :=
  { b with host := { b.host with touched := b.host.touched.filter (fun k => decide (k / 1024 ≠ f)) } }

/-- The GDDR6 base of frame `f`. -/
def frameBase (b : Block) (f : Nat) : Nat := (rg b (Reg.HOST_FRAME_ADDR f)).fld 17 0 * 65536

/-- An operation of a frame ends (R383). -/
def frameEnd (b : Block) (f : Nat) (err : Bool) : Block :=
  orRg (setFrameSt b f (if err then 3 else 2)) Reg.HOST_ATTN_STATUS 32

/-- An operation begins that takes time: 1 MAP, 3 FLUSH. -/
def frameBegin (b : Block) (f op : Nat) : Block :=
  let b := setFrameSt b f 1
  { b with host := { b.host with frameOp := b.host.frameOp.filter (fun e => decide (e.1 ≠ f)) ++ [(f, (op, frameBase b f))] } }

/-- A write of OP to HOST_FRAMEf_CTRL. UNMAP ends at once and does not set FRAME (DEDUCED, log entry 32). -/
def frameCmd (f op : Nat) (b : Block) : Block :=
  if 64 ≤ f ∨ frameSt b f = 1 then b
  else if op = 1 then frameBegin b f 1
  else if op = 2 then frameEnd (untouch b f) f false
  else if op = 3 then frameBegin b f 3
  else if op = 4 then setFrameSt (untouch b f) f 0
  else b

/-- 64 bytes of the window's SRAM. -/
def winPut (b : Block) (a : Nat) (l : List Byte) : Block := { b with mems := { b.mems with win := wrBytes b.mems.win a l } }

/-- A fill of unit `u` of frame `f` from GDDR6, with the words of `errs` in error: the second part tells whether an uncorrectable
unit has been met. -/
def fillUnit (f base : Nat) (errs : List (Nat × EccStat)) (r : Block × Bool) (u : Nat) : Block × Bool :=
  let a := base + 64 * u
  let b := r.1
  if inStaging a then (winPut b (frameAt f (64 * u)) (List.replicate 64 0#8), r.2)
  else if regionRefuses b a then (winPut b (frameAt f (64 * u)) (List.replicate 64 0#8), true)
  else
    let m := memUnit b a errs
    if m.2 then (winPut m.1 (frameAt f (64 * u)) (List.replicate 64 0#8), true)
    else (winPut m.1 (frameAt f (64 * u)) (gdRd b a 64), r.2)

/-- A write back of unit `u` of frame `f`. -/
def flushUnit (f base : Nat) (r : Block × Bool) (u : Nat) : Block × Bool :=
  let a := base + 64 * u
  if inStaging a then r
  else if regionRefuses r.1 a then (r.1, true)
  else (gdStore r.1 a (rdBytes r.1.mems.win (frameAt f (64 * u)) 64), r.2)

/-- FRAME_OP_DONE. -/
def frameOpDone (f : Nat) (errs : List (Nat × EccStat)) (b : Block) : Block :=
  match b.host.frameOp.find? (fun e => e.1 = f) with
  | none => b
  | some (_, op, base) =>
    let r := if op = 1 then (upFrom 0 1024).foldl (fillUnit f base errs) (b, false)
      else (sortBy (fun p q => decide (p < q)) ((b.host.touched.filter (fun k => decide (k / 1024 = f))).map (· % 1024))).foldl
        (flushUnit f base) (b, false)
    let b := untouch r.1 f
    frameEnd { b with host := { b.host with frameOp := b.host.frameOp.filter (fun e => decide (e.1 ≠ f)) } } f r.2

/-! ## Command-ring tails (R370) -/

/-- A write to HOST_CRc_TAIL. -/
def crTailWrite (c : Nat) (w : Word) (b : Block) : Block :=
  let b := setRg b (Reg.HOST_CR_TAIL c) (w &&& 0xFFFF#32)
  let l := spGet (fun _ => []) b.host.tails c
  { b with host := { b.host with tails := spPut (fun _ => []) b.host.tails c (l ++ [(b.pwr.ccy, w.fld 15 0)]) } }

/-! ## Replay (R476) -/

/-- Ports with CAM records in the recording, from offset `o` on. -/
def camPorts (b : Block) : Nat → Nat → List Nat
  | 0, _ => []
  | n + 1, o =>
    if recSize b ≤ o then []
    else
      let w := recWord b o 0
      if w.fld 31 28 = 6 ∧ w.fld 27 24 = 2 then []
      else if w.fld 31 28 = 3 then w.fld 20 16 :: camPorts b n (o + recLen b o)
      else camPorts b n (o + recLen b o)

/-- Does the ring begin with a START whose MIDRUN is 0? -/
def recStartOk (b : Block) : Bool :=
  let w := recWord b 0 0
  decide (w.fld 31 28 = 6 ∧ w.fld 27 24 = 0) && !(recWord b 0 6).bit 0

/-- A write to DBG_RPL_CTRL. A 1 written to EN is ignored while domain 141 is not ON (R508). -/
def replayStart (w : Word) (b : Block) : Block :=
  if w.bit 0 then
    if domSt b 141 ≠ 0 then b
    else if tbEn b || recOn b || !recStartOk b then orRg b Reg.DBG_RPL_STATUS 8
    else
      let b := setF (setRg b Reg.DBG_RPL_CTRL 1#32) Reg.DBG_RPL_STATUS 1 0 1
      { b with dbg := { b.dbg with rdOff := 0, digPos := [], ports := camPorts b (recSize b / 32) 0 } }
  else
    let b := setF (setRg b Reg.DBG_RPL_CTRL 0#32) Reg.DBG_RPL_STATUS 1 0 0
    { b with dbg := { b.dbg with ports := [] } }

end Sys2Proof.Machine
end

