-- ==== Sys2Proof/Machine/Spad.lean ====
section
/-! DEFINITION. Control-core loads and stores, the core cache, fill and copy, and glume requests (spec/11 R254 to R268). -/

namespace Sys2Proof.Machine

/-! ## The core cache (R264, R265) -/

/-- Sets of the cache: four ways of 128-byte lines. -/
def cacheSets (x : Tiller) : Nat := x.cacheSz * 512

/-- The GDDR6 address of a core address at or above 0x8000_0000. -/
def cacheAddr (b : Block) (t a : Nat) : Nat := (frc b (Reg.TLR_CACHE_BASE t)).fld 2 0 * 2 ^ 31 + (a - 2 ^ 31)

/-- May the current task use the cached range? The cache occupies bank groups 0 to CACHE − 1 of the core class; a group
of them that is off faults (R510; DESIGN CHOICE, log entry 24: any of them). -/
def cacheOpen (b : Block) (t : Nat) : Acc :=
  let x := tl b t
  match curCtx b t with
  | none => .fault 2
  | some c =>
    if x.cacheSz = 0 ∨ isRt b c = true then .fault 2
    else if !rangeOn b t (2 ^ 20) (2 ^ 20 + x.cacheSz * 0x40000 - 1) then .bankOff
    else .ok 0

/-- May GDDR6 bytes be reached by a refill or write-through of context `c` (R486; R481, R490)? -/
def refillOk (b : Block) (c a n : Nat) : Bool := decide (gddrFar b c a n false = .gddr a)

/-- The line with an address. -/
def cacheFind (x : Tiller) (g : Nat) : Option CLine :=
  let l := g / 128
  x.cache.find? (fun e => e.set = l % cacheSets x && e.tag = l / cacheSets x)

/-- Put a line in front; the least recently used of five in a set goes. -/
def cachePut (x : Tiller) (l : CLine) : Tiller :=
  let rest := x.cache.filter (fun e => !(e.set = l.set && e.tag = l.tag))
  let mine := (rest.filter (fun e => e.set = l.set)).take 3
  { x with cache := l :: (mine ++ rest.filter (fun e => e.set ≠ l.set)) }

/-- Value of a load by size and signedness. -/
def loadVal (size : Nat) (signed : Bool) (l : List Byte) : Word :=
  let n := leNat l
  if signed then wd (wrapN 32 (sext (8 * size) n)) else wd n

/-- The words in error that a load meets in a cached line: words of the core-class banks that the cache occupies (R264), by
scratchpad address (DESIGN CHOICE, log entry 24). -/
def cacheErrs (x : Tiller) (errs : List (Nat × EccStat)) : List (Nat × EccStat) :=
  errs.filter (fun e => decide (2 ^ 20 ≤ e.1 ∧ e.1 < 2 ^ 20 + x.cacheSz * 0x40000))

/-- The line that holds GDDR6 address `g`, from the cache or by a refill; none where the tiller faults or its port is closed.
`errs` are the words of a cached line (R255), or the 64-byte units of a refill, that returned in error. -/
def cacheLine (b : Block) (t pc g : Nat) (errs : List (Nat × EccStat)) : Block × Option CLine :=
  let c := (curCtx b t).getD 0
  match cacheFind (tl b t) g, fencedT b t with
  | some l, _ =>
    let r := spAccount (setTl b t (cachePut (tl b t) l)) t (cacheErrs (tl b t) errs)
    if r.2 then (tFault r.1 t 6 pc, none) else (r.1, some l)
  | none, some s => (fenceDrop b 0 s, none)
  | none, none =>
    let b := bump b (Reg.TLR_CNT_CACHE_MISS t) 1
    let base := g / 128 * 128
    if !inCtxWin b c base 128 then (tFault (memBound b c) t 2 pc, none)
    else if !refillOk b c base 128 then (tFault b t 2 pc, none)
    else
      let r := memSpan b base 128 errs
      if r.2 then (tFault r.1 t 6 pc, none)
      else
        let n := cacheSets (tl b t)
        let l : CLine := ⟨g / 128 % n, g / 128 / n, gdRd r.1 base 128⟩
        (setTl r.1 t (cachePut (tl r.1 t) l), some l)

/-- A load through the cache; one that runs into the next line reads both. -/
def cacheLoad (b : Block) (t pc a size : Nat) (signed : Bool) (xd : Nat) (errs : List (Nat × EccStat)) : Block :=
  let g := cacheAddr b t a
  let r := cacheLine b t pc g errs
  match r.2 with
  | none => r.1
  | some l =>
    let lo := (l.data.drop (g % 128)).take size
    if g % 128 + size ≤ 128 then setX r.1 t xd (loadVal size signed lo)
    else
      let q := cacheLine r.1 t pc (g + size - 1) errs
      match q.2 with
      | none => q.1
      | some l2 => setX q.1 t xd (loadVal size signed (lo ++ l2.data.take (size - lo.length)))

/-- Write bytes at GDDR6 address `g` into the lines that hold them. -/
def cacheUpd (b : Block) (t : Nat) (g : Nat) (l : List Byte) : Block :=
  ((upFrom g l.length).zip l).foldl (fun b e =>
    match cacheFind (tl b t) e.1 with
    | some x => setTl b t (cachePut (tl b t) { x with data := listSet x.data (e.1 % 128) e.2 })
    | none => b) b

/-- A store through the cache: written to GDDR6, and to the line where it is held; no allocation. The window of R486 holds
for it as for a refill (DEDUCED, log entry 24). -/
def cacheStore (b : Block) (t pc a : Nat) (l : List Byte) : Block :=
  let g := cacheAddr b t a
  let c := (curCtx b t).getD 0
  if !inCtxWin b c g l.length then tFault (memBound b c) t 2 pc
  else if !refillOk b c g l.length then tFault b t 2 pc
  else
    cacheUpd (fenced t (fun b => gdStore b g l) b) t g l

/-! ## Loads and stores (R254 to R256) -/

/-- Address of a load or store. -/
def memAddr (x : Tiller) (xa : Nat) (disp : Int) : Nat := wrapN 32 (((xReg x xa).toNat : Int) + disp)

/-- A core access at address `a` of `size` bytes: what the checks say. A 16-bit access has no alignment rule. -/
def coreMem (b : Block) (t pc a size : Nat) (write : Bool) (inSpad inCache : Nat → Block) : Block :=
  if 2 ^ 31 ≤ a then
    match cacheOpen b t with
    | .ok _ => if size = 4 ∧ a % 4 ≠ 0 then tFault b t 3 pc else inCache a
    | .bankOff => tBankFault b t pc
    | _ => tFault b t 2 pc
  else
    withRange b t pc a size (if size = 4 then 4 else 1) write inSpad

/-- CORE_LOAD_STORE. `errs` are the words of the scratchpad, or the units of GDDR6, that returned in error. -/
def coreLoadStore (t pc : Nat) (op : MemOp) (errs : List (Nat × EccStat)) (b : Block) : Block :=
  issue b t pc (fun b =>
    match op with
    | .load size signed xd xa disp =>
      let a := memAddr (tl b t) xa disp
      coreMem b t pc a size false
        (fun p => coreRd b t pc p size errs (fun b => setX b t xd (loadVal size signed (spRd b t p size))))
        (fun a => cacheLoad b t pc a size signed xd errs)
    | .store size xs xa disp =>
      let a := memAddr (tl b t) xa disp
      let bytes := leBytes size (xReg (tl b t) xs).toNat
      coreMem b t pc a size true
        (fun p => spWrite b t p bytes errs)
        (fun a => cacheStore b t pc a bytes))

/-! ## Fill and copy (R263) -/

/-- Issue of MFILL or MCOPY. Misaligned operands fault ALIGN, a length of 0 or above 2 MiB ILLEGAL (DESIGN CHOICE, log
entry 24). -/
def fillIssue (b : Block) (t pc d n : Nat) (src : Option Nat) (w : Word) : Block :=
  if d % 4 ≠ 0 ∨ n % 4 ≠ 0 ∨ (src.getD 0) % 4 ≠ 0 then tFault b t 3 pc
  else if n = 0 ∨ 2 ^ 21 < n then tFault b t 1 pc
  else
    match taskAddr (curAwin b t) (curCwin b t) d n, src.map (fun s => taskAddr (curAwin b t) (curCwin b t) s n) with
    | none, _ => tFault b t 2 pc
    | _, some none => tFault b t 2 pc
    | some dp, sp =>
      let sp := sp.join
      let es := (sp.map (fun s => sbEntry s (s + n - 1) false .fill)).toList ++ [sbEntry dp (dp + n - 1) true .fill]
      if (tl b t).fc.isSome then holdAt b t .busy
      else match sbAdd b t es with
        | none => sbRefused b t es
        | some b => setTl b t { tl b t with fc := some ⟨dp, n, sp, w⟩ }

/-- MFILL: registers of destination, length and constant. -/
def mfill (t pc xd xn xw : Nat) (b : Block) : Block :=
  issue b t pc (fun b =>
    let x := tl b t
    fillIssue b t pc (xReg x xd).toNat (xReg x xn).toNat none (xReg x xw))

/-- MCOPY: registers of destination, length and source. -/
def mcopy (t pc xd xn xs : Nat) (b : Block) : Block :=
  issue b t pc (fun b =>
    let x := tl b t
    fillIssue b t pc (xReg x xd).toNat (xReg x xn).toNat (some (xReg x xs).toNat) 0#32)

/-- The bytes of a scratchpad range as a read gives them that meets bank groups which are off: zeros of those, and their words, as
uncorrectable ones (DESIGN CHOICE, log entry 24). -/
def offWords (b : Block) (t s n : Nat) : List Nat :=
  (upFrom (s / 4) (n / 4)).filter (fun w => !rangeOn b t (4 * w) (4 * w + 3))

/-- Write a range of whole words group by group (R510): the write units of a group that is off are not performed. The second part:
one was not. -/
def storeOn (b : Block) (t a : Nat) (l : List Byte) : Block × Bool :=
  (upFrom (a / 0x40000) ((a + l.length - 1) / 0x40000 + 1 - a / 0x40000)).foldl (fun r g =>
    let lo := max a (g * 0x40000)
    let hi := min (a + l.length) ((g + 1) * 0x40000)
    if rangeOn r.1 t lo (hi - 1) then (spStore r.1 t lo ((l.drop (lo - a)).take (hi - lo)), r.2) else (r.1, true)) (b, false)

/-- The operation of the engine completes: the result is the source as it stood; a source word that is uncorrectable counts
(R255), and the word it is copied to decodes as uncorrectable too, as does one of a bank group that is off (DESIGN CHOICE, log
entry 24). Bank groups that are off are not written (R510). -/
def fillComplete (t : Nat) (errs : List (Nat × EccStat)) (b : Block) : Block :=
  let x := tl b t
  match x.fc with
  | none => b
  | some f =>
    let b := setTl b t (sbFree { x with fc := none } .fill)
    let off := (f.src.map (fun s => offWords b t s f.len)).getD []
    let evt := fun (o : Bool) (b : Block) => if o || off ≠ [] then bankOffEvt b t else b
    match f.src with
      | none =>
        let r := storeOn b t f.dst ((upFrom 0 (f.len / 4)).flatMap (fun _ => leBytes 4 f.word.toNat))
        evt r.2 r.1
      | some s =>
        let es := (spErrs b t s f.len errs).filter (fun e => !off.contains (e.1 / 4))
        let ue := (es.filter (fun e => decide (e.2 = .uncorrectable ∨ e.2 = .crc))).map (fun e => e.1 / 4)
        let bad := ((ue ++ off).map (fun w => (4 * w - s + f.dst) / 4)).filter (fun w => rangeOn b t (4 * w) (4 * w + 3))
        let b := (spAccount b t es).1
        let data := if off = [] then spRd b t s f.len
          else (upFrom (s / 4) (f.len / 4)).flatMap (fun w => if off.contains w then List.replicate 4 0#8 else spRd b t (4 * w) 4)
        let r := storeOn b t f.dst data
        let x := tl r.1 t
        evt r.2 (setTl r.1 t { x with poison := x.poison.filter (fun w => !bad.contains w) ++ bad })

/-! ## Cache size (R265) -/

/-- A change of CACHE takes effect: the words that enter or leave the cache range are zero-filled. -/
def cacheResize (t : Nat) (b : Block) : Block :=
  let x := tl b t
  let n := min 4 ((frc b (Reg.TLR_SPAD_CFG t)).fld 2 0)
  if x.task.isSome ∨ x.cacheSz = n then b
  else
    let lo := min x.cacheSz n * 0x40000
    let hi := max x.cacheSz n * 0x40000
    let key := t * 2 ^ 21 + 2 ^ 20
    let b := { b with mems := { b.mems with spad := b.mems.spad.filter (fun e => !decide (key + lo ≤ e.1 ∧ e.1 < key + hi)) } }
    setTl b t { x with cacheSz := n, cache := [], resizing := true,
                       scrub := x.scrub.filter (fun w => !decide (2 ^ 20 + lo ≤ 4 * w ∧ 4 * w < 2 ^ 20 + hi)),
                       poison := x.poison.filter (fun w => !decide (2 ^ 20 + lo ≤ 4 * w ∧ 4 * w < 2 ^ 20 + hi)) }

/-- The zero-fill ends. -/
def cacheResizeDone (t : Nat) (b : Block) : Block := setTl b t { tl b t with resizing := false }

/-! ## Glume requests (R267, R405) -/

/-- A glume request of another device reaches its window; `errs` are the scratchpad words in error. -/
def glumeRequest (p : Packet) (errs : List (Nat × EccStat)) (b : Block) : Block :=
  match p.body with
  | .glumeWr slot win off bytes ctx notif rslot strm => glumeWrite b p.src slot win off bytes ctx notif rslot strm errs
  | .glumeRd slot win off len _ rslot strm => glumeRead b p.src slot win off len rslot strm errs
  | _ => b

end Sys2Proof.Machine
end

