-- ==== Sys2Proof/Machine/Sync.lean ====
section
/-! DEFINITION. Sync instructions and waits, ripe-flag instructions, and the commands to the cells
(spec/13_synchronisation.md R309 to R330, spec/11 R277). -/

namespace Sys2Proof.Machine

/-- The translation of a firmware operation (R313 to R315): the entry, or a status 1 UNMAPPED or 2 PERM. `need` is the
bit of the permission; `remote` says whether a REMOTE entry is admitted. -/
def vtCheck (e : Word) (need : Nat) (remote : Bool) : Nat :=
  if !e.bit 31 then 1 else if !e.bit need then 2 else if e.bit 30 && !remote then 2 else 0

/-- Issue of a sync instruction: without a current task it is ILLEGAL (R317). -/
def syncIssue (b : Block) (t pc : Nat) (f : Block → Nat → Block) : Block :=
  issue b t pc (fun b => match curCtx b t with
    | none => tFault b t 1 pc
    | some c => f b c)

/-- Device and cell of an entry. -/
def vtDev (b : Block) (e : Word) : Nat := if e.bit 30 then e.fld 29 24 else devOf b

/-- SSIG xd, xv, xs. -/
def ssig (t pc xd xv xs : Nat) (b : Block) : Block :=
  syncIssue b t pc (fun b c =>
    let x := tl b t
    let e := vtEntry b c ((xReg x xv).fld 9 0)
    let st := vtCheck e 20 true
    let k := (xReg x xs).s32
    let id := slotOfT b t
    if st ≠ 0 then setX (permErr b 2 id (e.fld 11 0)) t xd (wd st)
    else setX (if k = 0 then b else sendSync b 2 id 0 (vtDev b e) (e.fld 11 0) false k c) t xd 0#32)

/-- SCONS xd, xv, xs. -/
def scons (t pc xd xv xs : Nat) (b : Block) : Block :=
  syncIssue b t pc (fun b c =>
    let x := tl b t
    let e := vtEntry b c ((xReg x xv).fld 9 0)
    let st := vtCheck e 19 true
    let k := (xReg x xs).toNat
    let id := slotOfT b t
    if st ≠ 0 then setX (permErr b 2 id (e.fld 11 0)) t xd (wd st)
    else if k < 1 ∨ 1024 < k then setX (kindErr b 2 id (e.fld 11 0)) t xd 3#32
    else setX (sendSync b 2 id 0 (vtDev b e) (e.fld 11 0) true k c) t xd 0#32)

/-- A wait on a cell of this device (R309, R312, R317): the core stands in it until the end of the cycle, when waits are
evaluated on the final value (R321). -/
def waitOn (b : Block) (t xd k mode arg : Nat) : Block :=
  let b := { b with now := { b.now with waits := b.now.waits ++ [t] } }
  setTl b t { tl b t with blocked := .swait k mode arg xd, woken := none }

/-- SWAIT xd, xv, xs, mode. Mode 3 is reserved and ILLEGAL (DESIGN CHOICE, log entry 25). -/
def swait (t pc xd xv xs mode : Nat) (b : Block) : Block :=
  syncIssue b t pc (fun b c =>
    let x := tl b t
    let e := vtEntry b c ((xReg x xv).fld 9 0)
    let st := vtCheck e 18 false
    if 3 ≤ mode then tFault b t 1 pc
    else if st ≠ 0 then setX (permErr b 2 (slotOfT b t) (e.fld 11 0)) t xd (wd st)
    else waitOn b t xd (e.fld 11 0) mode (xReg x xs).toNat)

/-- SBAR xd, xv (R310): a signal of 1, then a wait for the generation after the one read when the arrival is applied. A
REMOTE entry admits only signals, so the barrier's wait is refused with PERM and nothing is signalled. -/
def sbar (t pc xd xv : Nat) (b : Block) : Block :=
  syncIssue b t pc (fun b c =>
    let x := tl b t
    let e := vtEntry b c ((xReg x xv).fld 9 0)
    let st := vtCheck e 20 false
    let k := e.fld 11 0
    let id := slotOfT b t
    if st ≠ 0 then setX (permErr b 2 id k) t xd (wd st)
    else waitOn (sendOp b 2 id 0 k (.arrive t)) t xd k 0 0)

/-- SREAD xd, xv, sel (R317): VAL, AUX, or STATE and KIND; a status other than 0 where the read is refused. -/
def sread (t pc xd xv sel : Nat) (b : Block) : Block :=
  syncIssue b t pc (fun b c =>
    let e := vtEntry b c ((xReg (tl b t) xv).fld 9 0)
    let st := vtCheck e 18 false
    let k := e.fld 11 0
    if st ≠ 0 then setX (permErr b 2 (slotOfT b t) k) t xd (wd st)
    else
      let y := cell b k
      setX b t xd (if sel = 0 then wd y.val else if sel = 1 then wd y.aux
        else wd (stateCode y.state * 2 ^ 30 + kindCode y.kind * 2 ^ 28)))

/-! ## Ripe-flag instructions (R277) -/

/-- FTEST xd, xs. -/
def ftest (t pc xd xs : Nat) (b : Block) : Block :=
  syncIssue b t pc (fun b _ => setX b t xd (wd (b2n (flag b ((xReg (tl b t) xs).toNat % 16384)))))

/-- FWAIT xs. A flag set in this cycle releases it in the next (R277). -/
def fwait (t pc xs : Nat) (b : Block) : Block :=
  syncIssue b t pc (fun b _ =>
    let f := (xReg (tl b t) xs).toNat % 16384
    if flagBefore b f && flag b f then b else setTl b t { tl b t with blocked := .fwait f })

/-- FCLR xs. -/
def fclr (t pc xs : Nat) (b : Block) : Block :=
  syncIssue b t pc (fun b _ => setFlag b ((xReg (tl b t) xs).toNat % 16384) false)

/-- FSET xs. -/
def fset (t pc xs : Nat) (b : Block) : Block :=
  syncIssue b t pc (fun b _ => setFlag b ((xReg (tl b t) xs).toNat % 16384) true)

/-! ## Release (R312, R322, R323) -/

/-- A release of a waiter: a sleeping one, of a context that is not real-time, is counted (R471 bit 6). -/
def released (b : Block) (t : Nat) : Block :=
  let b := setTl b t { tl b t with blocked := .none, woken := none }
  match curCtx b t with
  | some c => if isRt b c then b else nondet b 6
  | none => b

/-- WAIT_RELEASE: the core goes on where its condition was met, its cell faulted or was orphaned, or its flag is set. -/
def waitRelease (t : Nat) (b : Block) : Block :=
  let x := tl b t
  match x.blocked with
  | .swait _ _ _ xd =>
    (match x.woken with
     | some st => setX (released b t) t xd (wd st)
     | none => b)
  | .fwait f => if flagBefore b f && flag b f then released b t else b
  | _ => b

/-! ## Commands to the cells (R324, R328, R311) -/

/-- CMD.LOAD: the named cell into the window registers. -/
def cellLoad (b : Block) : Block :=
  let x := cell b ((rg b Reg.SYNC_CELL_ADDR).fld 11 0)
  let b := setRg b Reg.SYNC_CELL_CFG (wd (stateCode x.state * 2 ^ 30 + kindCode x.kind * 2 ^ 28 + x.owner * 2 ^ 24
    + b2n x.shared * 2 ^ 23 + b2n x.attn * 2 ^ 22 + x.bound))
  let b := setRg (setRg b Reg.SYNC_CELL_VAL_LO (wd x.val)) Reg.SYNC_CELL_VAL_HI (wd (x.val / 2 ^ 32))
  setRg (setRg b Reg.SYNC_CELL_AUX_LO (wd x.aux)) Reg.SYNC_CELL_AUX_HI (wd (x.aux / 2 ^ 32))

/-- The cell that the window registers describe. -/
def windowCell (b : Block) : Cell :=
  let c := rg b Reg.SYNC_CELL_CFG
  { kind := kindOf (c.fld 29 28), state := stateOf (c.fld 31 30), owner := c.fld 27 24, shared := c.bit 23, attn := c.bit 22,
    bound := c.fld 10 0,
    val := (rg b Reg.SYNC_CELL_VAL_HI).fld 15 0 * 2 ^ 32 + (rg b Reg.SYNC_CELL_VAL_LO).toNat,
    aux := (rg b Reg.SYNC_CELL_AUX_HI).fld 15 0 * 2 ^ 32 + (rg b Reg.SYNC_CELL_AUX_LO).toNat }

/-- CMD.APPLY (R328, R330); a host APPLY is a timing-dependent choice (R471 bit 5). -/
def cellApply (b : Block) : Block :=
  let x := windowCell b
  let k := (rg b Reg.SYNC_CELL_ADDR).fld 11 0
  let b := nondet (raise (bump b Reg.SYNC_CNT_MANUAL 1) 0x87 k) 5
  if cellOk x then queueOp b ⟨2, 0, 0, 5, 0, k, .put x⟩ else orRg b Reg.SYNC_STATUS 0x80

/-- The run of context `c` ends (R326, R327): its count clears and the condition of a request it made is over. -/
def dlClear (b : Block) (c : Nat) : Block :=
  let b := safeCond b 15 c false
  { b with sync := { b.sync with run := spPut (fun _ => 0) b.sync.run c 0,
                                 flagged := spPut (fun _ => false) b.sync.flagged c false } }

/-- A write of RESET (R324, R327): the context is lost and its run count cleared. -/
def contextReset (ctx : Nat) (b : Block) : Block :=
  let c := ctx % 16
  dlClear (loseCtx b c) c

/-- An uncorrectable ECC error in a cell (R311, R329): a LIVE cell enters FAULT. -/
def syncEcc (k : Nat) (b : Block) : Block :=
  let k := k % 4096
  let b := orRg (raise (bump b Reg.SYNC_CNT_ECC 1) 0x89 k) Reg.SYNC_STATUS 32
  let b := lastFault b 6 0 0 k
  let x := cell b k
  if x.state = .live then setCell b k { x with state := .fault } else b

end Sys2Proof.Machine
end

