-- ==== Sys2Proof/Machine/Panel.lean ====
section
/-! DEFINITION. One write of a panel register (spec/00_scope.md R17): what it does in the block that owns the register. All
writers come here: the host, the command rings (R373), packets from other devices (R402) and the rows of the opcode table
that stand for the write of one register. -/

namespace Sys2Proof.Machine

/-! ## Registers whose write is a command -/

/-- TB_CTRL (R41, R45); a recording that waits for the start writes its START again (R475). -/
def tbWrite (w : Word) (b : Block) : Block :=
  let en := tbEn b
  let b := tbCtrlWrite w b
  if !en && tbEn b then recTbStart b else if en && !tbEn b then singlesNow b else b

/-- SEQ_CTRL (R74): EN, and GOLD_EN under the SH rule. -/
def seqWrite (w : Word) (b : Block) : Block :=
  nogold (shApply (if w.bit 0 then seqEnable w b else setsNow (seqHalt w b)) Reg.SEQ_CTRL)

/-- SYNC_CELL_CMD (R328): APPLY before LOAD (DESIGN CHOICE, log entry 33). -/
def cellCmd (w : Word) (b : Block) : Block :=
  let b := if w.bit 1 then cellApply b else b
  if w.bit 0 then cellLoad b else b

/-- DSP_CLR (R344). -/
def dspClr (w : Word) (b : Block) : Block :=
  let b := if w.bit 7 then dspClrWait (w.fld 5 0) b else b
  if w.bit 6 then dspClrHwm (w.fld 5 0) b else b

/-- CFG_CMD (R416, R419, R425). -/
def cfgCmd (w : Word) (b : Block) : Block :=
  let op := w.fld 2 0
  if op = 1 then cfgLoad b
  else if op = 2 then cfgCommit b
  else if op = 3 then cfgAbandon b
  else if op = 4 then cfgAttest b
  else if op = 5 then cfgCommitNext b
  else b

/-- CFG_UNIT_CMD (R428, R431, R432, R435). -/
def unitCmd (w : Word) (b : Block) : Block :=
  let op := w.fld 31 28; let cls := w.fld 23 20; let i := w.fld 5 0
  if op = 1 then unitFence cls i b
  else if op = 2 then unitSwap cls i b
  else if op = 3 then unitReadmit cls i b
  else cfgErr b

/-- MEM_PD_CTRL (R490, R491): region by region. A 1 for region 15 is ignored, with CFG_ERR. -/
def pdWrite (w : Word) (b : Block) : Block :=
  let b := (upFrom 0 15).foldl (fun b r => if w.bit r then regionOffReq r b else regionOnReq r b) b
  if w.bit 15 then memCfgErr b else b

/-- PWR_DOM_OFFn (R508, R512): domain by domain. A 1 above domain 141 leaves the register unchanged. -/
def domWrite (n : Nat) (w : Word) (b : Block) : Block :=
  if (upFrom 0 32).any (fun i => decide (142 ≤ 32 * n + i) && w.bit i) then raise (orRg b Reg.PWR_STATUS 4) 0xD4 0
  else (upFrom 0 32).foldl (fun b i => if w.bit i then domOffReq (32 * n + i) b else domWakeReq (32 * n + i) b) b

/-- PWR_SPADt (R509, R510): group by group. -/
def spadWrite (t : Nat) (w : Word) (b : Block) : Block :=
  (upFrom 0 4).foldl (fun b g => if w.bit g then grpOffReq t g b else grpWakeReq t g b) b

/-- SAFE_STEST_CMD (R455). -/
def stestCmd (w : Word) (b : Block) : Block := if w.bit 31 then selfTestGo (w.fld 23 20) (w.fld 5 0) b else b

/-- PWR_CTRL (R498): a warm reset, or nothing. The straps are where they last were (R524). -/
def pwrCtrl (w : Word) (b : Block) : Block :=
  if w.bit 0 ∧ w.fld 31 24 = 0x5A then
    let r := warmBlk 4 b.pwr.straps b
    { r with pwr := { r.pwr with fresh := true } }
  else b

/-- A register at a fixed offset whose write is a command. -/
def fixedCmd (a : Nat) (w : Word) : Option (Block → Block) :=
  if a = Reg.TB_CTRL then some (tbWrite w)
  else if a = Reg.SEQ_CTRL then some (seqWrite w)
  else if a = Reg.WP_MESH_DATA then some (wpMeshDataWrite w)
  else if a = Reg.SYNC_CELL_CMD then some (cellCmd w)
  else if a = Reg.DSP_CLR then some (dspClr w)
  else if a = Reg.HOST_RRD_CMD then some (rrdGo w)
  else if a = Reg.LNK_CTRL then some (linkRetrain w)
  else if a = Reg.CFG_CMD then some (cfgCmd w)
  else if a = Reg.CFG_UNIT_CMD then some (unitCmd w)
  else if a = Reg.SAFE_CTRL then some (safeCtrlWrite w)
  else if a = Reg.SAFE_STEST_CMD then some (stestCmd w)
  else if a = Reg.MEM_PD_CTRL then some (pdWrite w)
  else if a = Reg.MEM_PT_INV then some (ptInvalidate w)
  else if a = Reg.DBG_REC_CTRL then some (recCtrlWrite w)
  else if a = Reg.DBG_RPL_CTRL then some (replayStart w)
  else if a = Reg.PWR_CTRL then some (pwrCtrl w)
  else none

/-- A register of a family whose write is a command. -/
def familyCmd (a : Nat) (w : Word) : Option (Block → Block) :=
  match tblLane a, famIdx a 0xB800 0x20 36 8, famIdx a 0xC100 0x10 16 4, famIdx a 0xD400 8 64 4 with
  | some n, _, _, _ => some (feTblDataWrite n w)
  | _, some t, _, _ => some (dmaResumeWrite t w)
  | _, _, some c, _ => some (if w.bit 0 then contextReset c else id)
  | _, _, _, some f => some (frameCmd f (w.fld 2 0))
  | none, none, none, none =>
    match famIdx a 0xD100 0x10 16 4, famIdx a 0xF440 4 5 0, famIdx a 0xF500 4 36 0 with
    | some c, _, _ => some (crTailWrite c w)
    | _, some n, _ => some (domWrite n w)
    | _, _, some t => some (spadWrite t w)
    | none, none, none => none

/-- R479: DBG_REC_BASE and DBG_REC_SIZE are not written while EN is 1 in either control register. -/
def recRegLocked (b : Block) (a : Nat) : Bool :=
  decide (a = Reg.DBG_REC_BASE_LO ∨ a = Reg.DBG_REC_BASE_HI ∨ a = Reg.DBG_REC_SIZE) && (recOn b || replayOn b)

/-! ## The write -/

/-- A write of `w` to the panel register at offset `a`: nothing where no register lies (R527). A written register that is
read through a snapshot shows the written value (R17, DESIGN CHOICE, log entry 33). -/
def panelWrite (a : Nat) (w : Word) (b : Block) : Block :=
  if isReg a = false ∨ recRegLocked b a = true then b
  else match fixedCmd a w with
    | some f => f b
    | none =>
      match familyCmd a w with
      | some f => f b
      | none =>
        let b := settingWrite a w b
        if isSnapped a ∧ (rowOf a).rw ||| (rowOf a).sh ≠ 0 then setSnap b a (rg b a) else b

/-- Can the register at `a` be written at all (R372 status 2)? -/
def writable (a : Nat) : Bool :=
  match regRow? a with
  | some r => decide (r.rw ||| r.sh ||| r.w1c ||| r.wo ≠ 0)
  | none => false

/-! ## Rows that stand for one write -/

/-- TB_ENABLE and TB_DISABLE: a write whose EN is 1, or 0. -/
def tbEnable (w : Word) (b : Block) : Block := tbWrite (w ||| 1#32) b
def tbDisable (w : Word) (b : Block) : Block := tbWrite (w &&& 0xFFFFFFFE#32) b

/-- TB_DIR_CHANGE and TB_SRC_CHANGE: a write whose DIR, or SRC, differs from the value as it stands. -/
def tbDirChange (w : Word) (b : Block) : Block := tbWrite w b
def tbSrcChange (w : Word) (b : Block) : Block := tbWrite w b

end Sys2Proof.Machine
end

