-- ==== Sys2Proof/Machine/Tick.lean ====
section
/-! DEFINITION. The line tick (spec/01_position_timebase.md R28 to R38) and everything that happens in cycle 0 of its line:
the commands of the command rings (spec/16 R373), a cutover, the SH latch, the opening of the row (spec/02 R46, R58), and
the checks made at each tick or sheaf boundary. -/

namespace Sys2Proof.Machine

/-! ## Which tick arrives (R29) -/

/-- The tick that arrives in the present core cycle, where the core clock runs (R497). -/
def arriving (b : Block) : Option Flight :=
  b.tb.flight.filter (fun i => b.pwr.core && decide (i.arrive = b.pwr.ccy))

/-- Does the rachis open a row at a tick (R74)? -/
def rowsOpen (b : Block) : Bool :=
  (rg b Reg.SEQ_CTRL).bit 0 && decide ((rg b Reg.SEQ_STATUS).fld 1 0 ≠ 0)

/-- The records of a port learn of the tick (R80, R81): those whose reference row it opens begin to count stamps, and one that
waits for the next firing of its output takes this row where the output fires for the line. -/
def portsAtTick (b : Block) (k : Nat) : Block :=
  b.ports.foldl (fun b e =>
    let p := prt b e.1
    setPrt b e.1 { p with recs := p.recs.map (fun r =>
      if r.ref = some k ∧ r.refC = none then { r with refC := some b.pwr.ccy }
      else if r.ref = none ∧ r.line ≠ k ∧ trigServes b r.out k = true then { r with ref := some k, refC := some b.pwr.ccy }
      else r) }) b

/-- Cycle 0 of the tick's line. -/
def tickArrives (b : Block) (i : Flight) : Block :=
  let b := if i.bound then { b with once := [] } else b
  portsAtTick { b with tb := { b.tb with flight := none, lastTick := some b.pwr.ccy, tickLine := i.line } } i.line

/-! ## Rows (R46, R58, R74) -/

/-- Slots of skipped rows that no SLOT_OPEN of the row now ending has made up for (R58): they are made up for now. -/
def leftovers (b : Block) : Block :=
  match b.seq.row with
  | none => b
  | some _ =>
    if b.seq.skipped = [] then b
    else
      (allStages b).foldl (fun b st => (bankKeys b st).foldl (fun b k =>
        if b.seq.opened.contains (st, k.1) then b else b.seq.skipped.foldl (fun b r => openRow b st r true k.2) b) b) b

/-- Invocations that nothing can concern any more are forgotten. -/
def forgetInvs (b : Block) : Block :=
  { b with seq := { b.seq with invs := b.seq.invs.filter (fun v => !(v.done && v.closed)) } }

/-- The row that opened before the one now opening, since line numbers began anew. -/
def lastRow (b : Block) : Option Nat := if b.seq.restart then none else b.seq.row

/-- Lines whose last row has opened are forgotten (R58, R74). -/
def keepLines (b : Block) (l : List Nat) : List Nat :=
  match lastRow b with
  | none => l
  | some p => l.filter (fun m => !lineGe p (lineAdd m ((rg b Reg.SEQ_LAG).fld 9 0)))

/-- The line of the preset position is forgotten likewise (R74). -/
def keepBase (b : Block) : Option Nat :=
  match lastRow b, b.seq.base with
  | some p, some m => if lineGe p (lineAdd m ((rg b Reg.SEQ_LAG).fld 9 0)) then none else some m
  | _, m => m

/-- The items of the tick for headers of its line, with those of lines still served (R31, R93). -/
def keepTicks (b : Block) (i : Flight) : Block :=
  let l := b.seq.ticks.filter (fun e => !lineGe i.line (lineAdd e.1 1024))
  { b with seq := { b.seq with ticks := spPut (fun _ => 0) l i.line (b2n i.bound * 32 + b2n i.late * 16 + i.phase) } }

/-- Skipped rows are counted (R58). -/
def skipRows (b : Block) (l : List Nat) : Block :=
  l.foldl (fun b m => raise (bump b Reg.SEQ_CNT_ROW_SKIP 1) 0x23 m) b

/-- The rachis opens the row of the tick; the rows of missed lines are skipped. A line that is ticked again after line numbers have
begun anew is neither missed nor unticked any more. -/
def rowOpen (b : Block) (i : Flight) : Block :=
  let b := forgetInvs (leftovers b)
  let b := skipRows b i.miss
  let b := { b with seq := { b.seq with
    missed := (keepLines b b.seq.missed).filter (fun m => m ≠ i.line) ++ i.miss,
    unticked := (keepLines b b.seq.unticked).filter (fun m => m ≠ i.line), base := keepBase b,
    skipped := i.miss, prevRow := lastRow b, restart := false, row := some i.line, rowC := b.pwr.ccy, opened := [], stale := [],
    scanned := false } }
  let b := setF b Reg.SEQ_STATUS 1 0 2
  setRg (setRg b Reg.SEQ_ROW_LO (wd i.line)) Reg.SEQ_ROW_HI (wd (i.line / 2 ^ 32))

/-- The tick opens no row (R74): its line, and a line missed with it, are unticked. -/
def rowless (b : Block) (i : Flight) : Block :=
  { b with seq := { b.seq with unticked := b.seq.unticked ++ i.miss ++ [i.line] } }

/-- The tick arrives, unless it has already done so in this cycle. -/
def arrive (b : Block) : Block :=
  match arriving b with
  | none => b
  | some i =>
    let opens := rowsOpen b
    let b := keepTicks (tickArrives b i) i
    let b := if opens then rowOpen b i else rowless b i
    { b with seq := { b.seq with arrived := some ⟨i.line, opens, i.bound⟩ } }

/-! ## Commands that take effect in cycle 0 of their row (R373) -/

/-- DONE, STATUS 0 and DONE_LINE of an accepted descriptor (R371). -/
def cmdDone (b : Block) (addr row : Nat) : Block :=
  wiWr (wiWr b (addr + 24) (wd row)) (addr + 28)
    ((wiRd b (addr + 28) &&& 0x0FFFF000#32) ||| wd (2 ^ 31 + row / 2 ^ 32 % 4096))

/-- WRITE32: one register write of the bits that ARG2 takes; the others keep the register's value. -/
def cmdWrite (p : PendCmd) (b : Block) : Block :=
  let a := p.arg0.toNat
  -- a kept W1C bit is written 0
  let keep := liveReg b a &&& ~~~ p.arg2 &&& ~~~ (wd (rowOf a).w1c)
  panelWrite a (keep ||| (p.arg1 &&& p.arg2)) b

/-- SIGNAL: a signal or consumer advance at a cell of this device, at step 7 of R321. -/
def cmdSync (p : PendCmd) (b : Block) : Block :=
  let k := p.arg0.fld 11 0
  sendOp { b with now := { b.now with via := 0 } } 5 0 0 k (if p.arg0.bit 16 then .advance p.arg1.toNat else .signal p.arg1.s32)

/-- MARK: a MARK record before the line record of the row's line. -/
def cmdPlaceMark (p : PendCmd) (row : Nat) (b : Block) : Block :=
  { b with seq := { b.seq with marks := b.seq.marks ++ [(row, p.tag)] } }

/-- GOLDEN_REQ (R448). -/
def cmdGolden (p : PendCmd) (row : Nat) (b : Block) : Block :=
  if (rg b Reg.SAFE_GREQ).bit 31 then bump b Reg.SAFE_CNT_GREQ_MERGE 1
  else
    let b := setRg b Reg.SAFE_GREQ (wd (2 ^ 31 + p.tag % 2 ^ 16))
    { b with safe := { b.safe with greqRow := row } }

/-- The effect of a command by its OP. -/
def cmdEffect (p : PendCmd) (row : Nat) (b : Block) : Block :=
  if p.op = 1 then cmdWrite p b
  else if p.op = 2 then cmdSync p b
  else if p.op = 3 then cmdPlaceMark p row b
  else if p.op = 4 then cmdGolden p row b
  else b

/-- The oldest accepted command whose row of effect has come, and the queue without it. -/
def takeDue (row : Nat) : List PendCmd → Option (PendCmd × List PendCmd)
  | [] => none
  | p :: l => if lineGe row p.rowAt then some (p, l) else (takeDue row l).map (fun r => (r.1, p :: r.2))

/-- A command takes effect in cycle 0 of `row`. -/
def applyCmd (row : Nat) (b : Block) (p : PendCmd) : Block := cmdEffect p row (cmdDone b p.addr row)

/-- A row CMD_x of the table: the tick arrives, and the oldest due command takes effect if its OP is `op`. -/
def cmdStep (op : Nat) (b : Block) : Block :=
  let b := arrive b
  match b.seq.arrived with
  | none => b
  | some t =>
    if t.opens then
      (match takeDue t.line b.seq.pend with
       | none => b
       | some r => if r.1.op = op then applyCmd t.line { b with seq := { b.seq with pend := r.2 } } r.1 else b)
    else b

/-- All due commands that are left, in order; a warm reset among them ends the rest. -/
def applyDue (row : Nat) : Nat → Block → Block
  | 0, b => b
  | n + 1, b =>
    if b.pwr.fresh then b
    else match takeDue row b.seq.pend with
      | none => b
      | some r => applyDue row n (applyCmd row { b with seq := { b.seq with pend := r.2 } } r.1)

/-- R369: commands that take effect in this cycle do so before a host write of the same cycle. -/
def commandsFirst (b : Block) : Block :=
  let b := arrive b
  match b.seq.arrived with
  | some t => if t.opens then applyDue t.line 256 b else b
  | none => b

/-- R83: within one cycle the records of triggers that fired are created, and the row that opens gives its records their
origin, before a port accepts a line start. -/
def recordsFirst (n : Nat) (b : Block) : Block :=
  let b := arrive b
  fireDue ((cpCfg b n).fld 7 5) b

/-! ## What cycle 0 does after the commands -/

/-- R276: the releases of row `j`. -/
def releaseRow (j : Nat) (b : Block) : Block :=
  let gold := (rg b Reg.SEQ_GOLD).fld 9 0
  (b.sched.rings ++ b.cfg.old.flatMap (fun o => o.sched.rings)).foldl (fun b r =>
    let m := lineSub j r.rel
    let x : RingRef := ⟨r.first, r.count, r.depth⟩
    if r.gold = false ∨ m % 1024 = gold then setFlags b (x.flag0 m) r.count false else b) b

/-- R448: a pending request is served by the first golden slot whose reference row opens after its row of effect. -/
def greqPick (j : Nat) (b : Block) : Block :=
  if (rg b Reg.SAFE_GREQ).bit 31 ∧ b.safe.greq = none ∧ j % 1024 = (rg b Reg.SEQ_GOLD).fld 9 0 ∧
      (frc b Reg.SEQ_CTRL).bit 1 = true ∧ lineGt j b.safe.greqRow = true then
    { b with safe := { b.safe with greq := some j } }
  else b

/-- The row's own work in cycle 0: flags of released entries and of old banks, the golden request (R276, R427, R448). What
fell in skipped rows is done first. -/
def rowWork (j : Nat) (b : Block) : Block :=
  let b := (b.seq.skipped ++ [j]).foldl (fun b r => releaseRow r b) b
  greqPick j (releaseOld j b)

/-! ### The determinism set (R469, R470) -/

/-- Items that CRC_B covers, in the order of the table; a field of a register is taken at its place in the register. The
second list is what stands between rows of the first (DEDUCED, log entry 36): SH registers are taken as in force. -/
def dsetSys (b : Block) : List Word :=
  [rg b Reg.PANEL_ID, rg b Reg.PANEL_STEP, rg b Reg.PANEL_ROM, rg b Reg.CFG_BASE_VER] ++ (upFrom 0 8).map (fun p => rg b (Reg.CFG_PART_VER p)) ++
  (upFrom 0 32).filterMap (fun s => (physOf b 0 s).map (fun t => rg b (Reg.TLR_FW_VER t)))

/-- The unit map: STATE and SLOT of every unit, by class and physical number. -/
def dsetUnits (b : Block) : List Word :=
  (upFrom 0 6).flatMap (fun c => (upFrom 0 (classSize c)).map (fun p =>
    let u := unitOf b c p
    wd (u.st % 8 * 2 ^ 29 + u.slot % 64)))

/-- Timebase, sequencer, ports. -/
def dsetIngest (b : Block) : List Word :=
  [rg b Reg.TB_CTRL &&& 0x7E#32, frc b Reg.TB_SCALE] ++ (upFrom 0 8).map (fun n => frc b (Reg.TB_TRIG_CFG n)) ++
  [frc b Reg.SEQ_CTRL &&& 2#32, frc b Reg.SEQ_SCAN] ++
  (upFrom 0 8).flatMap (fun n => [frc b (Reg.FE_PORT_CFG n), frc b (Reg.FE_PORT_LEN n), frc b (Reg.FE_PORT_WIN n),
    frc b (Reg.FE_PORT_WIN_END n)])

/-- Arbitration, memory modes, host rings. -/
def dsetTiming (b : Block) : List Word :=
  [frc b Reg.STRM_ARB, frc b Reg.STRM_WHEEL] ++ (upFrom 0 36).map (fun t => frc b (Reg.DMA_STAGE t)) ++
  [frc b Reg.LNK_VC_WHEEL] ++
  (upFrom 0 36).flatMap (fun t => [frc b (Reg.TLR_SPAD_CFG t), frc b (Reg.TLR_CACHE_BASE t)]) ++
  [rg b Reg.HOST_CTRL &&& 0xFFFF0000#32] ++ (upFrom 0 16).map (fun c => rg b (Reg.HOST_CR_CFG c))

/-- DBG_DSET_CRC and DBG_DSET_CRC_B. -/
def dsetCrc (b : Block) : Block :=
  let all := crc32 (wordBytes (dsetSys b ++ dsetUnits b ++ dsetIngest b ++ dsetTiming b))
  setRg (setRg b Reg.DBG_DSET_CRC all) Reg.DBG_DSET_CRC_B (crc32 (wordBytes (dsetSys b ++ dsetIngest b)))

/-- R474: the SHEAF record of sheaf `n`. -/
def recSheaf (n : Nat) (b : Block) : Block := record b true 6 1 0 0 0 (wd n) (rg b Reg.DBG_NONDET_COUNT) 0#32 []

/-! ### Sheaf boundaries -/

/-- R408: receivers dropped in the sheaf that ends take part again. -/
def pnAgain (b : Block) : Block :=
  (upFrom 0 16).foldl (fun b p =>
    if (pnSt b p).dropped then setF (setPn b p { pnSt b p with dropped := false }) (Reg.LNK_PN_STAT p) 31 31 0 else b) b

/-- What a sheaf boundary does, in the order of R373, R425, R118, R470 and after. `j` is the line of the tick. -/
def boundary (j : Nat) (b : Block) : Block :=
  let n := sheafOf j
  let b := shLatch n (cutover (n * 1024) b)
  let b := recSheaf n (dsetCrc b)
  let b := (upFrom 0 8).foldl (fun b l => headLate b l n) b
  linkResume (mapSpares (nogold (ffiCheck (pnAgain b))))

/-! ### The deadlock detector (R326) -/

/-- The blocked tillers of context `c`: logical slot and what the core waits for. -/
def dlSlots (b : Block) (c : Nat) : List (Nat × Blocked) :=
  b.tlr.filterMap (fun e => match e.2.task with
    | some p => if p.ctx = c ∧ tBlocked e.2 = true ∧ slotOfT b e.1 < 32 then some (slotOfT b e.1, e.2.blocked) else none
    | none => none)

/-- The blocked tiller with the lowest slot. -/
def dlLowest (l : List (Nat × Blocked)) : Option Blocked :=
  (sortBy (fun p q => decide (p.1 < q.1)) l).head?.map Prod.snd

/-- SYNC_CTXc_DL_SET and DL_CELL. A tiller that waits on a halted channel names no cell: DL_CELL stays (DEDUCED, log entry
36). -/
def dlRecord (b : Block) (c : Nat) : Block :=
  let l := dlSlots b c
  let b := setRg b (Reg.SYNC_CTX_DL_SET c) (wd (((l.map Prod.fst).eraseDups).foldl (fun m s => m + 2 ^ s) 0))
  match dlLowest l with
  | some (.swait k _ _ _) => setRg b (Reg.SYNC_CTX_DL_CELL c) (wd k)
  | some (.fwait f) => setRg b (Reg.SYNC_CTX_DL_CELL c) (wd (2 ^ 31 + f))
  | _ => b

/-- The detector of context `c` at a tick. -/
def dlTick (b : Block) (c : Nat) : Block :=
  if spGet (fun _ => false) b.sync.broken c then dlClear b c
  else
    let n := spGet (fun _ => 0) b.sync.run c + 1
    let b := { b with sync := { b.sync with run := spPut (fun _ => 0) b.sync.run c n } }
    let cfg := frc b (Reg.SYNC_CTX_CFG c)
    if cfg.fld 15 0 ≠ 0 ∧ cfg.fld 15 0 ≤ n ∧ spGet (fun _ => false) b.sync.flagged c = false then
      let b := { b with sync := { b.sync with flagged := spPut (fun _ => false) b.sync.flagged c true } }
      let b := raiseS (orRg (dlRecord b c) Reg.SYNC_STATUS 64) 0x86 c (cfg.bit 30)
      if cfg.bit 30 then safeCond (safeReq b 15 c) 15 c true else b
    else b

/-- All sixteen detectors; a new interval begins. -/
def dlTicks (b : Block) : Block :=
  let b := (upFrom 0 16).foldl dlTick b
  { b with sync := { b.sync with broken := [] } }

/-! ## The whole tick -/

/-- The rest of cycle 0 of an arrived tick. -/
def finishTick (t : Arrived) (b : Block) : Block :=
  let b := if t.opens then applyDue t.line 256 b else b
  if b.pwr.fresh then b
  else
    let b := { b with seq := { b.seq with arrived := none } }
    let b := if t.bound then boundary t.line b else b
    let b := if t.opens then rowWork t.line b else b
    intakeRelease (dipTick (dlTicks b)) t.line

/-- LINE_TICK. -/
def lineTick (b : Block) : Block :=
  let b := arrive b
  match b.seq.arrived with
  | none => b
  | some t => finishTick t b

end Sys2Proof.Machine
end

