-- ==== Sys2Proof/Machine/Window.lean ====
section
/-! DEFINITION. The host window (spec/16_host_port.md R359, R365 to R368, R380 to R383) and the writes of one device to
another (spec/17_multi_device.md R402). -/

namespace Sys2Proof.Machine

/-! ## The address rule of R359 -/

/-- The window offset of the byte that a host access names: channel, row, bank (the bank group in its upper two bits),
column and byte within the column. The host rows carry this offset. -/
def portOffset (ch row bank col byte : Nat) : Nat :=
  ch % 2 * 2 ^ 32 + row % 2 ^ 17 * 2 ^ 15 + bank % 16 * 2 ^ 11 + col % 1024 * 2 + byte % 2

/-! ## Discarded writes (R366, R528) -/

/-- A discarded write counts, and the first of a sheaf raises HOST_DISCARD. -/
def discard (b : Block) : Block := raiseOnce (bump b Reg.HOST_CNT_DISCARD 1) 0x9C 0 0

/-- While the core clock is gated only the PANEL_, PWR_ and CLK_ blocks answer (R528). -/
def gatedOff (b : Block) (a : Nat) : Bool :=
  !b.pwr.core && !decide (a < 0x2000 ∨ (0xF400 ≤ a ∧ a < 0xF900))

/-- What replay leaves to the live host (R476): the DBG_ block, HOST_RRr_RD, HOST_EVT_RD, HOST_ATTN_MASK. -/
def liveInReplay (off : Nat) : Bool :=
  decide (0xF000 ≤ off ∧ off < 0xF100) || decide (off = Reg.HOST_EVT_RD ∨ off = Reg.HOST_ATTN_MASK) ||
  (famIdx off 0xD200 0x20 16 8).isSome

/-! ## Writes that reach this device -/

/-- The word with the bytes of `keep` left as they were. -/
def mergeBytes (old new : Word) (keep : Nat) : Word :=
  let m := wd ((upFrom 0 4).foldl (fun n i => if nbit keep i then n else n + 255 * 2 ^ (8 * i)) 0)
  (old &&& ~~~ m) ||| (new &&& m)

/-- A write to a panel register of this device; nothing where no register lies (R527). `sub` is the SUB of its HOST record (R474). A
write that leaves the frame command register is a frame operation there. -/
def putPanel (sub a : Nat) (data : Word) (b : Block) : Block :=
  if isReg a = false then b
  else if gatedOff b a then discard b
  else panelWrite a data (recHost b (if sub = 0 ∧ (famIdx a 0xD400 8 64 4).isSome = true then 5 else sub) a data 15)

/-- A masked write to the panel region: discarded, and counted where a register lies (R366, R527). -/
def maskedPanel (a : Nat) (b : Block) : Block := if isReg a then discard b else b

/-- A write to the command rings of this device. `sub` is 0 for a write of this device's host, as at `putPanel`. -/
def putRing (sub off : Nat) (data : Word) (keep : Nat) (b : Block) : Block :=
  wiWr (recHost b (if sub = 0 then 1 else sub) off data (15 - keep % 16)) off (mergeBytes (wiRd b off) data keep)

/-- A write to the first 2 MiB of this device: panel registers, or command rings. -/
def putLow (sub off : Nat) (data : Word) (keep : Nat) (b : Block) : Block :=
  if off < 0x100000 then (if keep % 16 = 0 then putPanel sub off data b else maskedPanel off b) else putRing sub off data keep b

/-- A write to a frame (R383): it takes effect where the frame is READY. -/
def putFrame (off : Nat) (data : Word) (keep : Nat) (b : Block) : Block :=
  let f := (off - 0x180000000) / 0x10000
  let k := f * 1024 + (off - 0x180000000) % 0x10000 / 64
  if frameSt b f ≠ 2 then discard b
  else
    let b := recHost b 5 off data (15 - keep % 16)
    let b := { b with host := { b.host with touched := b.host.touched.filter (· ≠ k) ++ [k] } }
    wiWr b off (mergeBytes (wiRd b off) data keep)

/-! ## Sync aperture (R380, R316) -/

/-- A write to the sync aperture by channel `ch`, in whose order its operation is applied (R321 step 7). It is recorded by the device
of the cell (R475). -/
def apertureWrite (ch off : Nat) (data : Word) (b : Block) : Block :=
  let o := off - 0x400000
  let adv := decide (o / 2 ^ 20 = 1); let dev := o / 2 ^ 14 % 64; let k := o / 4 % 4096
  let v := data.s32
  if data = 0#32 ∨ (adv = true ∧ (v < 1 ∨ 1024 < v)) ∨ b.pwr.core = false then discard b
  else
    if dev = devOf b then
      let b := recHost b 2 off data 15
      sendOp { b with now := { b.now with via := 1 + ch } } 5 0 0 k (if adv then .advance v.toNat else .signal v)
    else if isHead b then (sendTo b dev (.sync adv k v 0 true)).1 else b

/-! ## Other devices (R381, R382, R402, R403) -/

/-- A broadcast write at this device: applied where sub-aperture `g` reaches it. `sub` is the SUB of its HOST record. -/
def bcastHere (sub g off : Nat) (data : Word) (keep : Nat) (b : Block) : Block :=
  if g = 0 ∨ inGroup b (g - 1) (devOf b) = true then putLow sub off data keep b else b

/-- A host write to the broadcast aperture. -/
def bcastWrite (off : Nat) (data : Word) (keep : Nat) (b : Block) : Block :=
  let o := off - 0x140000000
  let g := o / 0x200000; let lo := o % 0x200000
  if lo < 0x100000 ∧ keep % 16 ≠ 0 then maskedPanel lo b
  else if isHead b = false then b
  else
    let p := mkPacket b 64 ((upFrom 0 (xDim b * yDim b)).filter (fun d => decide (d ≠ devOf b))) (.bcast g lo data keep)
    bcastHere 0 g lo data keep (treeForward p.2 p.1 (fun _ => true))

/-- A host write to the window of another device: its first 2 MiB are forwarded. -/
def deviceWrite (off : Nat) (data : Word) (keep : Nat) (b : Block) : Block :=
  let d := (off - 0x100000000) / 0x1000000; let o := off % 0x1000000
  if 0x200000 ≤ o then b
  else if o < 0x100000 ∧ keep % 16 ≠ 0 then maskedPanel o b
  else if isHead b then (sendTo b d (.regWrite o data keep)).1 else b

/-! ## The map of R365 -/

/-- A write by channel `ch` to the local regions below 0x200_0000 and to the frames. -/
def localWriteWin (ch off : Nat) (data : Word) (keep : Nat) (b : Block) : Block :=
  if off < 0x200000 then putLow 0 off data keep b
  else if off < 0x202000 ∨ (0x210000 ≤ off ∧ off < 0x220000) ∨ (0x1000000 ≤ off ∧ off < 0x2000000) then discard b
  else if 0x400000 ≤ off ∧ off < 0x600000 then (if keep % 16 = 0 then apertureWrite ch off data b else discard b)
  else if 0x180000000 ≤ off ∧ off < 0x180400000 then putFrame off data keep b
  else b

/-- A write at a window offset, past the rules of replay. Bit 32 of the offset is the channel (R359). -/
def winWrite (off : Nat) (data : Word) (keep : Nat) (b : Block) : Block :=
  if 0x100000000 ≤ off ∧ off < 0x140000000 then
    (if (off - 0x100000000) / 0x1000000 = devOf b then localWriteWin 1 (off % 0x1000000) data keep b
     else deviceWrite off data keep b)
  else if 0x140000000 ≤ off ∧ off < 0x141200000 then bcastWrite off data keep b
  else localWriteWin (off / 2 ^ 32 % 2) off data keep b

/-- A write by the live host of the word at `off`; bit `i` of `keep` masks byte `i`. Nothing reaches the port before it has
left high impedance (R500). -/
def hostWrite (off : Nat) (data : Word) (keep : Nat) (b : Block) : Block :=
  let off := off / 4 * 4
  if b.pwr.port = false then b
  else if replayOn b && !liveInReplay off then discard b
  else winWrite off data keep b

/-- A write by the debug port: it reaches the panel registers (R525), without the host port and past replay's rule for the live
host (DESIGN CHOICE, log entry 83). -/
def debugWrite (off : Nat) (data : Word) (b : Block) : Block :=
  let a := off / 4 * 4
  if isReg a = false then b else if gatedOff b a then discard b else panelWrite a data b

/-! ## Reads (R363, R365, R367, R368) -/

/-- The mirror copy of the register at `a` as a read returns it: an HI register through its snapshot. -/
def panelVal (b : Block) (a : Nat) : Word :=
  if isReg a = false then 0#32
  else if isSnapped a then snapOf b a
  else if (stepOf a).isSome && !gatedOff b a then stepVal b a
  else hideReserved a (mir b a)

/-- What a read of the register at `a` does beside returning its value: it snapshots, and a stepping register steps. -/
def panelReadFx (a : Nat) (b : Block) : Block :=
  let b := (snapsOf a).foldl (fun b h => setSnap b h (mir b h)) b
  match stepOf a with
  | some f => if gatedOff b a then b else stepRead a f b
  | none => b

/-- The status region (R378) and the recording-ring status (R472). -/
def statusWord (p : Published) (b : Block) (off : Nat) : Word :=
  if off = 0x200000 then attnWord b p.seq
  else if off = 0x200004 then wd (b2n (decide (safeState b = 2)) * 2 ^ 31 + b.tb.frontier / 2 ^ 32 % 4096)
  else if off = 0x200008 then wd b.tb.frontier
  else if off = 0x20000C then wd p.seq
  else if off = 0x201000 then wd (recBase b)
  else if off = 0x201004 then wd (recBase b / 2 ^ 32)
  else if off = 0x201008 then wd (recSize b / 65536)
  else if off = 0x20100C then wd b.dbg.wrOff
  else if off = 0x201010 then wd b.dbg.wraps
  else if off = 0x201014 then rg b Reg.DBG_REC_CNT_LOST
  else 0#32

/-- The word that a read at a window offset returns. -/
def winRead (p : Published) (b : Block) (off : Nat) : Word :=
  if off < 0x100000 then panelVal b off
  else if off < 0x200000 then wiRd b off
  else if off < 0x202000 then statusWord p b off
  else if 0x210000 ≤ off ∧ off < 0x220000 then wAt (spGet evNone p.ring ((off - 0x210000) / 16)) (off / 4 % 4)
  else if 0x400000 ≤ off ∧ off < 0x500000 then
    (if (off - 0x400000) / 2 ^ 14 = devOf b then wd (cell b (off / 4 % 4096)).val else 0#32)
  else if 0x1000000 ≤ off ∧ off < 0x2000000 then wiRd b off
  else if 0x180000000 ≤ off ∧ off < 0x180400000 then wiRd b off
  else 0#32

/-- HOST_READ: the data stand in `rdata`. -/
def hostRead (off : Nat) (p : Published) (b : Block) : Block :=
  let off := off / 4 * 4
  if b.pwr.port = false then b
  else
    let w := winRead p b off
    let b := if off < 0x100000 then panelReadFx off b else b
    { b with host := { b.host with rdata := w } }

/-- A read by the debug port: the mirror copy of a panel register, as a read of the host takes it (R525). -/
def debugRead (off : Nat) (b : Block) : Block :=
  let a := off / 4 * 4
  let w := panelVal b a
  let b := panelReadFx a b
  { b with host := { b.host with rdata := w } }

/-- The registers whose mirror copies are updated together with that at `a` (R367). -/
def pairOf (a : Nat) : List Nat :=
  let heads := [a, a - 4, a - 8, a - 12].filter (fun h => decide (h = a) || (snapsOf h).contains a)
  heads.flatMap (fun h => h :: snapsOf h)

/-- MIRROR_UPDATE. While the core clock is gated the copies of its domain stay as they are (R528). -/
def mirrorUpdate (a : Nat) (b : Block) : Block :=
  if isReg a = false ∨ gatedOff b a = true then b
  else
    (pairOf a).foldl (fun b h => { b with regs := { b.regs with mirror := spPut regReset b.regs.mirror h (liveReg b h) } }) b

/-- Is the offset in the region from `lo` to `hi`? The rows that name one region of the window do nothing elsewhere. -/
def inWin (lo hi off : Nat) : Bool := decide (lo ≤ off ∧ off < hi)

end Sys2Proof.Machine
end

