-- ==== Sys2Proof/Machine/Arrival.lean ====
section
/-! DEFINITION. What arrives over the Mutil links (spec/17_multi_device.md R391 to R408): the CRC and the replay, the order
of each (source, destination, channel), forwarding, and what each kind of packet does here. -/

namespace Sys2Proof.Machine

/-! ## At the head (R398 to R401) -/

/-- RESULT_RECORD_ARRIVAL: a member's record takes the next SEQ of the head's ring. -/
def resultArrive (ring : Nat) (ws : List Word) (b : Block) : Block :=
  if devOf b = 0 ∧ ring < 16 then rrWrite b ring ws else b

/-- SAFE_RECORD_ARRIVAL: to the head's ring HOST_CTRL.SAFE_RING. -/
def safeArrive (ws : List Word) (b : Block) : Block :=
  if devOf b = 0 then safeWrite b ws else b

/-- EVENT_FORWARD_ARRIVAL: the head's thresher takes a member's record. -/
def eventArrive (ws : List Word) (b : Block) : Block :=
  if devOf b = 0 then
    let w := wAt ws 0
    { b with raised := b.raised ++ [⟨w.fld 31 24, w.fld 11 0, w.bit 17, some ws⟩] }
  else b

/-- EVT_LOST_FORWARD: space has come free in a member's forwarding queue after records were discarded. -/
def evtLost (p : Published) (b : Block) : Block :=
  if 0 < p.lost ∧ p.fwdQ.length < 256 ∧ devOf b ≠ 0 then raise b 0xA6 (min 4095 p.lost) else b

/-! ## Kinds of packet -/

/-- A glume answer reaches the stream slot that waits for it; a slot without a unit drops it (R429). -/
def glumeAnswer (rslot : Nat) (f : Nat → Block → Block) (b : Block) : Block :=
  match physOf b 0 rslot with
  | some t => f t b
  | none => fenceDrop b 0 rslot

/-- Part of a member's result record arrives; its last part completes it (R391, R398). A part of a record whose earlier parts were
lost is dropped (R396). -/
def resultPart (src ring : Nat) (first last : Bool) (ws : List Word) (b : Block) : Block :=
  let old := b.links.parts.find? (fun e => e.1 = src)
  let rest := b.links.parts.filter (fun e => e.1 ≠ src)
  let put := fun (l : List (Nat × List Word)) => { b with links := { b.links with parts := l } }
  match (if first then some ws else old.map (fun e => e.2 ++ ws)) with
  | none => b
  | some all => if last then resultArrive ring all (put rest) else put (rest ++ [(src, all)])

/-- What a packet for this device does, in its turn. -/
def applyPacket (p : Packet) (errs : List (Nat × EccStat)) (b : Block) : Block :=
  match p.body with
  | .regWrite off data keep => putLow 3 off data keep (commandsFirst b)
  | .bcast g off data keep => bcastHere 3 g off data keep (commandsFirst b)
  | .rrdReq off => (let r := remoteRead b off; (sendTo r.2 p.src (.rrdAns r.1)).1)
  | .rrdAns data => rrdEnd b true data
  | .sync adv k inc ctx host => arriveSync b p.src adv (k % 4096) inc ctx host
  | .event ws => eventArrive ws b
  | .unreach dev what vc nums => unreachNotice dev what vc nums b
  | .safeRec ws => safeArrive ws b
  | .result ring first last ws => resultPart p.src ring first last ws b
  | .glumeWr .. => glumeRequest p errs b
  | .glumeRd .. => glumeRequest p errs b
  | .glumeData rslot strm bytes => glumeAnswer rslot (fun t b => dmaUnit b t strm errs [] bytes) b
  | .glumeRej rslot strm cause => glumeAnswer rslot (fun t b =>
      if (slotOf (tl b t) strm).inFlight then markBad b t strm cause else b) b
  | .panicle q off bytes first last incs ctx rslot strm => panicleHere b q off bytes first last incs ⟨4, p.src, 0, ctx⟩ rslot strm errs

/-! ## Order (R395) -/

/-- The triple of a packet for this device, by source and channel. -/
def tripleOf (p : Packet) : Nat := p.src * 4 + p.vc

/-- The sequence number that a triple awaits. -/
def awaited (b : Block) (k : Nat) : Nat := spGet (fun _ => 0) b.links.rxSeq k

/-- The number of a packet in the triple of this device; none where it is not for it. -/
def numHere (b : Block) (p : Packet) : Option Nat := (p.nums.find? (fun n => decide (n.1 = devOf b))).map (·.2)

/-- The awaited number of a triple is past. -/
def passNumber (k : Nat) (b : Block) : Block :=
  { b with links := { b.links with rxSeq := spPut (fun _ => 0) b.links.rxSeq k (awaited b k + 1) } }

/-- A number that will not come is past; a result record of which it was a part is lost (R396). -/
def passVoid (k : Nat) (b : Block) : Block :=
  let b := passNumber k { b with links := { b.links with voidRx := b.links.voidRx.filter (· ≠ (k, awaited b k)) } }
  if k % 4 = 1 then { b with links := { b.links with parts := b.links.parts.filter (fun e => e.1 ≠ k / 4) } } else b

/-- Packets of a triple whose turn has come are applied, and numbers that will not come are passed; `n` bounds how many. -/
def drain (errs : List (Nat × EccStat)) (k : Nat) : Nat → Block → Block
  | 0, b => b
  | n + 1, b =>
    match b.links.early.find? (fun p => decide (tripleOf p = k ∧ numHere b p = some (awaited b k))) with
    | some p =>
      drain errs k n (applyPacket p errs
        (passNumber k { b with links := { b.links with early := b.links.early.filter (· ≠ p) } }))
    | none => if b.links.voidRx.contains (k, awaited b k) then drain errs k n (passVoid k b) else b

/-- A packet for this device: in its turn, kept until its turn, or a copy of one already applied. -/
def inOrder (p : Packet) (errs : List (Nat × EccStat)) (b : Block) : Block :=
  let k := tripleOf p
  let voids := (p.lost.filter (fun n => decide (n.1 = devOf b ∧ awaited b k ≤ n.2))).map (fun n => (k, n.2))
  let b := { b with links := { b.links with
    voidRx := b.links.voidRx ++ voids.filter (fun v => !b.links.voidRx.contains v) } }
  let b := match numHere b p with
    | some n => if awaited b k ≤ n ∧ b.links.early.contains p = false then
        { b with links := { b.links with early := b.links.early ++ [p] } } else b
    | none => b
  drain errs k (b.links.early.length + b.links.voidRx.length) b

/-! ## LINK_PACKET_ARRIVAL (R391, R393, R394, R396, R402, R407) -/

/-- A tree packet goes on to this device's child links, before its turn here. -/
def treeOn (p : Packet) (b : Block) : Block :=
  match p.body with
  | .bcast .. => treeForward b p (fun _ => true)
  | .panicle q .. => (match panicleOf b q with
    | some g => treeForward b p (nbit g.mask)
    | none => b)
  | _ => b

/-- A packet that has passed its CRC, in the order of its link. -/
def received (p : Packet) (errs : List (Nat × EccStat)) (b : Block) : Block :=
  match p.relay with
  | some e =>
    if e ≠ devOf b then sendOn b e p
    else (let p := { p with relay := none }; inOrder p errs (treeOn p b))
  | none =>
    if p.dst = 64 then inOrder p errs (treeOn p b)
    else if p.dst = devOf b then inOrder p errs b
    else sendOn b p.dst p

/-- A packet arrives by link `l`, whose far end has acknowledged the `acked` oldest packets sent to it: between a packet that
failed its CRC and its replay everything is discarded; a replay that fails again takes the link down (R394). What it does to cells
belongs to its link (R321). -/
def linkArrive (l acked : Nat) (crcOk : Bool) (p : Packet) (gone : Drained) (errs : List (Nat × EccStat)) (b : Block) : Block :=
  if 4 ≤ l ∨ linkSt b l ≠ 2 then b
  else
    let b := ackLink l acked <| drainQueues gone { b with now := { b.now with via := l } }
    match b.links.nak.find? (fun e => e.1 = l) with
    | none =>
      if crcOk then received p errs b else { b with links := { b.links with nak := b.links.nak ++ [(l, p)] } }
    | some (_, q) =>
      if p ≠ q then b
      else if crcOk then
        received p errs { b with links := { b.links with nak := b.links.nak.filter (fun e => e.1 ≠ l) } }
      else linkDown l b

/-- PANICLE_PACKET (R407, R408): a panicle packet that has passed its link. -/
def panicleArrive (p : Packet) (gone : Drained) (errs : List (Nat × EccStat)) (b : Block) : Block :=
  match p.body with
  | .panicle .. => received p errs (drainQueues gone b)
  | _ => b

end Sys2Proof.Machine
end

