-- ==== Sys2Proof/Machine/Commands.lean ====
section
/-! DEFINITION. The command-ring scan (spec/02 R68, R69; spec/16 R370 to R373): which descriptors take part, their checks, and
what an accepted or a rejected one does. -/

namespace Sys2Proof.Machine

/-- A descriptor (R371) read from the command-ring region. -/
structure CmdDesc where
  w0 : Word
  w1 : Word
  w2 : Word
  w3 : Word
  w4 : Word
  w5 : Word
  w7 : Word
  deriving DecidableEq, Repr

/-- Window offset of descriptor `i` of ring `c` (R370). -/
def cmdAddr (b : Block) (c i : Nat) : Nat :=
  let cfg := rg b (Reg.HOST_CR_CFG c)
  0x100000 + 32 * (cfg.fld 14 0 + i % 2 ^ cfg.fld 19 16)

/-- Read the descriptor at a window offset. -/
def cmdDesc (b : Block) (a : Nat) : CmdDesc :=
  ⟨wiRd b a, wiRd b (a + 4), wiRd b (a + 8), wiRd b (a + 12), wiRd b (a + 16), wiRd b (a + 20), wiRd b (a + 28)⟩

/-- OP, and the target line where TGT is 1. -/
def CmdDesc.op (d : CmdDesc) : Nat := Word.fld d.w0 31 28
def CmdDesc.target (d : CmdDesc) : Option Nat :=
  if Word.bit d.w0 27 then some (Word.fld d.w2 11 0 * 2 ^ 32 + d.w1.toNat) else none

/-- Does a reserved field hold anything but 0? -/
def CmdDesc.reserved (d : CmdDesc) : Bool :=
  decide (Word.fld d.w0 26 16 ≠ 0 ∨ Word.fld d.w2 31 12 ≠ 0 ∨ Word.fld d.w7 27 12 ≠ 0 ∨
    (d.op = 2 ∧ (Word.fld d.w3 31 17 ≠ 0 ∨ Word.fld d.w3 15 12 ≠ 0)))

/-- R372: the status of a descriptor examined in row `j`; 0 accepts it. The first check in the order of the codes that
fails gives the status (DEDUCED, log entry 37). -/
def CmdDesc.status (d : CmdDesc) (j : Nat) : Nat :=
  let a := d.w3.toNat
  let k := d.w4
  if 5 ≤ d.op then 1
  else if d.op = 1 ∧ (a % 4 ≠ 0 ∨ 0x100000 ≤ a ∨ writable a = false) then 2
  else if (d.target.elim false (fun t => lineGt t (lineAdd j 65536))) = true then 3
  else if d.op = 2 ∧ (if Word.bit d.w3 16 then k.toNat = 0 ∨ 1024 < k.toNat else k = 0#32) then 4
  else if d.reserved then 5
  else 0

/-- TAIL as the scan sees it: the last write that landed at least 128 core cycles ago (R370). -/
def scanTail (b : Block) (c : Nat) : Nat :=
  (((spGet (fun _ => []) b.host.tails c).filter (fun t => decide (t.1 + 128 ≤ b.pwr.ccy))).getLast?.map Prod.snd).getD 0

/-- Forget TAIL writes that a later one has replaced. -/
def pruneTails (b : Block) (c : Nat) : Block :=
  let l := spGet (fun _ => []) b.host.tails c
  let old := l.filter (fun t => decide (t.1 + 128 ≤ b.pwr.ccy))
  let new := l.filter (fun t => !decide (t.1 + 128 ≤ b.pwr.ccy))
  { b with host := { b.host with tails := spPut (fun _ => []) b.host.tails c (old.drop (old.length - 1) ++ new) } }

/-- HEAD of a ring. -/
def scanHead (b : Block) (c : Nat) : Nat := (rg b (Reg.HOST_CR_HEAD c)).fld 15 0

/-- Advance HEAD past a descriptor. -/
def headOn (b : Block) (c : Nat) : Block := setF b (Reg.HOST_CR_HEAD c) 15 0 (scanHead b c + 1)

/-- CMD_REJECT (R372): DONE and STATUS are written; DONE_LINE stays. -/
def cmdReject (b : Block) (c a st : Nat) : Block :=
  let b := wiWr b (a + 28) ((wiRd b (a + 28) &&& 0x0FFFFFFF#32) ||| wd (2 ^ 31 + st * 2 ^ 28))
  let b := orRg (bump b (Reg.HOST_CR_CNT_REJ c) 1) Reg.HOST_ATTN_STATUS 8
  headOn (raise b 0x99 (st * 16 + c)) c

/-- The scan of row `j` accepts a descriptor: its row of effect is j + 1, or that of a later target line (R68). -/
def cmdAccept (b : Block) (c a j : Nat) (d : CmdDesc) : Block :=
  let late := d.target.elim false (fun t => lineGe j t)
  let row := match d.target with
    | some t => if late then lineAdd j 1 else t
    | none => lineAdd j 1
  let p : PendCmd := { ring := c, addr := a, op := d.op, tag := Word.fld d.w0 15 0, target := d.target, rowAt := row,
                       arg0 := d.w3, arg1 := d.w4, arg2 := d.w5 }
  let b := headOn { b with seq := { b.seq with pend := b.seq.pend ++ [p] } } c
  if late then raise (orRg (bump b Reg.SEQ_CNT_LATE_CMD 1) Reg.SEQ_STATUS 0x800) 0x25 c else b

/-- The scan of ring `c` in row `j`: at most `n` descriptors are examined. A full pending queue stops it (R373). -/
def scanRing (c j tail : Nat) : Nat → Block → Block
  | 0, b => b
  | n + 1, b =>
    if scanHead b c = tail then b
    else
      let a := cmdAddr b c (scanHead b c)
      let d := cmdDesc b a
      if d.status j ≠ 0 then scanRing c j tail n (cmdReject b c a (d.status j))
      else if 256 ≤ b.seq.pend.length then raiseOnce (bump b Reg.HOST_CNT_PEND_FULL 1) 0x9D 0 c
      else scanRing c j tail n (cmdAccept b c a j d)

/-- SEQ_SCAN.MAX in force: 0 means 256. -/
def scanMax (b : Block) : Nat :=
  let m := (frc b Reg.SEQ_SCAN).fld 23 16
  if m = 0 then 256 else m

/-- COMMAND_SCAN: in cycle SEQ_SCAN.CYC of a row that is open, once: every enabled ring, in ascending number. -/
def commandScan (b : Block) : Block :=
  match b.seq.row with
  | none => b
  | some j =>
    if (rg b Reg.SEQ_STATUS).fld 1 0 ≠ 2 ∨ b.seq.scanned = true ∨ b.pwr.ccy ≠ b.seq.rowC + (frc b Reg.SEQ_SCAN).fld 10 0 then b
    else (upFrom 0 16).foldl (fun b c =>
      if (rg b Reg.HOST_CTRL).bit (16 + c) then scanRing c j (scanTail b c) (scanMax b) (pruneTails b c) else b)
      { b with seq := { b.seq with scanned := true } }

end Sys2Proof.Machine
end

