-- ==== Sys2Proof/Machine/HostPort.lean ====
section
/-! DEFINITION. The LPDDR5 face itself (spec/16_host_port.md R358 to R364): mode registers, training, refresh and low power.
None of it has an effect inside the part. -/

namespace Sys2Proof.Machine

/-! ## Mode registers (R361, R362) -/

/-- The mode registers whose values R361 restricts. -/
def restrictedMr (mr : Nat) : Bool := [1, 2, 3, 10, 13, 16, 19, 20, 22].contains mr

/-- The mode registers that a write does not change: the identifiers and those that only report (R361). -/
def readOnlyMr (mr : Nat) : Bool := [0, 4, 5, 6, 7, 8].contains mr

/-- An event of a channel of the port, once it has left high impedance (R500). -/
def onPort (ch : Nat) (f : Block → Block) (b : Block) : Block := if b.pwr.port && decide (ch < 2) then f b else b

/-- MODE_REGISTER_WRITE. -/
def modeWrite (ch mr v : Nat) (b : Block) : Block :=
  let mr := mr % 256; let v := v % 256
  if readOnlyMr mr then b
  else if restrictedMr mr && !Config.modeAdmits mr v then
    raise (orRg (orRg b Reg.HOST_STATUS 1) Reg.HOST_ATTN_STATUS 128) 0x98 mr
  else { b with host := { b.host with modeRegs := spPut (fun _ => 0) b.host.modeRegs (ch * 256 + mr) v } }

/-- What a mode register reads. -/
def modeVal (b : Block) (ch mr : Nat) : Nat :=
  if mr = 5 ∨ mr = 6 ∨ mr = 7 then 0
  else if readOnlyMr mr then Config.modeReport mr % 256
  else spGet (fun _ => 0) b.host.modeRegs (ch * 256 + mr)

/-- MODE_REGISTER_READ: the value stands in `mrData`. -/
def modeRead (ch mr : Nat) (b : Block) : Block := { b with host := { b.host with mrData := modeVal b ch (mr % 256) } }

/-! ## Training, refresh, low power (R358, R360, R364) -/

/-- The condition of a channel. -/
def portMode (b : Block) (ch : Nat) : PortMode := if ch = 0 then b.host.port0 else b.host.port1

/-- Set it. -/
def setPortMode (ch : Nat) (m : PortMode) (b : Block) : Block :=
  if ch = 0 then { b with host := { b.host with port0 := m } } else { b with host := { b.host with port1 := m } }

/-- Leave a condition of a channel. -/
def leavePortMode (ch : Nat) (m : PortMode) (b : Block) : Block :=
  if portMode b ch = m then setPortMode ch .idle b else b

/-- A training step of a channel has been done: 0 command bus, 1 WCK2CK levelling, 2 read DQ calibration. -/
def trainStep (ch k : Nat) (b : Block) : Block :=
  { b with host := { b.host with trained := if nbit b.host.trained (4 * ch + k) then b.host.trained
                                            else b.host.trained + 2 ^ (4 * ch + k) } }

/-- A refresh command. -/
def portRefresh (b : Block) : Block := { b with host := { b.host with refreshes := b.host.refreshes + 1 } }

/-- A ZQ calibration command. -/
def portZq (b : Block) : Block := { b with host := { b.host with zq := b.host.zq + 1 } }

/-- WRITE_FIFO: the data of write training. -/
def fifoWrite (ch : Nat) (data : List Byte) (b : Block) : Block :=
  { b with host := { b.host with wrFifo := spPut (fun _ => []) b.host.wrFifo ch data } }

/-- HOST_RESET_N: the mode registers and the training state of both channels, and nothing else (R360). -/
def portReset (b : Block) : Block :=
  { b with host := { b.host with modeRegs := [], trained := 0 } }

end Sys2Proof.Machine
end

