-- ==== Sys2Proof/Machine/Pins.lean ====
section
/-! DEFINITION. What the part does at its balls (spec/23_package_and_pins.md R521 to R523). -/

namespace Sys2Proof.Machine

/-- VDDIO_18 is below its reset level, and no 1.8 V ball is driven (R503, R521, R523; DEDUCED, log entry 83). -/
def ioOff (b : Block) : Bool := decide (b.pwr.low = some 4)

/-- SAFE_N (R436, R521): high impedance while VDD_CHB or VDDIO_18 is below its reset level. -/
def safePin (b : Block) : Level :=
  if b.pwr.low = some 1 ∨ ioOff b = true then .z else if safeGood b then .high else .low

/-- HOST_ATTN_N, open drain (R379, R522). -/
def attnPin (b : Block) : Level := if ioOff b then .z else if attnAsked b then .low else .released

/-- TRIGn (R32, R523): high impedance until TB_TRIGn_CFG is written. -/
def trigPin (b : Block) (n : Nat) : Level :=
  if ioOff b || !(trigOf b n).cfgd then .z else if trigLevel b n (nowTb b) then .high else .low

/-- CPn_SCL and CPn_SDA (R110, R523): released while no head message runs. -/
def cpBusPin (b : Block) (n : Nat) : Level :=
  if ioOff b then .z else if (lane b n).msgs = [] then .released else .active

/-- The balls of the flash (R501, R523): FL_RESET_N is low until the part has left reset, and boot reads the flash. -/
def flashPin (b : Block) : Level :=
  if ioOff b then .z
  else if (rg b Reg.CLK_STATUS).bit 7 = false then .low
  else if (rg b Reg.PWR_BOOT).fld 31 28 < 6 then .active else .high

/-- The transmitter of link `l` (R389, R523). -/
def txPin (b : Block) (l : Nat) : Level := if (rg b Reg.LNK_STATUS).fld (2 * l + 1) (2 * l) = 0 then .idle else .active

/-- The balls of R523. -/
def ballsOf (b : Block) : Balls :=
  { trig := (upFrom 0 8).map (trigPin b), cpBus := (upFrom 0 8).map (cpBusPin b), flash := flashPin b,
    tx := (upFrom 0 4).map (txPin b), host := if b.pwr.port then .active else .z }

/-- HOST_ATTN_STATUS and the pins follow the block. -/
def pins (p : Published) (b : Block) : Published × Block :=
  let b := setRg b Reg.HOST_ATTN_STATUS (attnWord b p.seq)
  ({ p with attnN := attnPin b, safeN := safePin b, balls := ballsOf b }, b)

end Sys2Proof.Machine
end

