-- ==== Sys2Proof/Machine/Replay.lean ====
section
/-! DEFINITION. Replay (spec/20_determinism_and_replay.md R476): the records of the ring applied in their order. -/

namespace Sys2Proof.Machine

/-! ## Records (R473, R474) -/

/-- The pixels of a payload packed as U12. -/
def unpackU12 : List Byte → List Nat
  | a :: b :: c :: l => (let v := leNat [a, b, c]; v % 4096 :: v / 4096 :: unpackU12 l)
  | [a, b] => [leNat [a, b] % 4096]
  | _ => []

/-- A count from an ENC record; `edge`: a Z edge falls in its sample. -/
def rplCount (fwd edge : Bool) (b : Block) : Block :=
  if tbEn b && decide (tbState b ≠ 3) then applyCount (recEnc b (if fwd then 0 else 1)) fwd edge else b

/-- A line-trigger edge from an ENC record: it passed the filter when it was recorded. -/
def rplTrig (b : Block) : Block :=
  if (rg b Reg.TB_CTRL).bit 1 && tbEn b && decide (tbState b ≠ 3) then applyCount (recEnc b 3) true false else b

/-- An ENC record drives the position counter. A loss concerns the source that TB_CTRL selects (DEDUCED, log entry 35). -/
def rplEnc (sub : Nat) (edge : Bool) (b : Block) : Block :=
  if sub = 0 then rplCount true edge b
  else if sub = 1 then rplCount false edge b
  else if sub = 2 then zLatch b
  else if sub = 3 then rplTrig b
  else if sub = 4 then
    raise (orRg (bump (recEnc b 4) Reg.TB_CNT_QUAD 1) Reg.TB_STATUS 0x200) 0x10 0
  else if sub = 5 then encLoss (if (rg b Reg.TB_CTRL).bit 1 then 2 else 0) b
  else b

/-- A HOST record is applied as the recorded write or read, a write after the commands of its cycle (R369); what the live host keeps
(R476) is skipped. A write that had arrived by link `src` arrives by it again. -/
def rplHost (sub src off : Nat) (data : Word) (bmask : Nat) (b : Block) : Block :=
  if liveInReplay off then b
  else if sub = 4 then panelReadFx off b
  else
    let b := commandsFirst b
    if sub = 3 then
      let b := { b with now := { b.now with via := src } }
      if 0x400000 ≤ off ∧ off < 0x600000 then
        arriveSync b 0 (decide ((off - 0x400000) / 2 ^ 20 = 1)) (off / 4 % 4096) data.s32 0 true
      else putLow 3 off data (15 - bmask) b
    else winWrite off data (15 - bmask) b

/-- A CAM record fills the intake entry of its port: the oldest unfinished record completes as recorded. -/
def rplCam (n : Nat) (w2 start last : Word) (px : List Nat) (b : Block) : Block :=
  match (prt b n).recs with
  | [] => b
  | r :: _ =>
    let bits := w2.fld 8 0
    let r := { r with started := !nbit bits 3, startS := start.toNat, lastS := last.toNat, px := px }
    let x := intakeOf b n r bits px (r.susp || dipMarks b)
    cpFinish b n r bits { x with hdr := listSet x.hdr 2 w2, px := px }

/-! ## REPLAY_RECORD_APPLY -/

/-- Set DBG_RPL_STATUS.STATE: 0 IDLE, 1 RUNNING, 2 DONE, 3 FAIL. -/
def setRplState (b : Block) (v : Nat) : Block := setF b Reg.DBG_RPL_STATUS 1 0 v

/-- Is the record after that at offset `o` a Z edge of the same timebase cycle? -/
def zWith (o : Nat) (b : Block) : Bool :=
  let w := fun i => recWord b (o + 32) i
  decide (o + 32 < recSize b ∧ (w 0).fld 31 24 = 0x12 ∧ w 5 = recWord b o 5 ∧ w 6 = recWord b o 6)

/-- The effect of the record at offset `o` of the ring. -/
def rplEffect (o : Nat) (b : Block) : Block :=
  let w := fun i => recWord b o i
  let ty := (w 0).fld 31 28; let sub := (w 0).fld 27 24; let src := (w 0).fld 20 16
  if ty = 1 then rplEnc sub (zWith o b) b
  else if ty = 2 then rplHost sub src ((w 5).toNat + (w 4).fld 27 27 * 2 ^ 32) (w 6) ((w 4).fld 31 28) b
  else if ty = 3 then
    (if src < 8 then rplCam src (w 5) (w 6) (w 7) (unpackU12 (gdRd b (recBase b + o + 32) ((w 0).fld 15 0))) b else b)
  else if ty = 6 ∧ sub = 2 then setRplState b 2
  else b

/-- The first record at or after offset `o` that is no PAD; `n` bounds the places. -/
def skipPad (b : Block) : Nat → Nat → Nat
  | 0, o => o
  | n + 1, o => if o < recSize b ∧ (recWord b o 0).fld 31 28 = 0 then skipPad b n (o + 32) else o

/-- CCY of the record at offset `o`. -/
def recCcy (b : Block) (o : Nat) : Nat := (recWord b o 2).toNat * 2 ^ 32 + (recWord b o 1).toNat

/-- Replay fails (R476): no further record is applied. -/
def rplFail (b : Block) : Block := raise (setRplState b 3) 0xC2 0

/-- The next record is applied in the cycle that it names; where the prefetch buffer does not hold it then, or that cycle is past,
replay fails. It ends at STOP or at the ring's end. -/
def replayRecord (there : Bool) (b : Block) : Block :=
  let o := skipPad b (recSize b / 32) b.dbg.rdOff
  if (rg b Reg.DBG_RPL_STATUS).fld 1 0 ≠ 1 then b
  else if recSize b ≤ o then setRplState b 2
  else if b.pwr.ccy < recCcy b o then b
  else if there = false ∨ recCcy b o < b.pwr.ccy then rplFail b
  else
    let n := recLen b o
    let b := rplEffect o b
    if b.pwr.fresh then b
    else
    let b := { b with dbg := { b.dbg with rdOff := o + n } }
    if (rg b Reg.DBG_RPL_STATUS).fld 1 0 = 1 ∧ recSize b ≤ o + n then setRplState b 2 else b

end Sys2Proof.Machine
end

