-- ==== Sys2Proof/Machine/Enter.lean ====
section
/-! DEFINITION. What every command does around its own effect. The clock moves to the cycle of the command; on the way each
cycle in which something is due begins and ends: what had been put off is done, held instructions issue, and at its end the
cells apply what reached them (R321) and the thresher takes its events (R400). Then the command acts and the pins follow. -/

namespace Sys2Proof.Machine

/-! ## Instructions held at issue (R210, R217, R225, R258, R263, R281) -/

/-- The effect of an instruction that can be held. -/
def heldEffect : Instr → Block → Block
  | .coreLoadStore _ t pc op errs => coreLoadStore t pc op errs
  | .tpull _ t pc ⟨xs, errs⟩ => fenced t (tpull t pc xs errs)
  | .hdrmrg _ t pc xd xs1 ⟨xs2, errs⟩ => hdrmrg t pc xd xs1 xs2 errs
  | .patch _ t pc ⟨xs, errs⟩ => fenced t (patch t pc xs errs)
  | .trw _ t pc vs width high => trw t pc vs width high
  | .trr _ t pc vd width => trr t pc vd width
  | .mfill _ t pc xd xn xw => mfill t pc xd xn xw
  | .mcopy _ t pc xd xn xs => mcopy t pc xd xn xs
  | .mma _ t pc ⟨xs, errs⟩ => mma t pc xs errs
  | .wchain _ t pc ⟨xs, errs⟩ => wchain t pc xs errs
  | .vectorBundle _ t pc ⟨insns, errs⟩ => vectorBundle t pc insns errs
  | .sarm _ t pc xd ⟨xs, errs⟩ slot => sarm t pc xd xs slot errs
  | .srearm _ t pc xd ⟨xs, errs⟩ slot => srearm t pc xd xs slot errs
  | _ => id

/-- A held instruction is tried again: it issues, or stays held. One whose tiller has been taken out of it is forgotten. -/
def tryHeld (b : Block) (h : Nat × Instr) : Block :=
  let x := tl b h.1
  if x.stall.isNone then b
  else
    let r := heldEffect h.2 (setTl b h.1 { x with stall := none })
    if (tl r h.1).stall.isSome then { setTl b h.1 { x with stall := (tl r h.1).stall } with held := b.held ++ [h] } else r

/-- Every held instruction is tried once. -/
def tryAllHeld (b : Block) : Block := b.held.foldl tryHeld { b with held := [], retry := false }

/-- An instruction of tiller `t` that may be held: it has then no other effect. -/
def mayHold (t : Nat) (i : Instr) (f : Block → Block) (b : Block) : Block :=
  let r := f b
  if (tl b t).stall.isNone && (tl r t).stall.isSome then
    { setTl b t { tl b t with stall := (tl r t).stall } with held := b.held ++ [(t, i)] }
  else r

/-! ## The end of a cycle -/

/-- The next cycle begins with nothing seen. -/
def clearNow (b : Block) : Block := { b with now := Now.init }

/-- What cycle 0 of a line still owes where commands of the rings have taken effect in it and no LINE_TICK came. -/
def tickOwed (b : Block) : Block :=
  match b.seq.arrived with
  | some t => finishTick t b
  | none => b

/-- The end of a cycle: a tick that has arrived, units that have drained, camera deadlines, cells, waits, the deadlock condition, the thresher. -/
def closeCycle (p : Published) (b : Block) : Published × Block :=
  let r := takeRaised p (observe (endWaits (applyOps (closePorts (drainUnits (tickOwed b))))))
  pins r.1 (clearNow r.2)

/-! ## Work that is due -/

/-- The earlier of two cycles. -/
def earlier (a b : Option Nat) : Option Nat :=
  match a, b with
  | none, y => y
  | x, none => x
  | some x, some y => some (min x y)

/-- The next cycle in which something is due that no command brings. -/
def nextDue (b : Block) : Option Nat :=
  earlier ((b.seq.later.map (fun w => some w.due)).foldl earlier none)
    (earlier (earlier b.ovwr (holdDueC b)) (earlier (staleDueC b) (if b.retry then some (b.pwr.ccy + 1) else none)))

/-- HOST_EVT_OVWR, in the cycle after the overwriting write (R378). -/
def ovwrDue (b : Block) : Block :=
  match b.ovwr with
  | some d => if d ≤ b.pwr.ccy then raiseOnce { b with ovwr := none } 0x9B 0 0 else b
  | none => b

/-- What is due in the cycle that has come. -/
def doDue (b : Block) : Block :=
  let b := staleDue (doDueWork (holdDue (ovwrDue b)))
  if b.retry then tryAllHeld b else b

/-- The clock moves to cycle `c`: the present cycle ends. -/
def clockTo (c : Nat) (s : Published × Block) : Published × Block :=
  if s.2.pwr.ccy < c then
    let r := closeCycle s.1 s.2
    (r.1, tickTo c r.2)
  else s

/-- To cycle `c`, through every cycle before it and `c` itself in which something is due; a tick that has arrived is completed before
its cycle is left. -/
def walk (c : Nat) : Nat → Published × Block → Published × Block
  | 0, s => clockTo c s
  | n + 1, s =>
    if s.2.seq.arrived.isSome && decide (s.2.pwr.ccy < c) then walk c n (s.1, tickOwed s.2)
    else match nextDue s.2 with
    | none => clockTo c s
    | some d =>
      if d ≤ c then
        let r := clockTo d s
        walk c n (r.1, doDue r.2)
      else clockTo c s

/-- More visits than anything waiting can ask for: work put off is visited twice where a list refuses its task. -/
def visits (b : Block) : Nat := 2 * b.seq.later.length + b.held.length + (allStages b).length + 9

/-- The part as a command at core cycle `c` finds it. Without a core clock no cycle passes (R497). -/
def found (c : Nat) (p : Published) (b : Block) : Published × Block :=
  if b.pwr.core then walk c (visits b) (p, b) else (p, b)

/-! ## A command -/

/-- After a command the pins follow; a warm reset taken by it starts them from their reset state (R498). Without a core clock
no cycle ends: the thresher takes the command's events at once. -/
def leave (p : Published) (b : Block) : Published × Block :=
  if b.pwr.fresh then pins Published.init { b with pwr := { b.pwr with fresh := false } }
  else if b.pwr.core then pins p { b with retry := !b.held.isEmpty }
  else
    let r := takeRaised p b
    pins r.1 { r.2 with now := { r.2.now with bits := [] } }

/-- A command at core cycle `c`. -/
def runBlk (c : Nat) (f : Published → Block → Block) (p : Published) (b : Block) : Published × Block :=
  let s := found c p b
  leave s.1 (f s.1 s.2)

/-- An event of a unit that exists. -/
def gate (ok : Bool) (f : Block → Block) (b : Block) : Block := if ok then f b else b

/-- The outcome of a command whose effect on the block is `f`: always a next state, the queue unchanged. -/
def run (c : Nat) (f : Block → Block) (s : State) : Host.Outcome State Fault Refusal :=
  .next { s with pub := (runBlk c (fun _ => f) s.pub s.blk).1, blk := (runBlk c (fun _ => f) s.pub s.blk).2 }

/-- The same for a row that stands for a host write to a register: commands that take effect in its cycle do so first (R369). -/
def runWrite (c : Nat) (f : Block → Block) (s : State) : Host.Outcome State Fault Refusal := run c (fun b => f (commandsFirst b)) s

/-- The same for an effect that reads what the thresher shows. -/
def runPub (c : Nat) (f : Published → Block → Block) (s : State) : Host.Outcome State Fault Refusal :=
  .next { s with pub := (runBlk c f s.pub s.blk).1, blk := (runBlk c f s.pub s.blk).2 }

/-- The outcome of a part reset: the new block, the thresher and pins from their reset state. -/
def resetTo (b : Block) (s : State) : Host.Outcome State Fault Refusal :=
  let r := pins Published.init b
  .next { s with pub := r.1, blk := r.2 }

end Sys2Proof.Machine
end

