-- ==== Sys2Proof/Machine/ExecCamera.lean ====
section
/-! DEFINITION. One definition per command: camera ports, lanes and vision engines (spec/03 to 08). -/

namespace Sys2Proof.Machine

def execTriggerFire (c n : Nat) (s : State) : Host.Outcome State Fault Refusal :=
  run c (gate (decide (n < 8)) (triggerFire n)) s

def execLineStart (c n : Nat) (x : CamSample) (s : State) : Host.Outcome State Fault Refusal :=
  run c (gate (decide (n < 8)) (camLive n (fun b => lineStart n x (recordsFirst n b)))) s

def execLineEnd (c : Nat) (n : PortSample) (s : State) : Host.Outcome State Fault Refusal :=
  run c (gate (decide (n.port < 8)) (camLive n.port (lineEnd n.port n.sample))) s

def execValidTransfer (c n : Nat) (x : CamSample) (s : State) : Host.Outcome State Fault Refusal :=
  run c (gate (decide (n < 8)) (camLive n (validTransfer n x))) s

def execWindowOpen (c n : Nat) (s : State) : Host.Outcome State Fault Refusal :=
  run c (gate (decide (n < 8)) (camLive n (windowOpen n))) s

def execStartDeadline (c n : Nat) (s : State) : Host.Outcome State Fault Refusal :=
  run c (gate (decide (n < 8)) (camLive n (startDeadline n))) s

def execEndDeadline (c n : Nat) (s : State) : Host.Outcome State Fault Refusal :=
  run c (gate (decide (n < 8)) (camLive n (endDeadline n))) s

def execFvalFall (c n : Nat) (s : State) : Host.Outcome State Fault Refusal :=
  run c (gate (decide (n < 8)) (camLive n (fvalFall n))) s

def execCpClkLoss (c n : Nat) (s : State) : Host.Outcome State Fault Refusal :=
  run c (gate (decide (n < 8)) (camLive n (cpClkLoss n))) s

def execCpClkBack (c n : Nat) (s : State) : Host.Outcome State Fault Refusal :=
  run c (gate (decide (n < 8)) (camLive n (cpClkBack n))) s

def execLaneStatsDone (c n : Nat) (s : State) : Host.Outcome State Fault Refusal :=
  run c (gate (decide (n < 8)) (laneStatsDone n)) s

def execHeadWriteDone (c n : Nat) (s : State) : Host.Outcome State Fault Refusal :=
  run c (gate (decide (n < 8)) (headWriteDone n)) s

def execHeadNack (c n : Nat) (s : State) : Host.Outcome State Fault Refusal :=
  run c (gate (decide (n < 8)) (headNack n)) s

def execFeTblDataWrite (c n : Nat) (w : Word) (s : State) : Host.Outcome State Fault Refusal :=
  runWrite c (gate (decide (n < 8)) (feTblDataWrite n w)) s

def execFeTblDataRead (c n : Nat) (s : State) : Host.Outcome State Fault Refusal :=
  run c (gate (decide (n < 8)) (feTblDataRead n)) s

def execWpMeshDataWrite (c : Nat) (w : Word) (s : State) : Host.Outcome State Fault Refusal := runWrite c (wpMeshDataWrite w) s

def execWpMeshDataRead (c : Nat) (s : State) : Host.Outcome State Fault Refusal := run c wpMeshDataRead s

def execFtPatDataRead (c : Nat) (s : State) : Host.Outcome State Fault Refusal := run c ftPatDataRead s

def execStereoPhaseADone (c stage line : Nat) (errs : List (Nat × EccStat)) (s : State) : Host.Outcome State Fault Refusal :=
  run c (stereoPhaseADone stage line errs) s

end Sys2Proof.Machine
end

