-- ==== Sys2Proof/Machine/ExecHost.lean ====
section
/-! DEFINITION. One definition per command: the host port (spec/16). -/

namespace Sys2Proof.Machine

def execModeRegisterWrite (c ch mr v : Nat) (s : State) : Host.Outcome State Fault Refusal := run c (onPort ch (modeWrite ch mr v)) s

def execModeRegisterRead (c ch mr : Nat) (s : State) : Host.Outcome State Fault Refusal := run c (onPort ch (modeRead ch mr)) s

def execHostRefresh (c ch : Nat) (s : State) : Host.Outcome State Fault Refusal := run c (onPort ch portRefresh) s

def execSelfRefreshEntry (c ch : Nat) (s : State) : Host.Outcome State Fault Refusal := run c (onPort ch (setPortMode ch .selfRefresh)) s

def execSelfRefreshExit (c ch : Nat) (s : State) : Host.Outcome State Fault Refusal := run c (onPort ch (leavePortMode ch .selfRefresh)) s

def execPowerDownEntry (c ch : Nat) (s : State) : Host.Outcome State Fault Refusal := run c (onPort ch (setPortMode ch .powerDown)) s

def execPowerDownExit (c ch : Nat) (s : State) : Host.Outcome State Fault Refusal := run c (onPort ch (leavePortMode ch .powerDown)) s

def execZqCalibration (c ch : Nat) (s : State) : Host.Outcome State Fault Refusal := run c (onPort ch portZq) s

def execCommandBusTraining (c ch : Nat) (s : State) : Host.Outcome State Fault Refusal := run c (onPort ch (trainStep ch 0)) s

def execWck2ckLevelling (c ch : Nat) (s : State) : Host.Outcome State Fault Refusal := run c (onPort ch (trainStep ch 1)) s

def execReadDqCalibration (c ch : Nat) (s : State) : Host.Outcome State Fault Refusal := run c (onPort ch (trainStep ch 2)) s

def execWriteFifo (c ch : Nat) (data : List Byte) (s : State) : Host.Outcome State Fault Refusal := run c (onPort ch (fifoWrite ch data)) s

def execHostResetN (c : Nat) (s : State) : Host.Outcome State Fault Refusal := run c portReset s

def execTbEnable (c : Nat) (w : Word) (s : State) : Host.Outcome State Fault Refusal := runWrite c (tbEnable w) s

def execTbDisable (c : Nat) (w : Word) (s : State) : Host.Outcome State Fault Refusal := runWrite c (tbDisable w) s

def execTbDirChange (c : Nat) (w : Word) (s : State) : Host.Outcome State Fault Refusal := runWrite c (tbDirChange w) s

def execTbSrcChange (c : Nat) (w : Word) (s : State) : Host.Outcome State Fault Refusal := runWrite c (tbSrcChange w) s

def execSeqEnable (c : Nat) (w : Word) (s : State) : Host.Outcome State Fault Refusal := runWrite c (seqWrite (w ||| 1#32)) s

def execSeqHalt (c : Nat) (w : Word) (s : State) : Host.Outcome State Fault Refusal := runWrite c (seqWrite (w &&& 0xFFFFFFFE#32)) s

def execRegisterWrite (c off : Nat) (data : Word) (s : State) : Host.Outcome State Fault Refusal := runWrite c (panelWrite off data) s

def execHostRead (c : Nat) (at_ : AccessAt) (s : State) : Host.Outcome State Fault Refusal :=
  runPub c (if at_.debug then fun _ => debugRead at_.off else hostRead at_.off) s

def execHostWrite (c : Nat) (at_ : AccessAt) (data : Word) (s : State) : Host.Outcome State Fault Refusal :=
  runWrite c (if at_.debug then debugWrite at_.off data else hostWrite at_.off data 0) s

def execHostMaskedWrite (c off : Nat) (data : Word) (mask : Nat) (s : State) : Host.Outcome State Fault Refusal :=
  runWrite c (hostWrite off data mask) s

def execMirrorUpdate (c off : Nat) (s : State) : Host.Outcome State Fault Refusal := run c (mirrorUpdate off) s

def execSyncApertureWrite (c off : Nat) (data : Word) (s : State) : Host.Outcome State Fault Refusal :=
  runWrite c (gate (inWin 0x400000 0x600000 off) (hostWrite off data 0)) s

def execBroadcastWrite (c off : Nat) (data : Word) (s : State) : Host.Outcome State Fault Refusal :=
  runWrite c (gate (inWin 0x140000000 0x141200000 off) (hostWrite off data 0)) s

def execDeviceWindowWrite (c off : Nat) (data : Word) (s : State) : Host.Outcome State Fault Refusal :=
  runWrite c (gate (inWin 0x100000000 0x140000000 off) (hostWrite off data 0)) s

def execGrnFlagDataRead (c : Nat) (s : State) : Host.Outcome State Fault Refusal := run c grnFlagDataRead s

def execSyncVtDataRead (c : Nat) (s : State) : Host.Outcome State Fault Refusal := run c syncVtDataRead s

def execRemoteRead (c : Nat) (w : Word) (s : State) : Host.Outcome State Fault Refusal := runWrite c (rrdGo w) s

def execRemoteReadDone (c : Nat) (ok : Bool) (data : Word) (s : State) : Host.Outcome State Fault Refusal := run c (fun b => rrdEnd b ok data) s

def execFrameMap (c f : Nat) (s : State) : Host.Outcome State Fault Refusal := runWrite c (frameCmd f 1) s

def execFrameMapZero (c f : Nat) (s : State) : Host.Outcome State Fault Refusal := runWrite c (frameCmd f 2) s

def execFrameFlush (c f : Nat) (s : State) : Host.Outcome State Fault Refusal := runWrite c (frameCmd f 3) s

def execFrameUnmap (c f : Nat) (s : State) : Host.Outcome State Fault Refusal := runWrite c (frameCmd f 4) s

def execFrameOpDone (c f : Nat) (errs : List (Nat × EccStat)) (s : State) : Host.Outcome State Fault Refusal := run c (frameOpDone f errs) s

def execCrTailWrite (c ring : Nat) (w : Word) (s : State) : Host.Outcome State Fault Refusal :=
  runWrite c (gate (decide (ring < 16)) (crTailWrite ring w)) s

def execReplayStart (c : Nat) (w : Word) (s : State) : Host.Outcome State Fault Refusal := runWrite c (replayStart w) s

end Sys2Proof.Machine
end

