-- ==== Sys2Proof/Machine/ExecLinks.lean ====
section
/-! DEFINITION. One definition per command: the links (spec/17). -/

namespace Sys2Proof.Machine

def execLinkPacketArrival (c : Nat) (l : LinkAck) (crcOk : Bool) (p : LinkPacket) (s : State) : Host.Outcome State Fault Refusal :=
  run c (linkArrive l.link l.acked crcOk p.packet p.gone p.errs) s

def execResultRecordArrival (c ring : Nat) (words : List Word) (s : State) : Host.Outcome State Fault Refusal :=
  run c (resultArrive ring words) s

def execEventForwardArrival (c : Nat) (words : List Word) (s : State) : Host.Outcome State Fault Refusal := run c (eventArrive words) s

def execEvtLostForward (c : Nat) (s : State) : Host.Outcome State Fault Refusal := runPub c evtLost s

def execSafeRecordArrival (c : Nat) (words : List Word) (s : State) : Host.Outcome State Fault Refusal := run c (safeArrive words) s

def execPaniclePacket (c : Nat) (p : PacketIn) (gone : Drained) (s : State) : Host.Outcome State Fault Refusal :=
  run c (panicleArrive p.packet gone p.errs) s

def execLinkUp (c l dev : Nat) (sysId : Word) (s : State) : Host.Outcome State Fault Refusal := run c (linkUp l dev sysId) s

def execLinkDown (c : Nat) (l : LinkAck) (s : State) : Host.Outcome State Fault Refusal :=
  run c (linkFails l.link l.acked) s

def execLinkRetrain (c : Nat) (w : Word) (s : State) : Host.Outcome State Fault Refusal := runWrite c (linkRetrain w) s

def execLinkRetry (c l i d : Nat) (s : State) : Host.Outcome State Fault Refusal := run c (linkRetry l i d) s

def execUnreachNotice (c dev what : Nat) (s : State) : Host.Outcome State Fault Refusal := run c (unreachNotice dev what 0 []) s

end Sys2Proof.Machine
end

