-- ==== Sys2Proof/Machine/ExecSequencer.lean ====
section
/-! DEFINITION. One definition per command: the timebase, the line tick, the commands of the rings and the rachis (spec/01, 02, 16 R373). -/

namespace Sys2Proof.Machine

def execEncoderCount (c : Sampled) (a b : Bool) (s : State) : Host.Outcome State Fault Refusal :=
  run c.cycle (livePin (encoderCount a b c)) s

def execZEdge (c : ZSampled) (a b : Bool) (s : State) : Host.Outcome State Fault Refusal :=
  run c.sample.cycle (livePin (zEdge a b c)) s

def execLtrigEdge (c : LSampled) (s : State) : Host.Outcome State Fault Refusal :=
  run c.cycle (livePin (ltrigEdge c.rise)) s

def execStop (c : Nat) (s : State) : Host.Outcome State Fault Refusal := run c tbStop s

def execEncLoss (c pair : Nat) (s : State) : Host.Outcome State Fault Refusal := run c (livePin (encLoss pair)) s

def execLineTick (c : Nat) (s : State) : Host.Outcome State Fault Refusal := run c lineTick s

def execCmdNop (c : Nat) (s : State) : Host.Outcome State Fault Refusal := run c (cmdStep 0) s

def execCmdWrite32 (c : Nat) (s : State) : Host.Outcome State Fault Refusal := run c (cmdStep 1) s

def execCmdSignal (c : Nat) (s : State) : Host.Outcome State Fault Refusal := run c (cmdStep 2) s

def execCmdMark (c : Nat) (s : State) : Host.Outcome State Fault Refusal := run c (cmdStep 3) s

def execCmdGoldenReq (c : Nat) (s : State) : Host.Outcome State Fault Refusal := run c (cmdStep 4) s

def execCommandScan (c : Nat) (s : State) : Host.Outcome State Fault Refusal := run c commandScan s

def execSlotOpen (c stage : Nat) (s : State) : Host.Outcome State Fault Refusal := run c (slotOpen stage) s

def execSlotClose (c stage line : Nat) (s : State) : Host.Outcome State Fault Refusal := run c (slotClose stage line) s

def execStageHung (c stage line : Nat) (s : State) : Host.Outcome State Fault Refusal := run c (stageHung stage line) s

def execStageComplete (c stage line : Nat) (errs : List (Nat × EccStat)) (s : State) : Host.Outcome State Fault Refusal :=
  run c (stageComplete stage line errs) s

def execDupMismatch (c : Nat) (s : State) : Host.Outcome State Fault Refusal := run c dupMismatch s

def execTblEccError (c copy : Nat) (ue : Bool) (s : State) : Host.Outcome State Fault Refusal := run c (tblEccError copy ue) s

def execIngDup (c item : Nat) (s : State) : Host.Outcome State Fault Refusal := run c (ingDup item) s

end Sys2Proof.Machine
end

