-- ==== Sys2Proof/Machine/ExecSync.lean ====
section
/-! DEFINITION. One definition per command: sync instructions and cells (spec/13). -/

namespace Sys2Proof.Machine

def execSsig (c t pc xd xv xs : Nat) (s : State) : Host.Outcome State Fault Refusal := run c (fenced t (ssig t pc xd xv xs)) s

def execScons (c t pc xd xv xs : Nat) (s : State) : Host.Outcome State Fault Refusal := run c (fenced t (scons t pc xd xv xs)) s

def execSwait (c t pc xd xv xs mode : Nat) (s : State) : Host.Outcome State Fault Refusal := run c (fenced t (swait t pc xd xv xs mode)) s

def execSbar (c t pc xd xv : Nat) (s : State) : Host.Outcome State Fault Refusal := run c (fenced t (sbar t pc xd xv)) s

def execSread (c t pc xd xv sel : Nat) (s : State) : Host.Outcome State Fault Refusal := run c (fenced t (sread t pc xd xv sel)) s

def execWaitRelease (c t : Nat) (s : State) : Host.Outcome State Fault Refusal := run c (waitRelease t) s

def execFtest (c t pc xd xs : Nat) (s : State) : Host.Outcome State Fault Refusal := run c (fenced t (ftest t pc xd xs)) s

def execFwait (c t pc xs : Nat) (s : State) : Host.Outcome State Fault Refusal := run c (fenced t (fwait t pc xs)) s

def execFclr (c t pc xs : Nat) (s : State) : Host.Outcome State Fault Refusal := run c (fenced t (fclr t pc xs)) s

def execFset (c t pc xs : Nat) (s : State) : Host.Outcome State Fault Refusal := run c (fenced t (fset t pc xs)) s

def execSyncCellApply (c : Nat) (s : State) : Host.Outcome State Fault Refusal := runWrite c cellApply s

def execSyncCellLoad (c : Nat) (s : State) : Host.Outcome State Fault Refusal := runWrite c cellLoad s

def execContextReset (c ctx : Nat) (s : State) : Host.Outcome State Fault Refusal := runWrite c (contextReset ctx) s

def execSyncEccError (c cell : Nat) (s : State) : Host.Outcome State Fault Refusal := run c (syncEcc cell) s

end Sys2Proof.Machine
end

