-- ==== Sys2Proof/Machine/ExecSystem.lean ====
section
/-! DEFINITION. One definition per command: configuration, Chombe, replay, memory, supply and clocks (spec/18 to 22). -/

namespace Sys2Proof.Machine

def execBootDone (c : Nat) (flash puf : List Byte) (con : Content) (step : BootStep) (s : State) :
    Host.Outcome State Fault Refusal := run c (bootDone flash puf con step) s

def execCfgLoad (c : Nat) (s : State) : Host.Outcome State Fault Refusal := runWrite c cfgLoad s

def execLoadDone (c : Nat) (con : Content) (errs : List (Nat × EccStat)) (step : LoadStep) (s : State) :
    Host.Outcome State Fault Refusal :=
  run c (loadDone con errs step) s

def execCfgCommit (c : Nat) (s : State) : Host.Outcome State Fault Refusal := runWrite c cfgCommit s

def execCfgCommitNext (c : Nat) (s : State) : Host.Outcome State Fault Refusal := runWrite c cfgCommitNext s

def execCfgAbandon (c : Nat) (s : State) : Host.Outcome State Fault Refusal := runWrite c cfgAbandon s

def execCfgAttest (c : Nat) (s : State) : Host.Outcome State Fault Refusal := runWrite c cfgAttest s

def execAttestDone (c : Nat) (s : State) : Host.Outcome State Fault Refusal := run c attestDone s

def execFirmwareReloadDone (c t : Nat) (s : State) : Host.Outcome State Fault Refusal := run c (reloadDone t) s

def execUnitFence (c cls slot : Nat) (s : State) : Host.Outcome State Fault Refusal := runWrite c (unitFence cls slot) s

def execFenceFlush (c cls slot : Nat) (s : State) : Host.Outcome State Fault Refusal := run c (fenceFlush cls slot) s

def execUnitSwap (c cls slot : Nat) (s : State) : Host.Outcome State Fault Refusal := runWrite c (unitSwap cls slot) s

def execUnitReadmit (c cls phys : Nat) (s : State) : Host.Outcome State Fault Refusal := runWrite c (unitReadmit cls phys) s

def execClearDone (c cls phys : Nat) (s : State) : Host.Outcome State Fault Refusal := run c (clearDone cls phys) s

def execSafeDetect (c : Nat) (s : State) : Host.Outcome State Fault Refusal := run c safeDetect s

def execSafeForce (c : Nat) (w : Word) (s : State) : Host.Outcome State Fault Refusal := runWrite c (safeForce w) s

def execSafeClear (c : Nat) (w : Word) (s : State) : Host.Outcome State Fault Refusal := runWrite c (safeClear w) s

def execChombeMismatch (c : Nat) (s : State) : Host.Outcome State Fault Refusal := run c chombeMismatch s

def execCoreClkLoss (c : Nat) (s : State) : Host.Outcome State Fault Refusal := run c coreClkLoss s

def execSelfTestGo (c cls phys : Nat) (s : State) : Host.Outcome State Fault Refusal := runWrite c (selfTestGo cls phys) s

def execSelfTestDone (c : Nat) (pass : Bool) (s : State) : Host.Outcome State Fault Refusal := run c (selfTestDone pass) s

def execReplayRecordApply (c : Nat) (there : Bool) (s : State) : Host.Outcome State Fault Refusal := run c (replayRecord there) s

/-- PORST_N low for 1 µs (R498). -/
def execPorst (_c : Nat) (s : State) : Host.Outcome State Fault Refusal := resetTo (coldBlk s.blk) s

/-- A rail below its reset level (R498, R503): PWR_RESET_CAUSE records the rail. -/
def execSupplyReset (_c : Nat) (fall : RailFall) (s : State) : Host.Outcome State Fault Refusal :=
  resetTo (supplyBlk fall.rail fall.straps s.blk) s

/-- A write to PWR_CTRL (R498): a warm reset with RESET = 1 and KEY = 0x5A; any other write is ignored. -/
def execWarmReset (c : Nat) (w : CtrlWrite) (s : State) : Host.Outcome State Fault Refusal :=
  if w.word.bit 0 ∧ w.word.fld 31 24 = 0x5A then resetTo (warmBlk 4 w.straps s.blk) s else run c id s

/-- The debug-port reset instruction (R498). -/
def execDebugReset (at_ : ResetAt) (s : State) : Host.Outcome State Fault Refusal := resetTo (warmBlk 8 at_.straps s.blk) s

def execPorstNRise (c devid : Nat) (s : State) : Host.Outcome State Fault Refusal := run c (porstNRise devid) s

def execAlignmentPulse (c : Nat) (s : State) : Host.Outcome State Fault Refusal := run c alignmentPulse s

def execPllLockLoss (c pll : Nat) (s : State) : Host.Outcome State Fault Refusal := run c (pllLockLoss pll) s

def execHostPortReady (c : Nat) (s : State) : Host.Outcome State Fault Refusal := run c hostPortReady s

def execDipStart (c : Nat) (s : State) : Host.Outcome State Fault Refusal := run c dipStart s

def execDipEnd (c : Nat) (s : State) : Host.Outcome State Fault Refusal := run c dipEnd s

def execSuspectIntervalEnd (c : Nat) (s : State) : Host.Outcome State Fault Refusal := run c suspectEnd s

def execBrownoutTmax (c : Nat) (s : State) : Host.Outcome State Fault Refusal := run c dipTmax s

/-- A measurement of VDD_CORE (R512). -/
def execVcoreMeasure (c mv : Nat) (s : State) : Host.Outcome State Fault Refusal :=
  run c (fun b => setF b Reg.PWR_VCORE 11 0 mv) s

/-- A measurement of an external clock (R512). -/
def execClkFreqMeasure (c q f : Nat) (s : State) : Host.Outcome State Fault Refusal :=
  run c (fun b => if q < 10 then setF b (Reg.CLK_FREQ q) 15 0 f else b) s

def execDomainOffRequest (c d : Nat) (s : State) : Host.Outcome State Fault Refusal := runWrite c (domOffReq d) s

def execDomainOff (c d : Nat) (s : State) : Host.Outcome State Fault Refusal := run c (domOff d) s

def execDomainWakeRequest (c d : Nat) (s : State) : Host.Outcome State Fault Refusal := runWrite c (domWakeReq d) s

def execDomainOn (c d : Nat) (s : State) : Host.Outcome State Fault Refusal := run c (domOn d) s

def execBankGroupOffRequest (c t g : Nat) (s : State) : Host.Outcome State Fault Refusal := runWrite c (grpOffReq t g) s

def execBankGroupOff (c t g : Nat) (s : State) : Host.Outcome State Fault Refusal := run c (grpOff t g) s

def execBankGroupWakeRequest (c t g : Nat) (s : State) : Host.Outcome State Fault Refusal := runWrite c (grpWakeReq t g) s

def execBankGroupOn (c t g : Nat) (s : State) : Host.Outcome State Fault Refusal := run c (grpOn t g) s

def execGddr6Refresh (c ch : Nat) (delayed : List Nat) (s : State) : Host.Outcome State Fault Refusal :=
  run c (gate (decide (ch < 16)) (gddrRefresh ch delayed)) s

def execMemHot (c comp : Nat) (s : State) : Host.Outcome State Fault Refusal := run c (gate (decide (comp < 8)) (memHot comp)) s

def execMemCool (c : Nat) (s : State) : Host.Outcome State Fault Refusal := run c memCool s

def execMemReadDone (c a : Nat) (ecc : EccStat) (s : State) : Host.Outcome State Fault Refusal := run c (memReadDone a ecc) s

def execMemWriteEdc (c a : Nat) (first second : Bool) (s : State) : Host.Outcome State Fault Refusal :=
  run c (memWriteEdc a first second) s

def execMemCeWriteback (c a : Nat) (s : State) : Host.Outcome State Fault Refusal := run c (memCeWriteback a) s

def execRegionOffRequest (c r : Nat) (s : State) : Host.Outcome State Fault Refusal := runWrite c (regionOffReq r) s

def execRegionOff (c r : Nat) (s : State) : Host.Outcome State Fault Refusal := run c (regionOff r) s

def execRegionOnRequest (c r : Nat) (s : State) : Host.Outcome State Fault Refusal := runWrite c (regionOnReq r) s

def execRegionFillDone (c r : Nat) (s : State) : Host.Outcome State Fault Refusal := run c (regionFillDone r) s

def execPtInvalidate (c : Nat) (w : Word) (s : State) : Host.Outcome State Fault Refusal := runWrite c (ptInvalidate w) s

def execPtInvalidateDone (c : Nat) (s : State) : Host.Outcome State Fault Refusal := run c ptInvalidateDone s

def execRecStart (c : Nat) (w : Word) (s : State) : Host.Outcome State Fault Refusal := runWrite c (recCtrlWrite w) s

def execRecStop (c : Nat) (w : Word) (s : State) : Host.Outcome State Fault Refusal := runWrite c (recCtrlWrite w) s

def execRecLostWrite (c : Nat) (s : State) : Host.Outcome State Fault Refusal := run c recLostWrite s

def execScrubWrite (c t a : Nat) (s : State) : Host.Outcome State Fault Refusal := run c (scrubWrite t a) s

end Sys2Proof.Machine
end

