-- ==== Sys2Proof/Machine/ExecTiller.lean ====
section
/-! DEFINITION. One definition per command: tillers, scratchpads, streams and DMA (spec/09 to 12, 14). -/

namespace Sys2Proof.Machine

def execTslot (c t pc xd : Nat) (s : State) : Host.Outcome State Fault Refusal := run c (tslot t pc xd) s

def execTpull (c t pc : Nat) (xs : ReadOp) (s : State) : Host.Outcome State Fault Refusal :=
  run c (mayHold t (.tpull c t pc xs) (fenced t (tpull t pc xs.reg xs.errs))) s

def execTaskGrant (c : Nat) (s : State) : Host.Outcome State Fault Refusal := run c taskGrant s

def execTdone (c t pc : Nat) (s : State) : Host.Outcome State Fault Refusal := run c (fenced t (tdone t pc)) s

def execTaskComplete (c t : Nat) (s : State) : Host.Outcome State Fault Refusal := run c (fenced t (taskComplete t)) s

def execTabort (c t pc : Nat) (s : State) : Host.Outcome State Fault Refusal := run c (tabort t pc) s

def execHdrmrg (c t pc xd xs1 : Nat) (xs2 : ReadOp) (s : State) : Host.Outcome State Fault Refusal :=
  run c (mayHold t (.hdrmrg c t pc xd xs1 xs2) (hdrmrg t pc xd xs1 xs2.reg xs2.errs)) s

def execPatch (c t pc : Nat) (xs : ReadOp) (s : State) : Host.Outcome State Fault Refusal :=
  run c (mayHold t (.patch c t pc xs) (fenced t (patch t pc xs.reg xs.errs))) s

def execDspClrWait (c list : Nat) (s : State) : Host.Outcome State Fault Refusal := runWrite c (dspClrWait list) s

def execDspClrHwm (c list : Nat) (s : State) : Host.Outcome State Fault Refusal := runWrite c (dspClrHwm list) s

def execMma (c t pc : Nat) (xs : ReadOp) (s : State) : Host.Outcome State Fault Refusal :=
  run c (mayHold t (.mma c t pc xs) (mma t pc xs.reg xs.errs)) s

def execArrayOpComplete (c : Nat) (t : EngineEnd) (s : State) : Host.Outcome State Fault Refusal :=
  run c (fun b => mwaitEnd (arrayComplete t.tiller t.errs b) t.tiller) s

def execMwait (c t pc : Nat) (s : State) : Host.Outcome State Fault Refusal := run c (mwait t pc) s

def execWchain (c t pc : Nat) (xs : ReadOp) (s : State) : Host.Outcome State Fault Refusal :=
  run c (mayHold t (.wchain c t pc xs) (wchain t pc xs.reg xs.errs)) s

def execWchainComplete (c t : Nat) (s : State) : Host.Outcome State Fault Refusal := run c (wchainComplete t) s

def execVectorBundle (c t pc : Nat) (insns : Bundle) (s : State) : Host.Outcome State Fault Refusal :=
  run c (mayHold t (.vectorBundle c t pc insns) (vectorBundle t pc insns.insns insns.errs)) s

def execTrw (c t pc vs width : Nat) (high : Bool) (s : State) : Host.Outcome State Fault Refusal :=
  run c (mayHold t (.trw c t pc vs width high) (trw t pc vs width high)) s

def execTrr (c t pc vd width : Nat) (s : State) : Host.Outcome State Fault Refusal :=
  run c (mayHold t (.trr c t pc vd width) (trr t pc vd width)) s

def execCoreLoadStore (c t pc : Nat) (op : MemOp) (errs : List (Nat × EccStat)) (s : State) : Host.Outcome State Fault Refusal :=
  run c (mayHold t (.coreLoadStore c t pc op errs) (coreLoadStore t pc op errs)) s

def execMfill (c t pc xd xn xw : Nat) (s : State) : Host.Outcome State Fault Refusal :=
  run c (mayHold t (.mfill c t pc xd xn xw) (mfill t pc xd xn xw)) s

def execMcopy (c t pc xd xn xs : Nat) (s : State) : Host.Outcome State Fault Refusal :=
  run c (mayHold t (.mcopy c t pc xd xn xs) (mcopy t pc xd xn xs)) s

def execFillCopyComplete (c : Nat) (t : EngineEnd) (s : State) : Host.Outcome State Fault Refusal :=
  run c (fillComplete t.tiller t.errs) s

def execCacheResize (c t : Nat) (s : State) : Host.Outcome State Fault Refusal := run c (cacheResize t) s

def execCacheResizeDone (c t : Nat) (s : State) : Host.Outcome State Fault Refusal := run c (cacheResizeDone t) s

def execGlumeRequest (c : Nat) (p : PacketIn) (s : State) : Host.Outcome State Fault Refusal :=
  run c (glumeRequest p.packet p.errs) s

def execSarm (c t pc xd : Nat) (xs : ReadOp) (slot : Nat) (s : State) : Host.Outcome State Fault Refusal :=
  run c (mayHold t (.sarm c t pc xd xs slot) (sarm t pc xd xs.reg slot xs.errs)) s

def execSrearm (c t pc xd : Nat) (xs : ReadOp) (slot : Nat) (s : State) : Host.Outcome State Fault Refusal :=
  run c (mayHold t (.srearm c t pc xd xs slot) (srearm t pc xd xs.reg slot xs.errs)) s

def execSquery (c t pc xd slot : Nat) (s : State) : Host.Outcome State Fault Refusal := run c (squery t pc xd slot) s

def execSresume (c t pc ch e : Nat) (s : State) : Host.Outcome State Fault Refusal := run c (sresume t pc ch e) s

def execSdisarm (c t pc slot : Nat) (s : State) : Host.Outcome State Fault Refusal := run c (sdisarm t pc slot) s

def execDmaStart (c t slot : Nat) (s : State) : Host.Outcome State Fault Refusal := run c (dmaStart t slot) s

def execArbGrant (c : Nat) (rem : List RemReq) (point : Nat) (s : State) : Host.Outcome State Fault Refusal :=
  run c (arbGrant rem point) s

def execDmaUnitDone (c t slot : Nat) (ecc : NearFar) (data : List Byte) (s : State) : Host.Outcome State Fault Refusal :=
  run c (fenced t (fun b => dmaUnit (drainQueues ecc.gone b) t slot ecc.near ecc.far data)) s

def execDmaComplete (c t slot : Nat) (s : State) : Host.Outcome State Fault Refusal := run c (fenced t (dmaComplete t slot)) s

def execDmaResumeWrite (c t : Nat) (w : Word) (s : State) : Host.Outcome State Fault Refusal := runWrite c (dmaResumeWrite t w) s

end Sys2Proof.Machine
end

