-- ==== Sys2Proof/Machine/Dispatch.lean ====
section
/-! DEFINITION. One arm per command: the command's meaning. -/

namespace Sys2Proof.Machine

/-- The effect of a command on the block (everything but the queue of waiting commands, which it keeps). -/
def exec (i : Instr) (s : State) : Host.Outcome State Fault Refusal :=
  match i with
  | .porst c => Sys2Proof.Machine.execPorst c s
  | .supplyReset c fall => Sys2Proof.Machine.execSupplyReset c fall s
  | .warmReset c w => Sys2Proof.Machine.execWarmReset c w s
  | .debugReset at_ => Sys2Proof.Machine.execDebugReset at_ s
  | .alignmentPulse c => Sys2Proof.Machine.execAlignmentPulse c s
  | .pllLockLoss c pll => Sys2Proof.Machine.execPllLockLoss c pll s
  | .bootDone c flash puf con step => Sys2Proof.Machine.execBootDone c flash puf con step s
  | .dipStart c => Sys2Proof.Machine.execDipStart c s
  | .dipEnd c => Sys2Proof.Machine.execDipEnd c s
  | .suspectIntervalEnd c => Sys2Proof.Machine.execSuspectIntervalEnd c s
  | .brownoutTmax c => Sys2Proof.Machine.execBrownoutTmax c s
  | .vcoreMeasure c mv => Sys2Proof.Machine.execVcoreMeasure c mv s
  | .clkFreqMeasure c q f => Sys2Proof.Machine.execClkFreqMeasure c q f s
  | .encoderCount c a b => Sys2Proof.Machine.execEncoderCount c a b s
  | .zEdge c a b => Sys2Proof.Machine.execZEdge c a b s
  | .ltrigEdge c => Sys2Proof.Machine.execLtrigEdge c s
  | .stop c => Sys2Proof.Machine.execStop c s
  | .encLoss c pair => Sys2Proof.Machine.execEncLoss c pair s
  | .tbEnable c w => Sys2Proof.Machine.execTbEnable c w s
  | .tbDisable c w => Sys2Proof.Machine.execTbDisable c w s
  | .tbDirChange c w => Sys2Proof.Machine.execTbDirChange c w s
  | .tbSrcChange c w => Sys2Proof.Machine.execTbSrcChange c w s
  | .lineTick c => Sys2Proof.Machine.execLineTick c s
  | .triggerFire c n => Sys2Proof.Machine.execTriggerFire c n s
  | .slotOpen c stage => Sys2Proof.Machine.execSlotOpen c stage s
  | .slotClose c stage line => Sys2Proof.Machine.execSlotClose c stage line s
  | .stageHung c stage line => Sys2Proof.Machine.execStageHung c stage line s
  | .stageComplete c stage line errs => Sys2Proof.Machine.execStageComplete c stage line errs s
  | .stereoPhaseADone c stage line errs => Sys2Proof.Machine.execStereoPhaseADone c stage line errs s
  | .laneStatsDone c n => Sys2Proof.Machine.execLaneStatsDone c n s
  | .commandScan c => Sys2Proof.Machine.execCommandScan c s
  | .cmdNop c => Sys2Proof.Machine.execCmdNop c s
  | .cmdWrite32 c => Sys2Proof.Machine.execCmdWrite32 c s
  | .cmdSignal c => Sys2Proof.Machine.execCmdSignal c s
  | .cmdMark c => Sys2Proof.Machine.execCmdMark c s
  | .cmdGoldenReq c => Sys2Proof.Machine.execCmdGoldenReq c s
  | .seqEnable c w => Sys2Proof.Machine.execSeqEnable c w s
  | .seqHalt c w => Sys2Proof.Machine.execSeqHalt c w s
  | .dupMismatch c => Sys2Proof.Machine.execDupMismatch c s
  | .tblEccError c copy ue => Sys2Proof.Machine.execTblEccError c copy ue s
  | .ingDup c item => Sys2Proof.Machine.execIngDup c item s
  | .lineStart c n x => Sys2Proof.Machine.execLineStart c n x s
  | .lineEnd c n => Sys2Proof.Machine.execLineEnd c n s
  | .windowOpen c n => Sys2Proof.Machine.execWindowOpen c n s
  | .startDeadline c n => Sys2Proof.Machine.execStartDeadline c n s
  | .endDeadline c n => Sys2Proof.Machine.execEndDeadline c n s
  | .fvalFall c n => Sys2Proof.Machine.execFvalFall c n s
  | .cpClkLoss c n => Sys2Proof.Machine.execCpClkLoss c n s
  | .cpClkBack c n => Sys2Proof.Machine.execCpClkBack c n s
  | .headWriteDone c n => Sys2Proof.Machine.execHeadWriteDone c n s
  | .headNack c n => Sys2Proof.Machine.execHeadNack c n s
  | .feTblDataWrite c n w => Sys2Proof.Machine.execFeTblDataWrite c n w s
  | .feTblDataRead c n => Sys2Proof.Machine.execFeTblDataRead c n s
  | .wpMeshDataWrite c w => Sys2Proof.Machine.execWpMeshDataWrite c w s
  | .wpMeshDataRead c => Sys2Proof.Machine.execWpMeshDataRead c s
  | .ftPatDataRead c => Sys2Proof.Machine.execFtPatDataRead c s
  | .grnFlagDataRead c => Sys2Proof.Machine.execGrnFlagDataRead c s
  | .syncVtDataRead c => Sys2Proof.Machine.execSyncVtDataRead c s
  | .tslot c t pc xd => Sys2Proof.Machine.execTslot c t pc xd s
  | .tpull c t pc xs => Sys2Proof.Machine.execTpull c t pc xs s
  | .taskGrant c => Sys2Proof.Machine.execTaskGrant c s
  | .tdone c t pc => Sys2Proof.Machine.execTdone c t pc s
  | .taskComplete c t => Sys2Proof.Machine.execTaskComplete c t s
  | .tabort c t pc => Sys2Proof.Machine.execTabort c t pc s
  | .mma c t pc xs => Sys2Proof.Machine.execMma c t pc xs s
  | .arrayOpComplete c t => Sys2Proof.Machine.execArrayOpComplete c t s
  | .mwait c t pc => Sys2Proof.Machine.execMwait c t pc s
  | .vectorBundle c t pc insns => Sys2Proof.Machine.execVectorBundle c t pc insns s
  | .coreLoadStore c t pc op errs => Sys2Proof.Machine.execCoreLoadStore c t pc op errs s
  | .trw c t pc vs width high => Sys2Proof.Machine.execTrw c t pc vs width high s
  | .trr c t pc vd width => Sys2Proof.Machine.execTrr c t pc vd width s
  | .hdrmrg c t pc xd xs1 xs2 => Sys2Proof.Machine.execHdrmrg c t pc xd xs1 xs2 s
  | .wchain c t pc xs => Sys2Proof.Machine.execWchain c t pc xs s
  | .wchainComplete c t => Sys2Proof.Machine.execWchainComplete c t s
  | .patch c t pc xs => Sys2Proof.Machine.execPatch c t pc xs s
  | .ssig c t pc xd xv xs => Sys2Proof.Machine.execSsig c t pc xd xv xs s
  | .scons c t pc xd xv xs => Sys2Proof.Machine.execScons c t pc xd xv xs s
  | .swait c t pc xd xv xs mode => Sys2Proof.Machine.execSwait c t pc xd xv xs mode s
  | .sbar c t pc xd xv => Sys2Proof.Machine.execSbar c t pc xd xv s
  | .sread c t pc xd xv sel => Sys2Proof.Machine.execSread c t pc xd xv sel s
  | .waitRelease c t => Sys2Proof.Machine.execWaitRelease c t s
  | .ftest c t pc xd xs => Sys2Proof.Machine.execFtest c t pc xd xs s
  | .fwait c t pc xs => Sys2Proof.Machine.execFwait c t pc xs s
  | .fclr c t pc xs => Sys2Proof.Machine.execFclr c t pc xs s
  | .fset c t pc xs => Sys2Proof.Machine.execFset c t pc xs s
  | .sarm c t pc xd xs slot => Sys2Proof.Machine.execSarm c t pc xd xs slot s
  | .srearm c t pc xd xs slot => Sys2Proof.Machine.execSrearm c t pc xd xs slot s
  | .squery c t pc xd slot => Sys2Proof.Machine.execSquery c t pc xd slot s
  | .sresume c t pc ch e => Sys2Proof.Machine.execSresume c t pc ch e s
  | .sdisarm c t pc slot => Sys2Proof.Machine.execSdisarm c t pc slot s
  | .mfill c t pc xd xn xw => Sys2Proof.Machine.execMfill c t pc xd xn xw s
  | .mcopy c t pc xd xn xs => Sys2Proof.Machine.execMcopy c t pc xd xn xs s
  | .fillCopyComplete c t => Sys2Proof.Machine.execFillCopyComplete c t s
  | .dmaStart c t slot => Sys2Proof.Machine.execDmaStart c t slot s
  | .arbGrant c rem point => Sys2Proof.Machine.execArbGrant c rem point s
  | .dmaUnitDone c t slot ecc data => Sys2Proof.Machine.execDmaUnitDone c t slot ecc data s
  | .dmaComplete c t slot => Sys2Proof.Machine.execDmaComplete c t slot s
  | .dmaResumeWrite c t w => Sys2Proof.Machine.execDmaResumeWrite c t w s
  | .scrubWrite c t a => Sys2Proof.Machine.execScrubWrite c t a s
  | .cacheResize c t => Sys2Proof.Machine.execCacheResize c t s
  | .cacheResizeDone c t => Sys2Proof.Machine.execCacheResizeDone c t s
  | .glumeRequest c p => Sys2Proof.Machine.execGlumeRequest c p s
  | .syncCellApply c => Sys2Proof.Machine.execSyncCellApply c s
  | .syncCellLoad c => Sys2Proof.Machine.execSyncCellLoad c s
  | .contextReset c ctx => Sys2Proof.Machine.execContextReset c ctx s
  | .syncEccError c cell => Sys2Proof.Machine.execSyncEccError c cell s
  | .dspClrWait c list => Sys2Proof.Machine.execDspClrWait c list s
  | .dspClrHwm c list => Sys2Proof.Machine.execDspClrHwm c list s
  | .hostRead c at_ => Sys2Proof.Machine.execHostRead c at_ s
  | .hostWrite c at_ data => Sys2Proof.Machine.execHostWrite c at_ data s
  | .hostMaskedWrite c off data mask => Sys2Proof.Machine.execHostMaskedWrite c off data mask s
  | .modeRegisterWrite c ch mr v => Sys2Proof.Machine.execModeRegisterWrite c ch mr v s
  | .modeRegisterRead c ch mr => Sys2Proof.Machine.execModeRegisterRead c ch mr s
  | .hostRefresh c ch => Sys2Proof.Machine.execHostRefresh c ch s
  | .selfRefreshEntry c ch => Sys2Proof.Machine.execSelfRefreshEntry c ch s
  | .selfRefreshExit c ch => Sys2Proof.Machine.execSelfRefreshExit c ch s
  | .powerDownEntry c ch => Sys2Proof.Machine.execPowerDownEntry c ch s
  | .powerDownExit c ch => Sys2Proof.Machine.execPowerDownExit c ch s
  | .zqCalibration c ch => Sys2Proof.Machine.execZqCalibration c ch s
  | .commandBusTraining c ch => Sys2Proof.Machine.execCommandBusTraining c ch s
  | .wck2ckLevelling c ch => Sys2Proof.Machine.execWck2ckLevelling c ch s
  | .readDqCalibration c ch => Sys2Proof.Machine.execReadDqCalibration c ch s
  | .writeFifo c ch data => Sys2Proof.Machine.execWriteFifo c ch data s
  | .hostResetN c => Sys2Proof.Machine.execHostResetN c s
  | .mirrorUpdate c off => Sys2Proof.Machine.execMirrorUpdate c off s
  | .crTailWrite c ring w => Sys2Proof.Machine.execCrTailWrite c ring w s
  | .syncApertureWrite c off data => Sys2Proof.Machine.execSyncApertureWrite c off data s
  | .broadcastWrite c off data => Sys2Proof.Machine.execBroadcastWrite c off data s
  | .deviceWindowWrite c off data => Sys2Proof.Machine.execDeviceWindowWrite c off data s
  | .remoteRead c w => Sys2Proof.Machine.execRemoteRead c w s
  | .remoteReadDone c ok data => Sys2Proof.Machine.execRemoteReadDone c ok data s
  | .frameMap c f => Sys2Proof.Machine.execFrameMap c f s
  | .frameMapZero c f => Sys2Proof.Machine.execFrameMapZero c f s
  | .frameFlush c f => Sys2Proof.Machine.execFrameFlush c f s
  | .frameUnmap c f => Sys2Proof.Machine.execFrameUnmap c f s
  | .frameOpDone c f errs => Sys2Proof.Machine.execFrameOpDone c f errs s
  | .linkUp c l dev sysId => Sys2Proof.Machine.execLinkUp c l dev sysId s
  | .linkDown c l => Sys2Proof.Machine.execLinkDown c l s
  | .linkRetrain c w => Sys2Proof.Machine.execLinkRetrain c w s
  | .linkPacketArrival c l crcOk p => Sys2Proof.Machine.execLinkPacketArrival c l crcOk p s
  | .linkRetry c l n d => Sys2Proof.Machine.execLinkRetry c l n d s
  | .unreachNotice c dev what => Sys2Proof.Machine.execUnreachNotice c dev what s
  | .resultRecordArrival c ring words => Sys2Proof.Machine.execResultRecordArrival c ring words s
  | .eventForwardArrival c words => Sys2Proof.Machine.execEventForwardArrival c words s
  | .evtLostForward c => Sys2Proof.Machine.execEvtLostForward c s
  | .safeRecordArrival c words => Sys2Proof.Machine.execSafeRecordArrival c words s
  | .paniclePacket c p gone => Sys2Proof.Machine.execPaniclePacket c p gone s
  | .cfgLoad c => Sys2Proof.Machine.execCfgLoad c s
  | .loadDone c con errs step => Sys2Proof.Machine.execLoadDone c con errs step s
  | .cfgCommit c => Sys2Proof.Machine.execCfgCommit c s
  | .cfgCommitNext c => Sys2Proof.Machine.execCfgCommitNext c s
  | .cfgAbandon c => Sys2Proof.Machine.execCfgAbandon c s
  | .cfgAttest c => Sys2Proof.Machine.execCfgAttest c s
  | .attestDone c => Sys2Proof.Machine.execAttestDone c s
  | .firmwareReloadDone c t => Sys2Proof.Machine.execFirmwareReloadDone c t s
  | .unitFence c cls slot => Sys2Proof.Machine.execUnitFence c cls slot s
  | .fenceFlush c cls slot => Sys2Proof.Machine.execFenceFlush c cls slot s
  | .unitSwap c cls slot => Sys2Proof.Machine.execUnitSwap c cls slot s
  | .unitReadmit c cls phys => Sys2Proof.Machine.execUnitReadmit c cls phys s
  | .clearDone c cls phys => Sys2Proof.Machine.execClearDone c cls phys s
  | .safeDetect c => Sys2Proof.Machine.execSafeDetect c s
  | .safeForce c w => Sys2Proof.Machine.execSafeForce c w s
  | .safeClear c w => Sys2Proof.Machine.execSafeClear c w s
  | .chombeMismatch c => Sys2Proof.Machine.execChombeMismatch c s
  | .coreClkLoss c => Sys2Proof.Machine.execCoreClkLoss c s
  | .selfTestGo c cls phys => Sys2Proof.Machine.execSelfTestGo c cls phys s
  | .selfTestDone c pass => Sys2Proof.Machine.execSelfTestDone c pass s
  | .recStart c w => Sys2Proof.Machine.execRecStart c w s
  | .recStop c w => Sys2Proof.Machine.execRecStop c w s
  | .recLostWrite c => Sys2Proof.Machine.execRecLostWrite c s
  | .replayStart c w => Sys2Proof.Machine.execReplayStart c w s
  | .replayRecordApply c there => Sys2Proof.Machine.execReplayRecordApply c there s
  | .gddr6Refresh c ch delayed => Sys2Proof.Machine.execGddr6Refresh c ch delayed s
  | .memHot c comp => Sys2Proof.Machine.execMemHot c comp s
  | .memCool c => Sys2Proof.Machine.execMemCool c s
  | .memReadDone c a ecc => Sys2Proof.Machine.execMemReadDone c a ecc s
  | .memWriteEdc c a first second => Sys2Proof.Machine.execMemWriteEdc c a first second s
  | .memCeWriteback c a => Sys2Proof.Machine.execMemCeWriteback c a s
  | .regionOffRequest c r => Sys2Proof.Machine.execRegionOffRequest c r s
  | .regionOff c r => Sys2Proof.Machine.execRegionOff c r s
  | .regionOnRequest c r => Sys2Proof.Machine.execRegionOnRequest c r s
  | .regionFillDone c r => Sys2Proof.Machine.execRegionFillDone c r s
  | .ptInvalidate c w => Sys2Proof.Machine.execPtInvalidate c w s
  | .ptInvalidateDone c => Sys2Proof.Machine.execPtInvalidateDone c s
  | .domainOffRequest c d => Sys2Proof.Machine.execDomainOffRequest c d s
  | .domainOff c d => Sys2Proof.Machine.execDomainOff c d s
  | .domainWakeRequest c d => Sys2Proof.Machine.execDomainWakeRequest c d s
  | .domainOn c d => Sys2Proof.Machine.execDomainOn c d s
  | .bankGroupOffRequest c t g => Sys2Proof.Machine.execBankGroupOffRequest c t g s
  | .bankGroupOff c t g => Sys2Proof.Machine.execBankGroupOff c t g s
  | .bankGroupWakeRequest c t g => Sys2Proof.Machine.execBankGroupWakeRequest c t g s
  | .bankGroupOn c t g => Sys2Proof.Machine.execBankGroupOn c t g s
  | .registerWrite c off data => Sys2Proof.Machine.execRegisterWrite c off data s
  | .porstNRise c devid => Sys2Proof.Machine.execPorstNRise c devid s
  | .hostPortReady c => Sys2Proof.Machine.execHostPortReady c s
  | .validTransfer c n x => Sys2Proof.Machine.execValidTransfer c n x s

end Sys2Proof.Machine
end

