-- ==== Sys2Proof/Machine/Idle.lean ====
section
/-! DEFINITION. What the block does when no command waits (DESIGN CHOICE, log entry 5): one core cycle passes, and a member
sends one record of its forwarding queue to the head (spec/17_multi_device.md R400, R401). -/

namespace Sys2Proof.Machine

/-- A forwarded record leaves for the head, or is lost and counted (R396, R401). -/
def forwardEvent (ws : List Word) (b : Block) : Block :=
  let r := sendTo b 0 (.event ws)
  if r.2 then r.1 else lostAt r.1 2

/-- May a record leave now: the core clock runs and a system section is loaded? -/
def canForward (b : Block) : Bool := b.pwr.core && decide ((rg b Reg.LNK_SYS).fld 31 30 ≠ 0)

/-- One core cycle without a command. -/
def idle (s : State) : Host.Outcome State Fault Refusal :=
  match s.pub.fwdQ with
  | [] => run (s.blk.pwr.ccy + 1) id s
  | ws :: rest =>
    if canForward s.blk then
      run (s.blk.pwr.ccy + 1) (forwardEvent ws) { s with pub := { s.pub with fwdQ := rest } }
    else run (s.blk.pwr.ccy + 1) id s

end Sys2Proof.Machine
end

