-- ==== Sys2Proof/Safety.lean ====
section
/-! DEFINITION. The terms in which claims about the block are made: which parts of the block a command leaves as it found
them, and what holds of every state that a step leaves. -/

namespace Sys2Proof.Machine

/-! ## Frames -/

/-- Registers that the thresher and the pins write after every command (R379, R386, R401). -/
def settleRegs : List Nat := [Reg.HOST_ATTN_STATUS, Reg.LNK_CNT_EVT_LOST, Reg.LNK_STATUS]

/-- The parts of the block beside the registers as read. The rest of `now`, `once`, `retry` and `ovwr` are left out, as the
book-keeping of one core cycle or one sheaf. -/
inductive Part where
  | force | prev | mirror | snap
  | gddr | gran | spad | imem | win | image | cal | mesh
  | pwr | tb | trigs | seq | sched | ports | lanes | pyr | tuft | stereo | flow | flags | tlr | chains | lists | pqs
  | issueN | cells | vt | run | flagged | host | links | cfg | safe | dbg | mem | arb
  | raised | ops | waits | held | wrote | gens
  deriving DecidableEq, Repr

/-- The always-on part without the mark of a reset just taken, which lasts for one command. -/
def Pwr.unmarked (p : Pwr) : Pwr := { p with fresh := false }

/-- Does the part stand in both blocks alike? Of the always-on part, the mark of a reset just taken is left out; events that
wait for the end of the cycle count only while the core clock runs, since without it the thresher takes them at once. -/
def Part.same (b b' : Block) : Part → Prop
  | .force   => b'.regs.force = b.regs.force
  | .prev    => b'.regs.prev = b.regs.prev ∧ b'.regs.prev2 = b.regs.prev2
  | .mirror  => b'.regs.mirror = b.regs.mirror
  | .snap    => b'.regs.snap = b.regs.snap
  | .gddr    => b'.mems.gddr = b.mems.gddr
  | .gran    => b'.mems.gran = b.mems.gran
  | .spad    => b'.mems.spad = b.mems.spad
  | .imem    => b'.mems.imem = b.mems.imem
  | .win     => b'.mems.win = b.mems.win
  | .image   => b'.mems.image = b.mems.image
  | .cal     => b'.mems.cal = b.mems.cal
  | .mesh    => b'.mems.mesh = b.mems.mesh
  | .pwr     => b'.pwr.unmarked = b.pwr.unmarked
  | .tb      => b'.tb = b.tb
  | .trigs   => b'.trigs = b.trigs
  | .seq     => b'.seq = b.seq
  | .sched   => b'.sched = b.sched
  | .ports   => b'.ports = b.ports
  | .lanes   => b'.lanes = b.lanes
  | .pyr     => b'.pyr = b.pyr
  | .tuft    => b'.tuft = b.tuft
  | .stereo  => b'.stereo = b.stereo
  | .flow    => b'.flow = b.flow
  | .flags   => b'.flags = b.flags
  | .tlr     => b'.tlr = b.tlr
  | .chains  => b'.chains = b.chains
  | .lists   => b'.lists = b.lists
  | .pqs     => b'.pqs = b.pqs
  | .issueN  => b'.issueN = b.issueN
  | .cells   => b'.sync.cells = b.sync.cells
  | .vt      => b'.sync.vt = b.sync.vt
  | .run     => b'.sync.run = b.sync.run
  | .flagged => b'.sync.flagged = b.sync.flagged
  | .host    => b'.host = b.host
  | .links   => b'.links = b.links
  | .cfg     => b'.cfg = b.cfg
  | .safe    => b'.safe = b.safe
  | .dbg     => b'.dbg = b.dbg
  | .mem     => b'.mem = b.mem
  | .arb     => b'.arb = b.arb
  | .raised  => b'.pwr.core = true → b'.raised = b.raised
  | .ops     => b'.now.ops = b.now.ops
  | .waits   => b'.now.waits = b.now.waits
  | .held    => b'.held = b.held
  | .wrote   => b'.regs.wrote = b.regs.wrote
  | .gens    => b'.regs.forceAt = b.regs.forceAt ∧ b'.regs.prevAt = b.regs.prevAt

/-- `b'` differs from `b` at most in the parts of `ps` and the registers of `rs`, and in what the thresher writes after
every command. -/
def Keeps (ps : List Part) (rs : List Nat) (b b' : Block) : Prop :=
  (∀ p, p ∉ ps → p.same b b') ∧ (∀ a, a ∉ rs → a ∉ settleRegs → rg b' a = rg b a)

/-- The block as a command at core cycle `c` finds it in state `s`: the clock moved, and all that was due on the way done. -/
def State.asFound (s : State) (c : Nat) : Block := (found c s.pub s.blk).2

/-- The block as a host write to a register at core cycle `c` finds it: the commands that take effect in that cycle have
acted (R369). -/
def State.asWritten (s : State) (c : Nat) : Block := commandsFirst (s.asFound c)

/-- What the thresher and the pins show when a command at core cycle `c` comes. -/
def State.shown (s : State) (c : Nat) : Published := (found c s.pub s.blk).1

/-! ## Instructions of a tiller -/

/-- The core of physical tiller `t` can issue the instruction at `pc`: it is in service, blocked in nothing, not fenced, and
the instruction lies within its loaded image (R219, R262). -/
def CanIssue (b : Block) (t pc : Nat) : Prop :=
  coreReady b t = true ∧ (rg b (Reg.TLR_TASK_KBASE t)).fld 15 2 * 4 + pc < (tl b t).imgLen ∧ fencedT b t = none

/-- The tiller with core register `i` written. -/
def Tiller.wrX (x : Tiller) (i : Nat) (w : Word) : Tiller := { x with x := spPut (fun _ => 0#32) x.x (i % 32) w }

/-- Tiller `t` is now `y`, and every other tiller stands. -/
def TlrIs (t : Nat) (y : Tiller) (b b' : Block) : Prop := ∀ u, tl b' u = if u = t then y else tl b u

/-- Tiller `t` has faulted with a cause at an address (R222): its handler is entered with the cause in x5, and its array holds no
operation. -/
def Faulted (t cause pc : Nat) (b' : Block) : Prop :=
  rg b' (Reg.TLR_FAULT t) = wd cause ∧ rg b' (Reg.TLR_FAULT_PC t) = wd pc ∧ tState b' t = 3 ∧ (tl b' t).handler = true ∧
  xReg (tl b' t) 5 = wd cause ∧ (tl b' t).run = none ∧ (tl b' t).pend = none

/-- Instruction `i` of tiller `t` is held at issue for a reason (R258), and nothing else has changed. -/
def HeldAt (t : Nat) (i : Instr) (why : Stall) (b b' : Block) : Prop :=
  b'.held = b.held ++ [(t, i)] ∧ TlrIs t { tl b t with stall := some why } b b' ∧ Keeps [.tlr, .held] [] b b'

/-- `new` holds the bytes of `l` from address `a`, and every other byte as `old` does. -/
def Wrote (a : Nat) (l : List Byte) (old new : List Host.Cell) : Prop :=
  ∀ j, rdByte new j = if a ≤ j ∧ j < a + l.length then l.getD (j - a) 0#8 else rdByte old j

/-! ## Events -/

/-- The events of `l` have been raised, in this order, and wait for the end of the core cycle (where the core clock runs). -/
def Raised (l : List Ev) (b b' : Block) : Prop := b'.pwr.core = true → b'.raised = b.raised ++ l

/-- The operations of `l` have been sent to their cells and are applied at the end of the core cycle (R321). -/
def Sent (l : List CellOp) (b b' : Block) : Prop := b'.now.ops = b.now.ops ++ l

/-! ## What every step leaves -/

/-- HOST_ATTN_STATUS shows the event ring, the record rings and the state (R386), and the balls follow the block
(R379, R436, R523). -/
def Settled (s : State) : Prop :=
  s.blk.pwr.fresh = false ∧ rg s.blk Reg.HOST_ATTN_STATUS = attnWord s.blk s.pub.seq ∧
  s.pub.attnN = attnPin s.blk ∧ s.pub.safeN = safePin s.blk ∧ s.pub.balls = ballsOf s.blk

/-- The record at place `j` of the event ring holds a sequence number that is `j` modulo the ring's 4 096 places (R378,
R400). -/
def RingPlaced (s : State) : Prop :=
  s.pub.seq < 2 ^ 32 ∧ ∀ e ∈ s.pub.ring, e.1 < 4096 ∧ (wAt e.2 1).toNat % 4096 = e.1

end Sys2Proof.Machine
end

