-- ==== Sys2Proof/Certificates/Slice0/Obligations.lean ====
section
/-! DEFINITION. What is claimed of the block, for the provers: one statement each. `s.asFound c` is the block as a command at
core cycle `c` finds it; `Keeps ps rs` says that nothing changes but the parts `ps`, the registers `rs` and what the thresher
and the pins write after every command. -/

open Sys2Proof Sys2Proof.Machine

/-! ## The machine -/

/-- A step of a state with command i at the front of its queue is exec of i on the state whose queue is the rest, whatever the
command and the state. (From spec/opcode_table.json, spec/INDEX.md.) -/
def Obligations.StepRunsTheFrontCommand : Prop :=
  ∀ (i : Instr) (rest : List Instr) (s : State), step { s with pending := i :: rest } = exec i { s with pending := rest }

/-- For every command of the table, with any operands, and for every state, exec answers a next state whose queue is the one
it found: no command of this block faults or is refused (the model's reading, DEDUCED, log entry 4). What each command does is
stated command by command below. (From spec/opcode_table.json, spec/00_scope.md.) -/
def Obligations.EveryCommandCompletes : Prop :=
  ∀ (i : Instr) (s : State), ∃ t, exec i s = .next t ∧ t.pending = s.pending

/-- On an empty queue a step answers a next state with an empty queue. Where no record waits to be forwarded, nothing changes
but what is due in the cycle that passes, and the core cycle has advanced by one where the core clock runs and no work of a
later cycle waits; where it does not run, nothing changes. Where a record waits and may leave, the oldest is sent to the head.
That a cycle passes is the model's choice (DESIGN CHOICE, log entry 5). (From spec/22_power_clocks_reset.md R494,
spec/20_determinism_and_replay.md R466, spec/17_multi_device.md R401.) -/
def Obligations.IdleBlockCountsACycle : Prop :=
  ∀ s : State, s.pending = [] →
    (s.pub.fwdQ = [] → ∃ t, step s = .next t ∧ t.pending = [] ∧ Keeps [] [] (s.asFound (s.blk.pwr.ccy + 1)) t.blk ∧
      (s.blk.pwr.core = true → nextDue s.blk = none → t.blk.pwr.ccy = s.blk.pwr.ccy + 1) ∧
      (s.blk.pwr.core = false → Keeps [] [] s.blk t.blk)) ∧
    (∀ ws rest, s.pub.fwdQ = ws :: rest → canForward s.blk = true →
      ∃ t, step s = .next t ∧ t.pending = [] ∧ Keeps [] []
        (forwardEvent ws (State.asFound { s with pub := { s.pub with fwdQ := rest } } (s.blk.pwr.ccy + 1))) t.blk)

/-- Whatever command stands at the front of the queue and whatever the state before it: if a step answers a next state, then
in it the read-only bits of HOST_ATTN_STATUS show whether the event ring has unread records, whether a record ring stands at
its watermark and whether the part is in SAFE; while VDDIO_18 is not below its reset level, HOST_ATTN_N is driven low exactly
while an unmasked bit of HOST_ATTN_STATUS is set, and SAFE_N, while VDD_CHB is not below its own, is high exactly while PORST_N
is high, Chombe has its clock and the state is NORMAL; while one of the two rails is, SAFE_N is high impedance (for how long the
model holds a rail to be low is log entry 83). TRIGn is high impedance as long as TB_TRIGn_CFG has not been written. (From
spec/16_host_port.md R379, spec/16_host_port.md R386, spec/19_safety.md R436, spec/23_package_and_pins.md R521,
spec/23_package_and_pins.md R523.) -/
def Obligations.StepKeepsPinsAndAttention : Prop :=
  ∀ s t : State, step s = .next t → Settled t ∧
    (t.blk.pwr.low ≠ some 4 → (t.pub.attnN = .low ↔ rg t.blk Reg.HOST_ATTN_STATUS &&& rg t.blk Reg.HOST_ATTN_MASK ≠ 0#32)) ∧
    (t.blk.pwr.low ≠ some 4 → t.blk.pwr.low ≠ some 1 →
      (t.pub.safeN = .high ↔ t.blk.pwr.held = false ∧ t.blk.safe.clkSeen = true ∧ safeState t.blk = 1)) ∧
    (t.blk.pwr.low = some 1 ∨ t.blk.pwr.low = some 4 → t.pub.safeN = .z) ∧
    (∀ n, n < 8 → (trigOf t.blk n).cfgd = false → t.pub.balls.trig[n]? = some .z)

/-- State.reset meets what StepKeepsPinsAndAttention and StepKeepsEventRing say every step leaves. (From spec/16_host_port.md
R379, spec/19_safety.md R436, spec/24_register_summary.md R526.) -/
def Obligations.ResetIsSettled : Prop :=
  Settled State.reset ∧ RingPlaced State.reset

/-- If the next sequence number is below 2^32 and every record of the event ring stands at the place that its sequence number
names modulo 4 096, then so it is after a step, whatever the command, however many events it raises, and whether or not it
resets the part. (From spec/17_multi_device.md R400, spec/16_host_port.md R378.) -/
def Obligations.StepKeepsEventRing : Prop :=
  ∀ s t : State, RingPlaced s → step s = .next t → RingPlaced t

/-- The events of a cycle are taken the block's own first, no event before one of lower CODE, or of equal CODE and lower ARG,
then the forwarded ones in order of arrival (that the own ones come first is log entry 57). At most 4 096 events taken from a
list get consecutive sequence numbers: the next sequence number has advanced by the length of the list, the i-th event stands
at its place of the ring as its code, argument, device, position and number make it, and a record was overwritten unread
exactly when the ring then held 4 096 unread ones. On device 0 no record is discarded; on a member an event that finds fewer
than 256 records waiting joins the forwarding queue, and one that finds 256 is discarded and counted. (From
spec/17_multi_device.md R400, spec/17_multi_device.md R401, spec/16_host_port.md R378.) -/
def Obligations.ThresherTakesEventsInOrder : Prop :=
  (∀ l : List Ev, (cycleEvents l).Perm l ∧
      (cycleEvents l).filter (fun e => e.fwd.isSome) = l.filter (fun e => e.fwd.isSome) ∧
      ((cycleEvents l).filter (fun e => e.fwd.isNone)).Pairwise (fun e e' => evLt e' e = false)) ∧
  (∀ (pos rd : Nat) (l : List Ev) (p : Published), l.length ≤ 4096 → p.seq < 2 ^ 32 →
    (takeEvents 0 pos rd l p).2.lost = 0 ∧ (takeEvents 0 pos rd l p).1.seq = (p.seq + l.length) % 2 ^ 32 ∧
    ((takeEvents 0 pos rd l p).2.ovwr = true ↔ ∃ i, i < l.length ∧ 4096 ≤ subMod 32 ((p.seq + i) % 2 ^ 32) rd) ∧
    ∀ i e, l[i]? = some e →
      spGet evNone (takeEvents 0 pos rd l p).1.ring ((p.seq + i) % 2 ^ 32 % 4096) =
        evWords 0 pos ((p.seq + i) % 2 ^ 32) e) ∧
  (∀ (dev pos rd : Nat) (p : Published) (k : Taken) (e : Ev), dev ≠ 0 → e.code ≠ 0xA6 →
    (takeEvent dev pos rd p k e).1.seq = (p.seq + 1) % 2 ^ 32 ∧
    spGet evNone (takeEvent dev pos rd p k e).1.ring (p.seq % 4096) = evWords dev pos p.seq e ∧
    (p.fwdQ.length < 256 → (takeEvent dev pos rd p k e).2.lost = k.lost ∧
      (takeEvent dev pos rd p k e).1.fwdQ = p.fwdQ ++ [evWords dev pos p.seq e] ∧
      (takeEvent dev pos rd p k e).1.lost = p.lost) ∧
    (256 ≤ p.fwdQ.length → (takeEvent dev pos rd p k e).2.lost = k.lost + 1 ∧
      (takeEvent dev pos rd p k e).1.fwdQ = p.fwdQ ∧ (takeEvent dev pos rd p k e).1.lost = p.lost + 1))

/-- When the clock moves on, no event, no cell operation and no wait of the cycle is left, and the core cycle is the new one.
The operations of a cycle that differ in their step or their place in it are applied lower step first, within a step in
ascending key, each on what those before it left, in whatever order they came; so of two on one cell, the one of the lower step
acts first and the other sees its result. The step of an operation and its place in the step follow its source: the rachis 3 by
stage and line, lanes and engines 4 by UNIT code, tillers 5 by logical slot, firmware before DMA, links 6 by number, the host's
aperture 7 by channel; a context loss has step 1 and a host APPLY step 2. A host APPLY of a LIVE counter and a signal of a
tiller in one cycle leave the applied value with the increment added, in either order of arrival. One signal to a LIVE counter
that does not take it below 0 adds its increment modulo 2^48, and every other cell stands. (From spec/13_synchronisation.md
R321, spec/13_synchronisation.md R309, spec/17_multi_device.md R400.) -/
def Obligations.CycleEndsInTheOrderOfItsSteps : Prop :=
  (∀ (c : Nat) (p : Published) (b : Block), b.pwr.ccy < c →
    (clockTo c (p, b)).2.raised = [] ∧ (clockTo c (p, b)).2.now.ops = [] ∧ (clockTo c (p, b)).2.now.waits = [] ∧
    (clockTo c (p, b)).2.pwr.ccy = c) ∧
  (∀ (b : Block) (l l' : List CellOp), l.Perm l' → l.Pairwise (fun o o' => opLt o o' = true ∨ opLt o' o = true) →
    applyOps { b with now := { b.now with ops := l } } = applyOps { b with now := { b.now with ops := l' } }) ∧
  (∀ (b : Block) (l : List CellOp), b.now.ops.Perm l →
    l.Pairwise (fun o o' => o.step < o'.step ∨ (o.step = o'.step ∧ (o.k1 < o'.k1 ∨ (o.k1 = o'.k1 ∧ o.k2 < o'.k2)))) →
    ∀ k, cell (applyOps b) k = cell (l.foldl applyOp { b with now := { b.now with ops := [] } }) k) ∧
  (∀ (b : Block) (id k2 : Nat), opKeys b 0 id k2 = (3, id, k2) ∧ opKeys b 1 id k2 = (4, id, 0) ∧
    opKeys b 2 id k2 = (5, id, 0) ∧ opKeys b 3 id k2 = (5, id, 1 + k2) ∧ opKeys b 4 id k2 = (6, b.now.via, 0) ∧
    opKeys b 5 id k2 = (7, b.now.via, 0) ∧ (loseCtx b id).now.ops = b.now.ops ++ [⟨1, id, 0, 5, 0, 0, .lose id⟩] ∧
    (cellOk (windowCell b) = true → ∃ o, (cellApply b).now.ops = b.now.ops ++ [o] ∧ o.step = 2 ∧ o.act = .put (windowCell b) ∧
      o.cell = (rg b Reg.SYNC_CELL_ADDR).fld 11 0)) ∧
  (∀ (b : Block) (o o' : CellOp) (x : Cell) (inc : Int), b.now.ops = [o, o'] ∨ b.now.ops = [o', o] → o.step = 2 → o'.step = 5 →
    o.cell = o'.cell → o.act = .put x → o'.act = .signal inc → x.state = .live → x.kind = .counter → 0 ≤ (x.val : Int) + inc →
    (cell (applyOps b) o.cell).val = wrapN 48 ((x.val : Int) + inc)) ∧
  (∀ (b : Block) (o : CellOp) (inc : Int), b.now.ops = [o] → o.act = .signal inc → (cell b o.cell).state = .live →
    (cell b o.cell).kind = .counter → 0 ≤ ((cell b o.cell).val : Int) + inc →
    (cell (applyOps b) o.cell).val = wrapN 48 (((cell b o.cell).val : Int) + inc) ∧
    ∀ k, k ≠ o.cell → cell (applyOps b) k = cell b k)

/-! ## Reset, clocks and power (spec/22) -/

/-- PORST low for 1 us, and a rail that has fallen below its reset level, answer a next state in which the queue stands, every
register has its reset value, in its own domain and in force (after a supply reset PWR_RESET_CAUSE names the rail, and where
PORST_N is not low LNK_SYS shows the straps), no memory byte is listed (that memories are cleared is log entry 2), no tiller,
lane, port, chain, list, cell or invocation holds anything, the links and the host port are as at first, the event ring is
empty with SEQ 0, and SAFE_N is not high; it is high impedance after rail 1 or 4 has fallen. A write of RESET = 1 with KEY 0x5A,
and the debug port's reset instruction, answer a next state in which the dip counters and PWR_DIP_LAST stand, PWR_RESET_CAUSE
has the bit of this reset added, CLK_STATUS keeps its lock bits, the straps have been sampled into LNK_SYS (when they are is
log entry 11), every other register has its reset value, and no memory byte is listed; a write with another KEY or with RESET =
0 changes nothing. (From spec/22_power_clocks_reset.md R498, spec/22_power_clocks_reset.md R503, spec/24_register_summary.md
R526, spec/23_package_and_pins.md R521, spec/23_package_and_pins.md R524, spec/17_multi_device.md R387.) -/
def Obligations.ResetsLeaveTheResetValues : Prop :=
  ∀ (c rail n : Nat) (w : Word) (s : State),
    (rail < 8 →
      (∃ t, exec (.porst c) s = .next t ∧ t.pending = s.pending ∧ t.blk.mems = Mems.init ∧ t.blk.regs.force = [] ∧
        t.blk.tlr = [] ∧ t.blk.lanes = [] ∧ t.blk.ports = [] ∧ t.blk.chains = [] ∧ t.blk.lists = [] ∧ t.blk.sync.cells = [] ∧
        t.blk.seq = Seq.init ∧ t.blk.links = Links.init ∧ t.blk.host = HostSt.init ∧
        t.blk.pwr.core = false ∧ t.blk.pwr.held = true ∧
        t.pub.ring = [] ∧ t.pub.seq = 0 ∧ t.pub.safeN ≠ .high ∧ ∀ a, rg t.blk a = regReset a) ∧
      (∃ t, exec (.supplyReset c ⟨rail, n⟩) s = .next t ∧ t.pending = s.pending ∧ t.blk.mems = Mems.init ∧
        t.blk.regs.force = [] ∧ t.blk.tlr = [] ∧ t.blk.lanes = [] ∧ t.blk.ports = [] ∧ t.blk.chains = [] ∧ t.blk.lists = [] ∧
        t.blk.sync.cells = [] ∧ t.blk.seq = Seq.init ∧ t.blk.links = Links.init ∧ t.blk.host = HostSt.init ∧
        t.blk.pwr.core = false ∧ t.blk.pwr.held = s.blk.pwr.held ∧ t.pub.ring = [] ∧ t.pub.seq = 0 ∧
        t.pub.safeN = (if rail = 1 ∨ rail = 4 then .z else .low) ∧
        rg t.blk Reg.PWR_RESET_CAUSE = wd (rail * 256 + 2) ∧
        (s.blk.pwr.held = false → t.blk.pwr.devid = n % 64 ∧ (rg t.blk Reg.LNK_SYS).fld 5 0 = n % 64 ∧
          ((rg t.blk Reg.LNK_SYS).bit 15 = true ↔ n % 64 = 0)) ∧
        (s.blk.pwr.held = true → rg t.blk Reg.LNK_SYS = regReset Reg.LNK_SYS) ∧
        ∀ a, a ≠ Reg.PWR_RESET_CAUSE → a ≠ Reg.LNK_SYS → rg t.blk a = regReset a)) ∧
    (∀ o k, ((o = exec (.warmReset c ⟨w, n⟩) s ∧ w.bit 0 = true ∧ w.fld 31 24 = 0x5A ∧ k = 4) ∨
        (o = exec (.debugReset ⟨c, n⟩) s ∧ k = 8)) →
      ∃ t, o = .next t ∧ t.pending = s.pending ∧ t.blk.mems = Mems.init ∧ t.blk.pwr.core = false ∧
        t.pub.ring = [] ∧ t.pub.seq = 0 ∧
        (∀ a, a ∈ [Reg.PWR_CNT_DIP, Reg.PWR_CNT_DIP_ESC, Reg.PWR_DIP_LAST_LO, Reg.PWR_DIP_LAST_HI] →
          rg t.blk a = rg s.blk a) ∧
        rg t.blk Reg.PWR_RESET_CAUSE = rg s.blk Reg.PWR_RESET_CAUSE ||| wd k ∧
        rg t.blk Reg.CLK_STATUS = rg s.blk Reg.CLK_STATUS &&& 0x3F#32 ∧
        t.blk.pwr.devid = n % 64 ∧ (rg t.blk Reg.LNK_SYS).fld 5 0 = n % 64 ∧
        ((rg t.blk Reg.LNK_SYS).bit 15 = true ↔ n % 64 = 0) ∧
        ∀ a, a ∉ [Reg.PWR_CNT_DIP, Reg.PWR_CNT_DIP_ESC, Reg.PWR_DIP_LAST_LO, Reg.PWR_DIP_LAST_HI, Reg.PWR_RESET_CAUSE,
            Reg.CLK_STATUS, Reg.LNK_SYS] → a ∉ settleRegs → rg t.blk a = regReset a) ∧
    (¬(w.bit 0 = true ∧ w.fld 31 24 = 0x5A) →
      ∃ t, exec (.warmReset c ⟨w, n⟩) s = .next t ∧ t.pending = s.pending ∧ Keeps [] [] (s.asFound c) t.blk)

/-- The rising edge of PORST_N ends the held state, samples SYS_DEVID into LNK_SYS.DEV and its mirror copy and sets
PWR_RESET_CAUSE bit 0; the rails are then up (log entry 83). The alignment pulse, once after a reset that PORST_N no longer holds, makes CCY read 0, runs the core clock and sets every lock
bit and ALIGNED, and a second one changes nothing; the loss of a core PLL (0 to 4) clears its lock bit, stops the core clock
and sends a request of cause CORE_CLK; the loss of Chombe's PLL (5) clears its bit, sets the ring-oscillator bit and sends a
request of cause CHOMBE, and the core clock runs on; the loss of REFCLK (6) is the loss of every PLL; the host port becomes
ready. Nothing else changes. (From spec/22_power_clocks_reset.md R496, spec/22_power_clocks_reset.md R497,
spec/22_power_clocks_reset.md R499, spec/22_power_clocks_reset.md R500, spec/17_multi_device.md R387.) -/
def Obligations.ClocksStartAndStop : Prop :=
  ∀ (c n : Nat) (s : State),
    (∃ t, exec (.porstNRise c n) s = .next t ∧ t.pending = s.pending ∧ t.blk.pwr.held = false ∧ t.blk.pwr.devid = n % 64 ∧
      mir t.blk Reg.LNK_SYS = rg t.blk Reg.LNK_SYS ∧
      (rg t.blk Reg.LNK_SYS).fld 5 0 = n % 64 ∧ ((rg t.blk Reg.LNK_SYS).bit 15 = true ↔ n % 64 = 0) ∧
      (rg t.blk Reg.PWR_RESET_CAUSE).bit 0 = true ∧
      t.blk.pwr.unmarked = { (s.asFound c).pwr.unmarked with held := false, devid := n % 64, straps := n % 64, low := none } ∧
      Keeps [.pwr, .mirror] [Reg.LNK_SYS, Reg.PWR_RESET_CAUSE] (s.asFound c) t.blk) ∧
    ((rg (s.asFound c) Reg.CLK_STATUS).bit 7 = false → (s.asFound c).pwr.held = false →
      ∃ t, exec (.alignmentPulse c) s = .next t ∧ t.pending = s.pending ∧
      t.blk.pwr.unmarked = { (s.asFound c).pwr.unmarked with ccy := 0, core := true, low := none } ∧
      t.blk.safe = { (s.asFound c).safe with clkSeen := true } ∧
      rg t.blk Reg.CLK_STATUS = rg (s.asFound c) Reg.CLK_STATUS ||| 0xBF#32 ∧
      Keeps [.pwr, .safe] [Reg.CLK_STATUS] (s.asFound c) t.blk) ∧
    ((rg (s.asFound c) Reg.CLK_STATUS).bit 7 = true ∨ (s.asFound c).pwr.held = true →
      ∃ t, exec (.alignmentPulse c) s = .next t ∧ t.pending = s.pending ∧ Keeps [] [] (s.asFound c) t.blk) ∧
    (n < 5 → ∃ t, exec (.pllLockLoss c n) s = .next t ∧ t.pending = s.pending ∧
      t.blk.pwr.unmarked = { (s.asFound c).pwr.unmarked with core := false } ∧
      rg t.blk Reg.CLK_STATUS = rg (s.asFound c) Reg.CLK_STATUS &&& ~~~ (wd (2 ^ n)) ∧
      t.blk.safe = { (s.asFound c).safe with req := (s.asFound c).safe.req ++ [(11, 0)], clkSeen := false } ∧
      Keeps [.pwr, .safe] [Reg.CLK_STATUS] (s.asFound c) t.blk) ∧
    (∃ t, exec (.pllLockLoss c 6) s = .next t ∧ t.pending = s.pending ∧
      t.blk.pwr.unmarked = { (s.asFound c).pwr.unmarked with core := false } ∧
      rg t.blk Reg.CLK_STATUS = (rg (s.asFound c) Reg.CLK_STATUS &&& ~~~ 0x3F#32) ||| 0x40#32 ∧
      t.blk.safe = { (s.asFound c).safe with
        req := (s.asFound c).safe.req ++ [(10, 0)] ++ [(11, 0)], clkSeen := false } ∧
      Keeps [.pwr, .safe] [Reg.CLK_STATUS] (s.asFound c) t.blk) ∧
    (∃ t, exec (.pllLockLoss c 5) s = .next t ∧ t.pending = s.pending ∧ 
      rg t.blk Reg.CLK_STATUS = (rg (s.asFound c) Reg.CLK_STATUS &&& ~~~ 0x20#32) ||| 0x40#32 ∧
      t.blk.safe = { (s.asFound c).safe with req := (s.asFound c).safe.req ++ [(10, 0)] } ∧
      Keeps [.safe] [Reg.CLK_STATUS] (s.asFound c) t.blk) ∧
    (∃ t, exec (.hostPortReady c) s = .next t ∧ t.pending = s.pending ∧
      t.blk.pwr.unmarked = { (s.asFound c).pwr.unmarked with port := true } ∧ Keeps [.pwr] [] (s.asFound c) t.blk)

/-- While the core clock runs and PWR_BOOT.STAGE is below 6, the end of boot answers a next state in which STAGE is 6 (boot has
ended, with or without a base bit-stream) or 7 (boot has stopped), whatever the flash holds; with a directory whose magic
number, count or CRC is wrong it is 7 with ERR 1 and ENTRY 0 and nothing but PWR_BOOT changes. A stage that boot enters before
its end, above the one recorded and not beyond the last that this flash reaches, is recorded in STAGE with ERR 0 and ENTRY 0;
any other leaves PWR_BOOT (that the stages come as commands is log entry 54). Nothing changes by a stage but PWR_BOOT, and in
stage 5 the latent-fault test's state. Once STAGE is 6 or 7 the command changes nothing. (From
spec/22_power_clocks_reset.md R501, spec/22_power_clocks_reset.md R502.) -/
def Obligations.BootEndsOrStops : Prop :=
  ∀ (c n : Nat) (flash puf : List Byte) (con : Content) (lft : Option Nat) (wr : Bool) (st : BootStep) (s : State) (x : Block),
    x = s.asFound c → x.pwr.core = true →
    ((rg x Reg.PWR_BOOT).fld 31 28 < 6 →
      (∃ t, exec (.bootDone c flash puf con (.ended lft)) s = .next t ∧ t.pending = s.pending ∧
        ((rg t.blk Reg.PWR_BOOT).fld 31 28 = 6 ∨ (rg t.blk Reg.PWR_BOOT).fld 31 28 = 7)) ∧
      (directory flash = none → ∃ t, exec (.bootDone c flash puf con (.ended lft)) s = .next t ∧ t.pending = s.pending ∧
        rg t.blk Reg.PWR_BOOT = 0x71000000#32 ∧ Keeps [] [Reg.PWR_BOOT] x t.blk) ∧
      ((rg x Reg.PWR_BOOT).fld 31 28 < n → n ≤ bootReach (bootRun flash puf con none x) →
        ∃ t, exec (.bootDone c flash puf con (.stage n wr)) s = .next t ∧ t.pending = s.pending ∧
          rg t.blk Reg.PWR_BOOT = wd (n * 2 ^ 28) ∧ Keeps [] [Reg.PWR_BOOT, Reg.SAFE_LFT] x t.blk ∧
          (n ≠ 5 ∨ wr = false → Keeps [] [Reg.PWR_BOOT] x t.blk)) ∧
      (n ≤ (rg x Reg.PWR_BOOT).fld 31 28 ∨ bootReach (bootRun flash puf con none x) < n → wr = false →
        ∃ t, exec (.bootDone c flash puf con (.stage n wr)) s = .next t ∧ t.pending = s.pending ∧ Keeps [] [] x t.blk)) ∧
    (6 ≤ (rg x Reg.PWR_BOOT).fld 31 28 → ∃ t, exec (.bootDone c flash puf con st) s = .next t ∧
      t.pending = s.pending ∧ Keeps [] [] x t.blk)

/-- A dip that starts outside a suspect interval sets PWR_STATUS.DIP, opens the interval, counts in PWR_CNT_DIP, records the
frontier in PWR_DIP_LAST and raises its event; while SEQ_CTRL.EN is 1 it marks the invocations that run. One that starts
within an interval continues the dip before it and sets DIP alone (the model's reading, log entry 68). The end of a dip clears DIP, withdraws its condition and raises its event with the ticks
counted. From 64 cycles after that end the interval closes while no dip is under way; before that its end changes nothing. A
dip that has lasted T_MAX microseconds while SEQ_CTRL.EN is 1 sends one request of cause BROWNOUT, counts in PWR_CNT_DIP_ESC
and sets PWR_STATUS.ESC; before that nothing changes. A measurement of VDD_CORE writes the low 12 bits of the value into
PWR_VCORE, and one of external clock q below 10 the low 16 bits into CLK_FREQq. Nothing else changes. (From
spec/22_power_clocks_reset.md R504, spec/22_power_clocks_reset.md R505, spec/22_power_clocks_reset.md R506,
spec/22_power_clocks_reset.md R512.) -/
def Obligations.SupplyDips : Prop :=
  ∀ (c : Nat) (s : State) (x : Block), x = s.asFound c →
    (inDip x = false → x.pwr.suspect = false →
      ∃ t, exec (.dipStart c) s = .next t ∧ t.pending = s.pending ∧ inDip t.blk = true ∧
        t.blk.pwr.unmarked = { x.pwr.unmarked with suspect := true, dipReq := false, dipTicks := 0, dipC := x.pwr.ccy } ∧
        rg t.blk Reg.PWR_CNT_DIP = rg x Reg.PWR_CNT_DIP + 1#32 ∧ rg t.blk Reg.PWR_DIP_LAST_LO = wd x.tb.frontier ∧
        (rg t.blk Reg.PWR_DIP_LAST_HI).fld 11 0 = x.tb.frontier / 2 ^ 32 % 4096 ∧ Raised [⟨0xD0, 0, false, none⟩] x t.blk ∧
        t.blk.seq.invs = x.seq.invs.map (fun v =>
          if ((rg x Reg.SEQ_CTRL).bit 0 && !v.done) = true then { v with suspect := true } else v) ∧
        Keeps [.pwr, .seq, .raised] [Reg.PWR_STATUS, Reg.PWR_CNT_DIP, Reg.PWR_DIP_LAST_LO, Reg.PWR_DIP_LAST_HI] x t.blk) ∧
    (inDip x = false → x.pwr.suspect = true →
      ∃ t, exec (.dipStart c) s = .next t ∧ t.pending = s.pending ∧ inDip t.blk = true ∧ Keeps [] [Reg.PWR_STATUS] x t.blk) ∧
    (inDip x = true →
      ∃ t, exec (.dipEnd c) s = .next t ∧ t.pending = s.pending ∧ inDip t.blk = false ∧ (17, 0) ∉ t.blk.safe.cond ∧
        t.blk.pwr.unmarked = { x.pwr.unmarked with dipEndC := x.pwr.ccy } ∧
        Raised [⟨0xD1, min 4095 x.pwr.dipTicks, false, none⟩] x t.blk ∧
        Keeps [.pwr, .safe, .raised] [Reg.PWR_STATUS] x t.blk) ∧
    (inDip x = false → x.pwr.dipEndC + 64 ≤ x.pwr.ccy →
      ∃ t, exec (.suspectIntervalEnd c) s = .next t ∧ t.pending = s.pending ∧
        t.blk.pwr.unmarked = { x.pwr.unmarked with suspect := false } ∧ Keeps [.pwr] [] x t.blk) ∧
    ((inDip x = true ∨ x.pwr.ccy < x.pwr.dipEndC + 64) →
      ∃ t, exec (.suspectIntervalEnd c) s = .next t ∧ t.pending = s.pending ∧ Keeps [] [] x t.blk) ∧
    (inDip x = true → x.pwr.dipReq = false → (rg x Reg.SEQ_CTRL).bit 0 = true →
      x.pwr.dipC + 1250 * (rg x Reg.PWR_DIP_CFG).fld 15 0 ≤ x.pwr.ccy →
      ∃ t, exec (.brownoutTmax c) s = .next t ∧ t.pending = s.pending ∧
        t.blk.safe.req = x.safe.req ++ [(17, 0)] ∧ (17, 0) ∈ t.blk.safe.cond ∧
        t.blk.pwr.unmarked = { x.pwr.unmarked with dipReq := true } ∧
        rg t.blk Reg.PWR_CNT_DIP_ESC = rg x Reg.PWR_CNT_DIP_ESC + 1#32 ∧
        rg t.blk Reg.PWR_STATUS = rg x Reg.PWR_STATUS ||| 2#32 ∧
        Keeps [.pwr, .safe] [Reg.PWR_STATUS, Reg.PWR_CNT_DIP_ESC] x t.blk) ∧
    (x.pwr.ccy < x.pwr.dipC + 1250 * (rg x Reg.PWR_DIP_CFG).fld 15 0 →
      ∃ t, exec (.brownoutTmax c) s = .next t ∧ t.pending = s.pending ∧ Keeps [] [] x t.blk) ∧
    (∀ v, ∃ t, exec (.vcoreMeasure c v) s = .next t ∧ t.pending = s.pending ∧
      (rg t.blk Reg.PWR_VCORE).fld 11 0 = v % 4096 ∧ Keeps [] [Reg.PWR_VCORE] x t.blk) ∧
    (∀ q v, q < 10 → ∃ t, exec (.clkFreqMeasure c q v) s = .next t ∧ t.pending = s.pending ∧
      (rg t.blk (Reg.CLK_FREQ q)).fld 15 0 = v % 65536 ∧ Keeps [] [Reg.CLK_FREQ q] x t.blk)

/-- For every domain d below 142: a 1 written while it is ON makes it PENDING; a PENDING domain whose condition holds becomes
OFF; a 0 written while it is PENDING makes it ON and while it is OFF makes it WAKING; a WAKING domain that has its place and
no later request becomes ON. For every tiller t below 36 and bank group g below 4: a 1 written while the group is ON makes it
PENDING; a PENDING group with no transfer on its way and no scoreboard entry on it becomes OFF; a 0 written makes a PENDING
group ON (the model's reading, log entry 39) and an OFF group WAKING from this cycle, except that a group of a whole-tiller
domain that is not ON stays OFF; an OFF domain wakes with it. A WAKING group whose domain is ON becomes ON from 8 192 cycles
after its fill began where no 1 was written since; every byte of the group then reads 0, no word of it is uncorrectable, and
every other byte of every scratchpad stands. The written bits read back, PWR_DOM is raised where ON or OFF is reached, and
nothing else changes. A write finds the block after the commands that act in its cycle (`asWritten`). (From
spec/22_power_clocks_reset.md R508, spec/22_power_clocks_reset.md R509, spec/22_power_clocks_reset.md R510,
spec/22_power_clocks_reset.md R511.) -/
def Obligations.PowerDomainsAndBankGroups : Prop :=
  ∀ (c d tl' g : Nat) (s : State) (x y : Block), x = s.asFound c → y = s.asWritten c →
    (d < 142 →
      (domSt y d = 0 → ∃ t, exec (.domainOffRequest c d) s = .next t ∧ t.pending = s.pending ∧ domSt t.blk d = 1 ∧
        (rg t.blk (Reg.PWR_DOM_OFF (d / 32))).fld (d % 32) (d % 32) = 1 ∧
        Keeps [] [Reg.PWR_DOM_OFF (d / 32), Reg.PWR_DOM_STATE (d / 16), Reg.PWR_SPAD (32 + (d - 96))] y t.blk) ∧
      (domSt x d = 1 → domCond x d = true → ∃ t, exec (.domainOff c d) s = .next t ∧ t.pending = s.pending ∧
        domSt t.blk d = 2 ∧ Raised [⟨0xD2, d, false, none⟩] x t.blk ∧ Keeps [.raised] [Reg.PWR_DOM_STATE (d / 16)] x t.blk) ∧
      (domSt y d = 1 → ∃ t, exec (.domainWakeRequest c d) s = .next t ∧ t.pending = s.pending ∧ domSt t.blk d = 0 ∧
        (rg t.blk (Reg.PWR_DOM_OFF (d / 32))).fld (d % 32) (d % 32) = 0 ∧ Raised [⟨0xD2, d, false, none⟩] y t.blk ∧
        Keeps [.pwr, .raised] [Reg.PWR_DOM_OFF (d / 32), Reg.PWR_DOM_STATE (d / 16), Reg.PWR_SPAD (32 + (d - 96))] y t.blk) ∧
      (domSt y d = 2 → ∃ t, exec (.domainWakeRequest c d) s = .next t ∧ t.pending = s.pending ∧ domSt t.blk d = 3 ∧
        Keeps [.pwr] [Reg.PWR_DOM_OFF (d / 32), Reg.PWR_DOM_STATE (d / 16)] y t.blk) ∧
      (domSt x d = 3 → d ∈ x.pwr.wakeQ → d ∉ x.pwr.offLater →
        ∃ t, exec (.domainOn c d) s = .next t ∧ t.pending = s.pending ∧ domSt t.blk d = 0 ∧
          Raised [⟨0xD2, d, false, none⟩] x t.blk ∧
          Keeps [.pwr, .tlr, .dbg, .pyr, .raised] [Reg.PWR_DOM_STATE (d / 16), Reg.PWR_SPAD (32 + (d - 96))] x t.blk)) ∧
    (tl' < 36 → g < 4 →
      (grpSt y tl' g = 0 → ∃ u, exec (.bankGroupOffRequest c tl' g) s = .next u ∧ u.pending = s.pending ∧
        grpSt u.blk tl' g = 1 ∧ (rg u.blk (Reg.PWR_SPAD tl')).fld g g = 1 ∧ Keeps [] [Reg.PWR_SPAD tl'] y u.blk) ∧
      (grpSt x tl' g = 1 → grpDrained x tl' g = true →
        ∃ u, exec (.bankGroupOff c tl' g) s = .next u ∧ u.pending = s.pending ∧ grpSt u.blk tl' g = 2 ∧
          Raised [⟨0xD2, grpArg tl' g, false, none⟩] x u.blk ∧ Keeps [.raised] [Reg.PWR_SPAD tl'] x u.blk) ∧
      (grpSt y tl' g = 1 → ∃ u, exec (.bankGroupWakeRequest c tl' g) s = .next u ∧ u.pending = s.pending ∧
        grpSt u.blk tl' g = 0 ∧ (rg u.blk (Reg.PWR_SPAD tl')).fld g g = 0 ∧
        Raised [⟨0xD2, grpArg tl' g, false, none⟩] y u.blk ∧ Keeps [.raised] [Reg.PWR_SPAD tl'] y u.blk) ∧
      (grpSt y tl' g = 2 → domSt y (spadDom tl') = 0 →
        ∃ u, exec (.bankGroupWakeRequest c tl' g) s = .next u ∧ u.pending = s.pending ∧ grpSt u.blk tl' g = 3 ∧
          spGet (fun _ => 0) u.blk.pwr.fillC (tl' * 4 + g) = y.pwr.ccy ∧ Keeps [.pwr] [Reg.PWR_SPAD tl'] y u.blk) ∧
      (grpSt y tl' g = 2 → domSt y (spadDom tl') = 2 →
        ∃ u, exec (.bankGroupWakeRequest c tl' g) s = .next u ∧ u.pending = s.pending ∧ domSt u.blk (spadDom tl') = 3 ∧
          grpSt u.blk tl' g = (if tl' < 32 then 3 else 2) ∧ Keeps [.pwr] [Reg.PWR_SPAD tl',
            Reg.PWR_DOM_OFF (spadDom tl' / 32), Reg.PWR_DOM_STATE (spadDom tl' / 16)] y u.blk) ∧
      (grpSt x tl' g = 3 → domSt x (spadDom tl') = 0 → (rg x (Reg.PWR_SPAD tl')).bit g = false →
        spGet (fun _ => 0) x.pwr.fillC (tl' * 4 + g) + 8192 ≤ x.pwr.ccy →
        ∃ u, exec (.bankGroupOn c tl' g) s = .next u ∧ u.pending = s.pending ∧ grpSt u.blk tl' g = 0 ∧
          (∀ a, a < 2 ^ 21 → meetsGrp a a g = true → rdByte u.blk.mems.spad (tl' * 2 ^ 21 + a) = 0#8) ∧
          (∀ t' a, a < 2 ^ 21 → t' ≠ tl' ∨ meetsGrp a a g = false →
            rdByte u.blk.mems.spad (t' * 2 ^ 21 + a) = rdByte x.mems.spad (t' * 2 ^ 21 + a)) ∧
          (∀ w ∈ (tl u.blk tl').poison, meetsGrp (4 * w) (4 * w) g = false) ∧
          Raised [⟨0xD2, grpArg tl' g, false, none⟩] x u.blk ∧ Keeps [.spad, .tlr, .raised] [Reg.PWR_SPAD tl'] x u.blk))

/-! ## The timebase (spec/01) -/

/-- If A and B, held long enough for the glitch filter, both change in the same sample (encoder mode, the part not in replay),
the command answers a next state in which TB_CNT_QUAD has grown by one, TB_STATUS.QUAD_ERR is set and the QUAD_ERR event is
raised; the position stands, as do the frontier, the state of the timebase and everything else but the levels held and the
recorder. (R24) -/
def Obligations.QuadratureErrorAppliesNoCount : Prop :=
  ∀ (c : Nat) (a b : Bool) (hA hB : Nat) (s : State) (x : Block), x = s.asFound c → replayOn x = false →
    (rg x Reg.TB_CTRL).bit 1 = false → (rg x Reg.TB_CTRL).fld 6 4 + 1 ≤ hA → (rg x Reg.TB_CTRL).fld 6 4 + 1 ≤ hB →
    a ≠ x.tb.a → b ≠ x.tb.b →
    ∃ t, exec (.encoderCount ⟨c, hA, hB⟩ a b) s = .next t ∧ t.pending = s.pending ∧
      rg t.blk Reg.TB_CNT_QUAD = rg x Reg.TB_CNT_QUAD + 1#32 ∧ rg t.blk Reg.TB_STATUS = rg x Reg.TB_STATUS ||| 0x200#32 ∧
      t.blk.tb = { x.tb with a := a, b := b } ∧ Raised [⟨0x10, 0, false, none⟩] x t.blk ∧
      Keeps [.tb, .dbg, .raised] [Reg.TB_CNT_QUAD, Reg.TB_STATUS, Reg.DBG_REC_CNT_LOST] x t.blk

/-- The glitch filter takes a level of A, of B and of Z once it has been held for ENC_FILT + 1 timebase cycles, each input for
itself. In encoder mode with the timebase RUNNING or STOPPED, an edge on one of the filtered A and B moves the position, taken
with its 24 fraction bits modulo 2^72, up by TB_SCALE in the forward sense and down by it in the reverse sense; with DIR = 0
the forward sense runs 00, 10, 11, 01 in the levels (A, B), and DIR = 1 turns it round. In line-trigger mode each rising edge of
the filtered LTRIG moves it up. The timebase is RUNNING afterwards. Where no tick is held, the position has come to a line
beyond the frontier F and a tick would arrive at least 1 250 core cycles after the last one, the tick for line F + 1 is issued,
the frontier is F + 1, and the tick arrives 11 + 2p cycles after its timebase cycle begins; otherwise the frontier stands (the
timebase cycle of a count is the one in which its core cycle lies, log entry 49). A rising edge of the filtered Z latches the
position after the count of the same sample; a low level of Z, or of LTRIG, that was too short for the filter makes no edge.
Levels held too briefly change nothing. (From spec/01_position_timebase.md R21, spec/01_position_timebase.md R22,
spec/01_position_timebase.md R23, spec/01_position_timebase.md R25, spec/01_position_timebase.md R26,
spec/01_position_timebase.md R28, spec/01_position_timebase.md R29, spec/01_position_timebase.md R31.) -/
def Obligations.CountsMoveThePosition : Prop :=
  ∀ (c : Nat) (a b a' b' : Bool) (hA hB n : Nat) (r : Rise) (s : State) (x : Block), x = s.asFound c → replayOn x = false →
    n = (rg x Reg.TB_CTRL).fld 6 4 + 1 → a' = (if n ≤ hA then a else x.tb.a) → b' = (if n ≤ hB then b else x.tb.b) →
    (hA < n → hB < n →
      (∃ t, exec (.encoderCount ⟨c, hA, hB⟩ a b) s = .next t ∧ t.pending = s.pending ∧ Keeps [] [] x t.blk) ∧
      (r.low < n → r.high < n →
        (∃ t, exec (.zEdge ⟨⟨c, hA, hB⟩, r⟩ a b) s = .next t ∧ t.pending = s.pending ∧ Keeps [] [] x t.blk) ∧
        (∃ t, exec (.ltrigEdge ⟨c, r⟩) s = .next t ∧ t.pending = s.pending ∧ Keeps [] [] x t.blk)) ∧
      (r.low < n → x.tb.z = true →
        ∃ t, exec (.zEdge ⟨⟨c, hA, hB⟩, r⟩ a b) s = .next t ∧ t.pending = s.pending ∧ Keeps [] [] x t.blk)) ∧
    (r.low < n → x.tb.lt = true →
      ∃ t, exec (.ltrigEdge ⟨c, r⟩) s = .next t ∧ t.pending = s.pending ∧ Keeps [] [] x t.blk) ∧
    (tbEn x = true → (tbState x = 1 ∨ tbState x = 2) →
      (∀ o up, ((o = exec (.encoderCount ⟨c, hA, hB⟩ a b) s ∧ (rg x Reg.TB_CTRL).bit 1 = false ∧ (a' != x.tb.a) = (b' == x.tb.b) ∧
            (up = true ↔ (((x.tb.a, x.tb.b), (a', b')) ∈
              [((false, false), (true, false)), ((true, false), (true, true)), ((true, true), (false, true)),
               ((false, true), (false, false))] ↔ (rg x Reg.TB_CTRL).bit 2 = false))) ∨
          (o = exec (.ltrigEdge ⟨c, r⟩) s ∧ (rg x Reg.TB_CTRL).bit 1 = true ∧ up = true ∧ n ≤ r.high ∧
            (n ≤ r.low ∨ x.tb.lt = false))) →
        ∃ t, o = .next t ∧ t.pending = s.pending ∧ tbState t.blk = 1 ∧
          t.blk.tb.pos * 2 ^ 24 + t.blk.tb.acc =
            (if up then (x.tb.pos * 2 ^ 24 + x.tb.acc + (frc x Reg.TB_SCALE).toNat) % 2 ^ 72
             else subMod 72 (x.tb.pos * 2 ^ 24 + x.tb.acc) (frc x Reg.TB_SCALE).toNat) ∧
          t.blk.tb.lastCount = x.pwr.ccy ∧
          (if x.tb.holdTb = none ∧ lineGt (t.blk.tb.pos / 16) x.tb.frontier = true ∧ spaced x (coreToTb x.pwr.ccy) = true then
             t.blk.tb.frontier = lineAdd x.tb.frontier 1 ∧ ∃ f, t.blk.tb.flight = some f ∧
               f.line = lineAdd x.tb.frontier 1 ∧ f.late = false ∧ f.miss = [] ∧
               f.arrive = tbBegin (coreToTb x.pwr.ccy) + 11 + 2 * (coreToTb x.pwr.ccy % 4)
           else t.blk.tb.frontier = x.tb.frontier ∧ t.blk.tb.flight = x.tb.flight)) ∧
      ((rg x Reg.TB_CTRL).bit 1 = false → n ≤ r.high → (n ≤ r.low ∨ x.tb.z = false) →
        ∃ t, exec (.zEdge ⟨⟨c, hA, hB⟩, r⟩ a b) s = .next t ∧ t.pending = s.pending ∧
          rg t.blk Reg.TB_Z_LATCH_LO = wd t.blk.tb.pos ∧ rg t.blk Reg.TB_Z_LATCH_HI = wd (t.blk.tb.pos / 2 ^ 32) ∧
          t.blk.tb.z = true ∧
          (a' = x.tb.a → b' = x.tb.b → t.blk.tb.pos = x.tb.pos ∧ t.blk.tb.frontier = x.tb.frontier)))

/-- When the timebase detects a line beyond the frontier F: where the tick would arrive less than 1 250 core cycles after the
last one, no tick is issued, TB_STATUS.HOLD is set and the position, the frontier and the ticks on their way stand. When the
hold ends, the tick is issued for the line of the position as it then stands: the frontier is that line, TB_CNT_LATE grows by
one, HOLD is clear, TB_CNT_MISSED grows by the number of lines from F + 1 to the one before it, and Chombe gets the request of
cause 13 where there are two or more, or where MISS_SHEAF comes to a MISS_LIMIT that is not 0 (log entry 48). A count while a
tick is held issues none. In which timebase cycle the hold ends is log entry 49. (From
spec/01_position_timebase.md R28, spec/01_position_timebase.md R36, spec/01_position_timebase.md R37,
spec/01_position_timebase.md R38.) -/
def Obligations.HeldTicksAreIssuedAndMissedLinesCounted : Prop :=
  ∀ (t : Nat) (b : Block), mayTick b = true → lineGt (posLine b) b.tb.frontier = true →
    (spaced b t = false → b.tb.holdTb = none →
      (rg (detect t b) Reg.TB_STATUS).bit 4 = true ∧ (detect t b).tb.holdTb.isSome = true ∧
      (detect t b).tb.frontier = b.tb.frontier ∧ (detect t b).tb.flight = b.tb.flight ∧ (detect t b).tb.pos = b.tb.pos) ∧
    (b.tb.holdTb.isSome = true → detect t b = b) ∧
    (b.tb.holdTb = some t → tbBegin (t + 1) ≤ b.pwr.ccy →
      (holdDue b).tb.frontier = posLine b ∧ (holdDue b).tb.holdTb = none ∧ (rg (holdDue b) Reg.TB_STATUS).bit 4 = false ∧
      rg (holdDue b) Reg.TB_CNT_LATE = rg b Reg.TB_CNT_LATE + 1#32 ∧
      rg (holdDue b) Reg.TB_CNT_MISSED = rg b Reg.TB_CNT_MISSED + wd (lineSub (posLine b) (lineAdd b.tb.frontier 1)) ∧
      (∃ f, (holdDue b).tb.flight = some f ∧ f.line = posLine b ∧ f.late = true ∧
        f.miss = (upFrom 0 (lineSub (posLine b) (lineAdd b.tb.frontier 1))).map (fun i => lineAdd (lineAdd b.tb.frontier 1) i)) ∧
      (2 ≤ lineSub (posLine b) (lineAdd b.tb.frontier 1) → (holdDue b).safe.req = b.safe.req ++ [(13, 0)]) ∧
      (lineSub (posLine b) (lineAdd b.tb.frontier 1) = 1 → (holdDue b).safe.req =
        if (rg b Reg.TB_MISS).fld 7 0 ≠ 0 ∧ (rg b Reg.TB_MISS).fld 15 8 + 1 = (rg b Reg.TB_MISS).fld 7 0
        then b.safe.req ++ [(13, 0)] else b.safe.req))

/-- With the timebase RUNNING and no count for TB_STOP_TIME microseconds, STOP leaves it STOPPED and raises the STOP event;
before that time it changes nothing. The loss of a pair of the selected source (A or B in encoder mode, LTRIG in line-trigger
mode) while EN is 1 leaves it ENC_LOST, sends the request of cause ENC_LOSS, keeps its condition in force, and raises ENC_LOSS
with the SAFE bit; the loss of a pair that is not selected changes nothing. The position and a tick on its way stand. A write
with EN = 1 to a DISABLED timebase leaves it STOPPED, the position at TB_POS_SET and the frontier at its line, which the
rachis remembers as the line of the preset position; one with EN = 0 to an enabled timebase leaves it DISABLED, drops a held
tick while one on its way still arrives (the model's readings, log entries 50 and 60) and withdraws the condition of an encoder
loss. A write that changes DIR takes effect while STOPPED or DISABLED, and the
frontier is then the line of the position; otherwise DIR stands and CFG_ERR is set. A write that changes SRC while EN was 1
leaves SRC and sets CFG_ERR; while EN was 0 it takes effect. The position stands but for the enable. (From
spec/01_position_timebase.md R34, spec/01_position_timebase.md R42, spec/01_position_timebase.md R44,
spec/01_position_timebase.md R22, spec/01_position_timebase.md R41, spec/01_position_timebase.md R45.) -/
def Obligations.TimebaseStopsIsLostAndIsControlled : Prop :=
  ∀ (c pair : Nat) (w : Word) (s : State) (x y : Block) (l : List Nat), x = s.asFound c → y = s.asWritten c →
    l = [Reg.TB_CTRL, Reg.TB_STATUS, Reg.TB_POS_LO, Reg.TB_POS_HI, Reg.TB_FRONTIER_LO, Reg.TB_FRONTIER_HI] →
    ((rg y Reg.TB_CTRL).bit 0 = false → tbState y = 0 →
      ∃ t, exec (.tbEnable c w) s = .next t ∧ t.pending = s.pending ∧ (rg t.blk Reg.TB_CTRL).bit 0 = true ∧
        tbState t.blk = 2 ∧
        t.blk.tb.pos = (rg y Reg.TB_POS_SET_HI).fld 15 0 * 2 ^ 32 + (rg y Reg.TB_POS_SET_LO).toNat ∧
        t.blk.tb.frontier = t.blk.tb.pos / 16 ∧ t.blk.tb.acc = 0 ∧ t.blk.tb.holdTb = none ∧
        t.blk.seq = { y.seq with base := some (t.blk.tb.pos / 16), restart := true, pubLine := [] }) ∧
    ((rg y Reg.TB_CTRL).bit 0 = true →
      ∃ t, exec (.tbDisable c w) s = .next t ∧ t.pending = s.pending ∧ (rg t.blk Reg.TB_CTRL).bit 0 = false ∧
        tbState t.blk = 0 ∧ (12, 0) ∉ t.blk.safe.cond ∧ t.blk.tb.pos = y.tb.pos ∧ t.blk.tb.holdTb = none ∧
        t.blk.tb.flight = y.tb.flight ∧ Keeps [.tb, .seq, .safe, .force, .prev, .raised] l y t.blk) ∧
    (w.bit 2 ≠ (rg y Reg.TB_CTRL).bit 2 → w.bit 1 = (rg y Reg.TB_CTRL).bit 1 → w.bit 0 = (rg y Reg.TB_CTRL).bit 0 →
      ∃ t, exec (.tbDirChange c w) s = .next t ∧ t.pending = s.pending ∧ t.blk.tb.pos = y.tb.pos ∧
        (if tbState y = 2 ∨ tbState y = 0 then
           (rg t.blk Reg.TB_CTRL).bit 2 = w.bit 2 ∧ t.blk.tb.frontier = y.tb.pos / 16 ∧ t.blk.tb.holdTb = none ∧
           t.blk.seq = { y.seq with restart := true, pubLine := [] }
         else (rg t.blk Reg.TB_CTRL).bit 2 = !w.bit 2 ∧ t.blk.tb = y.tb ∧ t.blk.seq = y.seq ∧
           rg t.blk Reg.TB_STATUS = rg y Reg.TB_STATUS ||| 0x100#32) ∧ Keeps [.tb, .seq, .raised] l y t.blk) ∧
    (w.bit 1 ≠ (rg y Reg.TB_CTRL).bit 1 → w.bit 0 = (rg y Reg.TB_CTRL).bit 0 →
      ∃ t, exec (.tbSrcChange c w) s = .next t ∧ t.pending = s.pending ∧
        (if (rg y Reg.TB_CTRL).bit 0 = true then
           (rg t.blk Reg.TB_CTRL).bit 1 = !w.bit 1 ∧ (rg t.blk Reg.TB_STATUS).bit 8 = true
         else (rg t.blk Reg.TB_CTRL).bit 1 = w.bit 1) ∧ t.blk.tb.pos = y.tb.pos ∧ Keeps [.tb, .seq, .raised] l y t.blk) ∧
    (tbState x = 1 → x.tb.lastCount + (rg x Reg.TB_STOP_TIME).fld 23 0 * 1250 ≤ x.pwr.ccy →
      ∃ t, exec (.stop c) s = .next t ∧ t.pending = s.pending ∧ tbState t.blk = 2 ∧
        Raised [⟨0x12, 0, false, none⟩] x t.blk ∧ Keeps [.raised] [Reg.TB_STATUS] x t.blk) ∧
    ((tbState x ≠ 1 ∨ x.pwr.ccy < x.tb.lastCount + (rg x Reg.TB_STOP_TIME).fld 23 0 * 1250) →
      ∃ t, exec (.stop c) s = .next t ∧ t.pending = s.pending ∧ Keeps [] [] x t.blk) ∧
    (replayOn x = false → tbEn x = true → tbState x ≠ 3 →
      ((if (rg x Reg.TB_CTRL).bit 1 then pair = 2 else pair < 2) →
        ∃ t, exec (.encLoss c pair) s = .next t ∧ t.pending = s.pending ∧ tbState t.blk = 3 ∧
          t.blk.safe.req = x.safe.req ++ [(12, 0)] ∧ (12, 0) ∈ t.blk.safe.cond ∧
          Raised [⟨0x16, pair, true, none⟩] x t.blk ∧
          Keeps [.safe, .dbg, .raised] [Reg.TB_STATUS, Reg.DBG_REC_CNT_LOST] x t.blk) ∧
      (¬(if (rg x Reg.TB_CTRL).bit 1 then pair = 2 else pair < 2) →
        ∃ t, exec (.encLoss c pair) s = .next t ∧ t.pending = s.pending ∧ Keeps [] [] x t.blk))

/-! ## The rachis and the command rings (spec/02, spec/16 R370 to R373) -/

/-- In the cycle in which a tick on its way arrives (the core clock runs, no command of the rings is due, no slot is owed from
a skipped row, the line starts no sheaf): the tick line is its line and no tick is on its way; the position and the frontier
stand; if the rachis is enabled with a table loaded, the row of that line is open from this cycle, the rows of the lines
missed with it are skipped and counted in SEQ_CNT_ROW_SKIP, SEQ_STATUS.STATE is RUNNING and SEQ_ROW holds the line; with the
rachis halted or empty no row opens and the line and those missed with it join the unticked ones (the model's reading of what a
halted rachis remembers, log entry 48). At the tick that starts a
sheaf the same row opens. In a cycle in which no tick arrives, LINE_TICK changes nothing. (From spec/01_position_timebase.md
R28, spec/01_position_timebase.md R29, spec/01_position_timebase.md R31, spec/02_frame_graph_sequencer.md R46,
spec/02_frame_graph_sequencer.md R58, spec/02_frame_graph_sequencer.md R74.) -/
def Obligations.TickArrivesAndOpensTheRow : Prop :=
  ∀ (c : Nat) (s : State) (x : Block), x = s.asFound c → x.seq.arrived = none → x.pwr.fresh = false →
    ((x.pwr.core = false ∨ ∀ i, x.tb.flight = some i → i.arrive ≠ x.pwr.ccy) →
      ∃ t, exec (.lineTick c) s = .next t ∧ t.pending = s.pending ∧ Keeps [] [] x t.blk) ∧
    (∀ i, x.pwr.core = true → x.tb.flight = some i → i.arrive = x.pwr.ccy → x.seq.pend = [] → x.seq.skipped = [] →
      ∃ t, exec (.lineTick c) s = .next t ∧ t.pending = s.pending ∧
        (i.bound = false → t.blk.tb = { x.tb with flight := none, lastTick := some x.pwr.ccy, tickLine := i.line }) ∧
        t.blk.tb.flight = none ∧ t.blk.tb.lastTick = some x.pwr.ccy ∧ t.blk.tb.tickLine = i.line ∧
        t.blk.tb.pos = x.tb.pos ∧ t.blk.tb.frontier = x.tb.frontier ∧ t.blk.seq.arrived = none ∧
        spGet (fun _ => 0) t.blk.seq.ticks i.line = b2n i.bound * 32 + b2n i.late * 16 + i.phase ∧
        (i.bound = false →
          (if rowsOpen x then
            t.blk.seq.row = some i.line ∧ t.blk.seq.rowC = x.pwr.ccy ∧ t.blk.seq.prevRow = x.seq.row ∧
            t.blk.seq.skipped = i.miss ∧ t.blk.seq.opened = [] ∧ t.blk.seq.scanned = false ∧
            (rg t.blk Reg.SEQ_STATUS).fld 1 0 = 2 ∧
            rg t.blk Reg.SEQ_CNT_ROW_SKIP = rg x Reg.SEQ_CNT_ROW_SKIP + wd i.miss.length ∧
            rg t.blk Reg.SEQ_ROW_LO = wd i.line ∧ rg t.blk Reg.SEQ_ROW_HI = wd (i.line / 2 ^ 32)
           else t.blk.seq.row = x.seq.row ∧ t.blk.seq.unticked = x.seq.unticked ++ i.miss ++ [i.line] ∧
            rg t.blk Reg.SEQ_ROW_LO = rg x Reg.SEQ_ROW_LO)) ∧
        (i.bound = true → rowsOpen x = true → t.blk.seq.row = some i.line ∧ t.blk.seq.rowC = x.pwr.ccy ∧
          t.blk.seq.skipped = i.miss))

/-- At a sheaf boundary a shadowed register that latches singly has its written value in force; the set of a vision engine
that was written in the sheaf that ends has all its written values in force if it passes its checks, and otherwise keeps those
in force, sets CFG_ERR and raises its event; a set that was not written keeps what was in force; the values in force before
the boundary are those of one sheaf ago after it, and the written values stand. The fields of a port latch together, written
or not, if DEPTH, FVAL_MODE, LEN and the window pass the port's checks, and the settings set of a lane if it passes its own by
the values as they will stand after the boundary; otherwise what was in force stays in force, CFG_ERR is set and the event is
raised. After the boundary that starts sheaf sh, a line of a later sheaf is processed by the lane settings that it left in
force and a line of sh by those in force before it. (From spec/00_scope.md R17, spec/03_camera_ports.md R82,
spec/04_front_end_lanes.md R107, spec/04_front_end_lanes.md R108, spec/05_warp_and_pyramid.md R118, spec/06_tuft_features.md
R138, spec/07_stereo.md R160, spec/08_flow.md R186.) -/
def Obligations.ShadowedFieldsLatchAtTheBoundary : Prop :=
  ∀ (sh : Nat) (b : Block),
    (∀ a, frc b a = prv (shLatch sh b) a) ∧ (∀ a, prv b a = prv2 (shLatch sh b) a) ∧
    (∀ a, isSh a = true → inGroupSet a = false → frc (shLatch sh b) a = rg b a) ∧
    ((∀ o ∈ b.regs.wrote, (setOfReg o).map Prod.snd = some o) → ∀ k o, setOfReg o = some (k, o) → ∀ a ∈ setRegs o k.regs,
      (o ∉ b.regs.wrote → frc (shLatch sh b) a = frc b a) ∧
      (o ∈ b.regs.wrote → setPasses k.base (rg b) o = true → frc (shLatch sh b) a = rg b a) ∧
      (o ∈ b.regs.wrote → setPasses k.base (rg b) o = false → frc (shLatch sh b) a = frc b a ∧
        (rg (shLatch sh b) k.stat).bit 0 = true ∧ ⟨k.ev, 15, false, none⟩ ∈ (shLatch sh b).raised)) ∧
    (∀ n cfg len op st en, n < 8 → cfg = rg b (Reg.FE_PORT_CFG n) → len = (rg b (Reg.FE_PORT_LEN n)).fld 14 0 →
      op = (rg b (Reg.FE_PORT_WIN n)).fld 11 0 → st = (rg b (Reg.FE_PORT_WIN n)).fld 27 16 →
      en = (rg b (Reg.FE_PORT_WIN_END n)).fld 11 0 →
      if cfg.fld 4 3 ≠ 3 ∧ cfg.fld 11 10 ≠ 3 ∧ len % 4 = 0 ∧ 4 ≤ len ∧ len ≤ 16384 ∧ op ≤ st ∧ st < en ∧ st < op + 1250 then
        ∀ a ∈ cpShRegs n, frc (shLatch sh b) a = rg b a
      else (∀ a ∈ cpShRegs n, frc (shLatch sh b) a = frc b a) ∧ (rg (shLatch sh b) (Reg.FE_PORT_STATUS n)).bit 8 = true ∧
        ⟨0x34, n, false, none⟩ ∈ (shLatch sh b).raised) ∧
    (∀ n, n < 8 → if laneFormOk (laneNext b n) n = true then ∀ a ∈ laneShRegs n, frc (shLatch sh b) a = rg b a
      else (∀ a ∈ laneShRegs n, frc (shLatch sh b) a = frc b a) ∧ (rg (shLatch sh b) (Reg.FE_LANE_STATUS n)).bit 0 = true ∧
        ⟨0x38, n, false, none⟩ ∈ (shLatch sh b).raised) ∧
    (sh < 2 ^ 34 → ∀ k a, (sheafGt (sheafOf k) sh = true → laneReader (shLatch sh b) k a = frc (shLatch sh b) a) ∧
      (sheafOf k = sh → laneReader (shLatch sh b) k a = frc b a)) ∧
    (∀ a, isSh a = true → rg (shLatch sh b) a = rg b a) ∧ (shLatch sh b).regs.wrote = []

/-- In cycle START of an open row, for a stage not yet opened in it whose entry serves the row's line (which was ticked and
not missed), whose unit is mapped, that is no RESULT entry, and with no slot owed from a skipped row and no old bank: if the
unit is still running an earlier invocation or its domain is not ON, the invocation is a chaff-run with cause BUSY and
SEQ_CNT_BUSY grows by one; if the unit is free and some check fails as NOT_RIPE (where START is 0, no output flag being found
stale), it is a chaff-run with cause NOT_RIPE and SEQ_CNT_NOT_RIPE grows by one; if all checks pass it is started and runs from this cycle. A
chaff-run is recorded in SEQ_LAST_CHAFF, its headers, flags and signals follow two cycles later, and no memory and no flag
changes in the opening cycle. In any other cycle of the row, for a stage opened already, and with no row open nothing changes.
(From spec/02_frame_graph_sequencer.md R46, spec/02_frame_graph_sequencer.md R47, spec/02_frame_graph_sequencer.md R51,
spec/02_frame_graph_sequencer.md R52, spec/02_frame_graph_sequencer.md R57, spec/02_frame_graph_sequencer.md R74.) -/
def Obligations.SlotOpensOrIsAChaffRun : Prop :=
  ∀ (c st j phys : Nat) (s : State) (x : Block) (e : Entry) (k : Nat), x = s.asFound c → e = x.sched.entry st →
    k = lineSub j e.offset → x.cfg.old = [] →
    ((x.seq.row = none ∨ x.pwr.ccy ≠ x.seq.rowC + e.start ∨ x.seq.opened.contains (st, 0) = true) →
      ∃ t, exec (.slotOpen c st) s = .next t ∧ t.pending = s.pending ∧ Keeps [] [] x t.blk) ∧
    (x.seq.row = some j → x.pwr.ccy = x.seq.rowC + e.start → x.seq.opened.contains (st, 0) = false → x.seq.skipped = [] →
      (e.valid = false ∨ serves x e k = false → ∃ t, exec (.slotOpen c st) s = .next t ∧ t.pending = s.pending ∧
        t.blk.seq = { x.seq with opened := x.seq.opened ++ [(st, 0)] } ∧ Keeps [.seq] [] x t.blk) ∧
      (e.valid = true → e.kind ≠ 4 → serves x e k = true → (servedLines e k).any (isUnticked x) = false →
        (servedLines e k).any (isMissed x) = false → unitPhys x e.unit = some phys →
        (e.start = 0 → ∀ o ∈ outEntries x x.sched st k, ∀ f ∈ upFrom (o.1.flag0 o.2) o.1.count, flagBefore x f = false) →
        (∀ cause, ((unitBusy x st e (unitCls e.unit).1 phys = true ∧ cause = 4) ∨
            (unitBusy x st e (unitCls e.unit).1 phys = false ∧ (runChecks x (x.sched.checks e) k).2 = 1 ∧ cause = 1)) →
          ∃ t, exec (.slotOpen c st) s = .next t ∧ t.pending = s.pending ∧
            rg t.blk Reg.SEQ_CNT_BUSY = rg x Reg.SEQ_CNT_BUSY + (if cause = 4 then 1#32 else 0#32) ∧
            rg t.blk Reg.SEQ_CNT_NOT_RIPE = rg x Reg.SEQ_CNT_NOT_RIPE + (if cause = 1 then 1#32 else 0#32) ∧
            rg t.blk Reg.SEQ_LAST_CHAFF = wd (cause * 2 ^ 28 + st % 4096) ∧ rg t.blk Reg.SEQ_LAST_CHAFF_LINE = wd k ∧
            (∃ v ∈ t.blk.seq.invs, v.stage = st ∧ v.line = k ∧ v.chaff = true ∧ v.done = true) ∧
            (∃ w ∈ t.blk.seq.later, w.stage = st ∧ w.line = k ∧ w.due = x.pwr.ccy + 2 ∧ w.sigs = outSignals x.sched st ∧
              w.puts = chaffPuts x x.sched st k e.gold (dipMarks x) cause) ∧
            t.blk.mems.gran = x.mems.gran ∧ t.blk.flags = x.flags) ∧
        (unitBusy x st e (unitCls e.unit).1 phys = false → (runChecks x (x.sched.checks e) k).2 = 0 →
          ∃ t, exec (.slotOpen c st) s = .next t ∧ t.pending = s.pending ∧
            (∃ v ∈ t.blk.seq.invs, v.stage = st ∧ v.line = k ∧ v.row = j ∧ v.phys = phys ∧ v.chaff = false ∧
              v.done = false ∧ v.openC = x.pwr.ccy) ∧
            rg t.blk Reg.SEQ_CNT_BUSY = rg x Reg.SEQ_CNT_BUSY ∧ rg t.blk Reg.SEQ_CNT_NOT_RIPE = rg x Reg.SEQ_CNT_NOT_RIPE ∧
            t.blk.mems.gran = x.mems.gran ∧ t.blk.flags = x.flags)))

/-- In the cycle in which the slot of an invocation closes: one that has not completed is marked closed in this cycle,
SEQ_CNT_OVERRUN grows by one, and its queued tasks are late; one that has completed is forgotten; a chaff-run is marked
closed. In any other cycle nothing changes. When a PIPE invocation without the SAFETY bit and without a mark has not completed
1 250 cycles after its slot has closed, SEQ_CNT_HUNG grows by one, SEQ_LAST_CHAFF holds cause OVERRUN and the stage, the
invocation is done with cause OVERRUN, and every flag of its outputs is set; before that, and for an invocation that is done,
nothing changes. (From spec/02_frame_graph_sequencer.md R47, spec/02_frame_graph_sequencer.md R56, spec/14_task_dispatch.md
R341.) -/
def Obligations.SlotsCloseAndHungStagesEnd : Prop :=
  ∀ (c st k : Nat) (s : State) (x : Block), x = s.asFound c →
    ((findInv x st k = none ∨ ∃ v, findInv x st k = some v ∧ (closesNow x v = false ∨ v.closed = true)) →
      ∃ t, exec (.slotClose c st k) s = .next t ∧ t.pending = s.pending ∧ Keeps [] [] x t.blk) ∧
    (∀ v, findInv x st k = some v → closesNow x v = true → v.closed = false →
      (v.done = false → ∃ t, exec (.slotClose c st k) s = .next t ∧ t.pending = s.pending ∧
        (findInv t.blk st k).map (fun u => (u.closed, u.closeC, u.done)) = some (true, x.pwr.ccy, false) ∧
        rg t.blk Reg.SEQ_CNT_OVERRUN = rg x Reg.SEQ_CNT_OVERRUN + (if v.chaff then 0#32 else 1#32) ∧
        (v.chaff = false → t.blk.lists = (markLate x st k).lists) ∧
        Keeps (if v.chaff then [.seq] else [.seq, .lists, .raised]) [Reg.SEQ_CNT_OVERRUN] x t.blk) ∧
      (v.done = true → ∃ t, exec (.slotClose c st k) s = .next t ∧ t.pending = s.pending ∧ findInv t.blk st k = none ∧
        Keeps [.seq] [] x t.blk)) ∧
    (∀ v, findInv x st k = some v →
      (v.done = true ∨ v.closed = false ∨ x.pwr.ccy < v.closeC + 1250 →
        ∃ t, exec (.stageHung c st k) s = .next t ∧ t.pending = s.pending ∧ Keeps [] [] x t.blk) ∧
      (v.done = false → v.chaff = false → v.closed = true → v.closeC + 1250 ≤ x.pwr.ccy → v.mark = none →
        ((schedFor x st k).entry st).kind = 0 → ((schedFor x st k).entry st).safety = false →
        ∃ t, exec (.stageHung c st k) s = .next t ∧ t.pending = s.pending ∧
          rg t.blk Reg.SEQ_CNT_HUNG = rg x Reg.SEQ_CNT_HUNG + 1#32 ∧
          rg t.blk Reg.SEQ_LAST_CHAFF = wd (2 * 2 ^ 28 + st % 4096) ∧
          (findInv t.blk st k).map (fun u => (u.done, u.mark)) = some (true, some 2) ∧
          ∀ o ∈ outEntries x (schedFor x st k) st k, flagsSet t.blk (o.1.flag0 o.2) o.1.count = true))

/-- STAGE_COMPLETE of a PIPE invocation of a vision engine (of stereo, in its phase B) or of a lane whose intake entry is
complete, of a STREAM invocation whose stream is no longer in flight, of a COMPARE or SLIP invocation, and of the RESULT
invocation whose turn it is, leaves the invocation done and sets every flag of its outputs. Of the PIPE and COMPARE
invocations, one with a single output entry has written there the header of its line: the low and high bits of LINE, those of a
stereo invocation as its phase A formed them. Of an invocation that is already done, of a chaff-run, of a stereo invocation not
in its phase B, or of a lane whose entry is not complete, STAGE_COMPLETE changes nothing. In each case the unit is one whose
port is open, not fenced or being cleared. The end of phase A of a running stereo invocation leaves it with phase A's data, the
header of its line first, and not done, and changes nothing once phase A has ended. (From spec/02_frame_graph_sequencer.md R48,
spec/02_frame_graph_sequencer.md R56, spec/03_camera_ports.md R92, spec/07_stereo.md R162, spec/11_scratchpad_and_granary.md
R275, spec/18_configuration_bitstream.md R429.) -/
def Obligations.CompletionRipensTheOutputs : Prop :=
  ∀ (c st k : Nat) (errs : List (Nat × EccStat)) (s : State) (x : Block) (v : Inv) (e : Entry), x = s.asFound c →
    findInv x st k = some v → e = (schedFor x st k).entry st →
    (v.chaff = true ∨ (v.done = true ∧ ((unitCls e.unit).1 < 6 → portShut x (unitCls e.unit).1 v.phys = none)) →
      ∃ t, exec (.stageComplete c st k errs) s = .next t ∧ t.pending = s.pending ∧ Keeps [] [] x t.blk) ∧
    (v.done = false → v.chaff = false → ((unitCls e.unit).1 < 6 → portShut x (unitCls e.unit).1 v.phys = none) →
      ((e.kind = 2 ∧ (slotOf (tl x v.phys) (e.arg % 64)).inFlight = false) ∨ e.kind = 3 ∨ e.kind = 5 ∨
          (e.kind = 4 ∧ (resultOpen x st).map Inv.line = some k) ∨
          (e.kind = 0 ∧ ((unitCls e.unit).1 ∈ [1, 2, 3, 5] ∨ ((unitCls e.unit).1 = 4 ∧ inPhaseB x v = true) ∨
            ((unitCls e.unit).1 = 6 ∧ v.golden = false ∧
              (prt x (unitCls e.unit).2).intake.any (fun i => decide (i.line = v.line) && i.done) = true))) →
        ∃ t, exec (.stageComplete c st k errs) s = .next t ∧ t.pending = s.pending ∧
          (findInv t.blk st k).map (·.done) = some true ∧
          (∀ o ∈ outEntries x (schedFor x st k) st k, flagsSet t.blk (o.1.flag0 o.2) o.1.count = true) ∧
          (∀ o, outEntries x (schedFor x st k) st k = [o] → e.kind = 0 ∨ e.kind = 3 → v.golden = e.gold →
            rdWord t.blk.mems.gran (o.1.addr o.2) = (if e.kind = 0 ∧ (unitCls e.unit).1 = 4 then wAt v.data 0 else wd k) ∧
            (rdWord t.blk.mems.gran (o.1.addr o.2 + 4)).fld 11 0 =
              (if e.kind = 0 ∧ (unitCls e.unit).1 = 4 then (wAt v.data 1).fld 11 0 else k / 2 ^ 32 % 4096))) ∧
      ((e.kind = 0 ∧ (((unitCls e.unit).1 = 4 ∧ inPhaseB x v = false) ∨ ((unitCls e.unit).1 = 6 ∧ v.golden = false ∧
            (prt x (unitCls e.unit).2).intake.any (fun i => decide (i.line = v.line) && i.done) = false))) →
        ∃ t, exec (.stageComplete c st k errs) s = .next t ∧ t.pending = s.pending ∧ Keeps [] [] x t.blk)) ∧
    (v.done = false → v.chaff = false → e.kind = 0 → (unitCls e.unit).1 = 4 →
      (v.data = [] → ∃ t u, exec (.stereoPhaseADone c st k errs) s = .next t ∧ t.pending = s.pending ∧
        findInv t.blk st k = some u ∧ u.done = false ∧ u.data ≠ [] ∧ u.phys = v.phys ∧ u.openC = v.openC ∧
        wAt u.data 0 = wd k ∧ (wAt u.data 1).fld 11 0 = k / 2 ^ 32 % 4096) ∧
      (v.data ≠ [] → ∃ t, exec (.stereoPhaseADone c st k errs) s = .next t ∧ t.pending = s.pending ∧
        Keeps [] [] x t.blk))

/-- A corrected table ECC error in either copy of the rachis sets SEQ_STATUS.TBL_CE and changes nothing else. An uncorrectable
one sets TBL_UE and sends Chombe the request for the safe state of cause SEQ_TBL. (R71) -/
def Obligations.TableEccErrors : Prop :=
  ∀ (c copy : Nat) (s : State), copy < 2 →
    (∃ t, exec (.tblEccError c copy false) s = .next t ∧ t.pending = s.pending ∧
      rg t.blk Reg.SEQ_STATUS = rg (s.asFound c) Reg.SEQ_STATUS ||| 0x200#32 ∧
      Keeps [] [Reg.SEQ_STATUS] (s.asFound c) t.blk) ∧
    (∃ t, exec (.tblEccError c copy true) s = .next t ∧ t.pending = s.pending ∧
      rg t.blk Reg.SEQ_STATUS = rg (s.asFound c) Reg.SEQ_STATUS ||| 0x400#32 ∧ t.blk.safe.req = (s.asFound c).safe.req ++ [(8, copy)] ∧
      Raised [⟨0x27, copy, true, none⟩] (s.asFound c) t.blk ∧
      Keeps [.safe, .raised] [Reg.SEQ_STATUS] (s.asFound c) t.blk)

/-- A write of EN = 1 to SEQ_CTRL sets EN and leaves SEQ_STATUS.STATE; a write of EN = 0 clears it, a RUNNING rachis becomes
HALTED while any other state stands, and each engine set that was written and waits for a boundary is in force at once where
it passes its checks (log entry 60). Beside SEQ_CTRL, its values in force, those sets, NOGOLD and that state, nothing changes.
A write finds the block after the commands that act in its cycle (`asWritten`).
The first difference between the two copies of the rachis sets SEQ_STATUS.DUP_ERR, sends the request of cause SEQ_DUP and
raises its event with the SAFE bit; a further one while the condition holds changes nothing. A difference in the duplicated
timebase, ports or lanes sends the request of cause ING_DUP with its item and raises its event with the SAFE bit. (From
spec/02_frame_graph_sequencer.md R74, spec/19_safety.md R447, spec/02_frame_graph_sequencer.md R70, spec/19_safety.md R451,
spec/19_safety.md R458, spec/00_scope.md R531.) -/
def Obligations.SequencerControlAndDuplicates : Prop :=
  ∀ (c item : Nat) (w : Word) (s : State) (x y : Block), x = s.asFound c → y = s.asWritten c → item < 4096 →
    (∃ t, exec (.seqEnable c w) s = .next t ∧ t.pending = s.pending ∧ (rg t.blk Reg.SEQ_CTRL).bit 0 = true ∧
      (rg t.blk Reg.SEQ_CTRL).bit 1 = w.bit 1 ∧ Keeps [.force, .prev] [Reg.SEQ_CTRL, Reg.SAFE_STATUS] y t.blk) ∧
    ((∀ o ∈ y.regs.wrote, ∃ k, setOfReg o = some (k, o)) →
      ∃ t, exec (.seqHalt c w) s = .next t ∧ t.pending = s.pending ∧ (rg t.blk Reg.SEQ_CTRL).bit 0 = false ∧
        (rg t.blk Reg.SEQ_CTRL).bit 1 = w.bit 1 ∧ t.blk.regs.wrote = [] ∧
        (rg t.blk Reg.SEQ_STATUS).fld 1 0 = (if (rg y Reg.SEQ_STATUS).fld 1 0 = 2 then 3 else (rg y Reg.SEQ_STATUS).fld 1 0) ∧
        (∀ o k, o ∈ y.regs.wrote → setOfReg o = some (k, o) → setPasses k.base (rg y) o = true →
          ∀ a ∈ setRegs o k.regs, frc t.blk a = rg y a) ∧
        (y.regs.wrote = [] → Keeps [.force, .prev] [Reg.SEQ_CTRL, Reg.SEQ_STATUS, Reg.SAFE_STATUS] y t.blk)) ∧
    (x.seq.dup = false → ∃ t, exec (.dupMismatch c) s = .next t ∧ t.pending = s.pending ∧
      (rg t.blk Reg.SEQ_STATUS).bit 8 = true ∧ t.blk.seq.dup = true ∧
      t.blk.safe.req = x.safe.req ++ [(7, 0)] ∧ Raised [⟨0x26, 0, true, none⟩] x t.blk ∧
      Keeps [.seq, .safe, .raised] [Reg.SEQ_STATUS] x t.blk) ∧
    (x.seq.dup = true → ∃ t, exec (.dupMismatch c) s = .next t ∧ t.pending = s.pending ∧
      Keeps [] [] x t.blk) ∧
    (∃ t, exec (.ingDup c item) s = .next t ∧ t.pending = s.pending ∧
      t.blk.safe.req = x.safe.req ++ [(9, item)] ∧ Raised [⟨0xBA, item, true, none⟩] x t.blk ∧
      Keeps [.safe, .raised] [] x t.blk)

/-- In cycle SEQ_SCAN.CYC of an open row that has not been scanned, with the rachis RUNNING, one ring enabled and SEQ_SCAN.MAX
= 1: where HEAD has reached TAIL, nothing is taken; a descriptor that passes all checks, names no line already past, and finds
room is appended to the pending commands with its row of effect (the next row, or its later target line), and HEAD advances by
one; one that fails a check gets DONE and its status written into word 7, HOST_CR_CNT_REJ grows by one,
HOST_ATTN_STATUS.CMD_REJ is set, its event is raised and HEAD advances by one. The row then counts as scanned. In any other
cycle, in a row scanned already, or with no row open, nothing changes. Where the scan stands in its cycle is the model's
(log entries 37 and 51). (From spec/02_frame_graph_sequencer.md R68,
spec/02_frame_graph_sequencer.md R69, spec/16_host_port.md R370, spec/16_host_port.md R371, spec/16_host_port.md R372,
spec/16_host_port.md R373.) -/
def Obligations.CommandScanTakesOneRing : Prop :=
  ∀ (c r j : Nat) (s : State) (x : Block) (d : CmdDesc), x = s.asFound c →
    ((x.seq.row = none ∨ (rg x Reg.SEQ_STATUS).fld 1 0 ≠ 2 ∨ x.seq.scanned = true ∨
        x.pwr.ccy ≠ x.seq.rowC + (frc x Reg.SEQ_SCAN).fld 10 0) →
      ∃ t, exec (.commandScan c) s = .next t ∧ t.pending = s.pending ∧ Keeps [] [] x t.blk) ∧
    (r < 16 → x.seq.row = some j → (rg x Reg.SEQ_STATUS).fld 1 0 = 2 → x.seq.scanned = false →
      x.pwr.ccy = x.seq.rowC + (frc x Reg.SEQ_SCAN).fld 10 0 → (rg x Reg.HOST_CTRL).fld 31 16 = 2 ^ r →
      (frc x Reg.SEQ_SCAN).fld 23 16 = 1 → d = cmdDesc x (cmdAddr x r (scanHead x r)) →
      (scanHead x r = scanTail x r → ∃ t, exec (.commandScan c) s = .next t ∧ t.pending = s.pending ∧
        t.blk.seq = { x.seq with scanned := true } ∧ Keeps [.host, .seq] [] x t.blk) ∧
      (scanHead x r ≠ scanTail x r → d.status j = 0 → x.seq.pend.length < 256 →
        d.target.elim false (fun l => lineGe j l) = false →
        ∃ t, exec (.commandScan c) s = .next t ∧ t.pending = s.pending ∧ scanHead t.blk r = (scanHead x r + 1) % 2 ^ 16 ∧
          (∃ p, t.blk.seq = { x.seq with scanned := true, pend := x.seq.pend ++ [p] } ∧ p.ring = r ∧ p.op = d.op ∧
            p.tag = d.w0.fld 15 0 ∧ p.target = d.target ∧ p.rowAt = d.target.getD (lineAdd j 1) ∧ p.arg0 = d.w3 ∧
            p.arg1 = d.w4 ∧ p.arg2 = d.w5) ∧
          Keeps [.seq, .host] [Reg.HOST_CR_HEAD r] x t.blk) ∧
      (scanHead x r ≠ scanTail x r → d.status j ≠ 0 →
        ∃ t, exec (.commandScan c) s = .next t ∧ t.pending = s.pending ∧ scanHead t.blk r = (scanHead x r + 1) % 2 ^ 16 ∧
          (wiRd t.blk (cmdAddr x r (scanHead x r) + 28)).bit 31 = true ∧
          (wiRd t.blk (cmdAddr x r (scanHead x r) + 28)).fld 30 28 = d.status j ∧
          rg t.blk (Reg.HOST_CR_CNT_REJ r) = rg x (Reg.HOST_CR_CNT_REJ r) + 1#32 ∧
          (rg t.blk Reg.HOST_ATTN_STATUS).bit 3 = true ∧ t.blk.seq = { x.seq with scanned := true } ∧
          Raised [⟨0x99, d.status j * 16 + r, false, none⟩] x t.blk ∧
          Keeps [.win, .host, .seq, .raised] [Reg.HOST_CR_HEAD r, Reg.HOST_CR_CNT_REJ r] x t.blk))

/-- Where the tick of cycle 0 has arrived and opens a row, and the oldest due command is the one named: it leaves the pending
commands, DONE is set with STATUS 0 and the row's line as DONE_LINE, and then NOP changes nothing more; WRITE32 does a panel
write of the bits that ARG2 takes, the other bits kept and the kept W1C bits written 0; SIGNAL sends its cell, for step 7 of
R321 before the host's own signals, a consumer advance where ADV is 1 and else a signal of the signed increment; MARK places a
mark with its TAG before the row's line record; GOLDEN_REQ sets SAFE_GREQ to pending with its TAG, or, where one is pending,
counts a merge. Which due command goes first, and when, is the model's (log entries 49 and 51). (From spec/16_host_port.md R371, spec/16_host_port.md R373, spec/13_synchronisation.md R321, spec/19_safety.md
R448, spec/20_determinism_and_replay.md R474.) -/
def Obligations.CommandsTakeEffectInTheirRow : Prop :=
  ∀ (c : Nat) (s : State) (x y : Block) (a : Arrived) (p : PendCmd) (rest : List PendCmd), x = arrive (s.asFound c) →
    x.seq.arrived = some a → a.opens = true → takeDue a.line x.seq.pend = some (p, rest) →
    y = cmdDone { x with seq := { x.seq with pend := rest } } p.addr a.line →
    y.seq.pend = rest ∧ rdWord y.mems.win (p.addr + 24) = wd a.line ∧ (rdWord y.mems.win (p.addr + 28)).fld 31 28 = 8 ∧
    (rdWord y.mems.win (p.addr + 28)).fld 11 0 = a.line / 2 ^ 32 % 4096 ∧
    (p.op = 0 → ∃ t, exec (.cmdNop c) s = .next t ∧ t.pending = s.pending ∧ Keeps [] [] y t.blk) ∧
    (p.op = 1 → ∃ t, exec (.cmdWrite32 c) s = .next t ∧ t.pending = s.pending ∧
      Keeps [] [] (panelWrite p.arg0.toNat ((liveReg y p.arg0.toNat &&& ~~~ p.arg2 &&& ~~~ (wd (rowOf p.arg0.toNat).w1c)) |||
        (p.arg1 &&& p.arg2)) y) t.blk) ∧
    (p.op = 2 → ∃ t, exec (.cmdSignal c) s = .next t ∧ t.pending = s.pending ∧
      Sent [⟨7, 0, 0, 5, 0, p.arg0.fld 11 0,
        if p.arg0.bit 16 then .advance p.arg1.toNat else .signal p.arg1.s32⟩] y t.blk ∧ Keeps [.ops] [] y t.blk) ∧
    (p.op = 3 → ∃ t, exec (.cmdMark c) s = .next t ∧ t.pending = s.pending ∧
      t.blk.seq = { y.seq with marks := x.seq.marks ++ [(a.line, p.tag)] } ∧ Keeps [.seq] [] y t.blk) ∧
    (p.op = 4 → ∃ t, exec (.cmdGoldenReq c) s = .next t ∧ t.pending = s.pending ∧
      (if (rg x Reg.SAFE_GREQ).bit 31 = true then
         rg t.blk Reg.SAFE_CNT_GREQ_MERGE = rg x Reg.SAFE_CNT_GREQ_MERGE + 1#32 ∧
         Keeps [] [Reg.SAFE_CNT_GREQ_MERGE] y t.blk
       else rg t.blk Reg.SAFE_GREQ = wd (2 ^ 31 + p.tag % 2 ^ 16) ∧ t.blk.safe = { y.safe with greqRow := a.line } ∧
         Keeps [.safe] [Reg.SAFE_GREQ] y t.blk))

/-! ## Camera ports, lanes and engines (spec/03 to spec/08) -/

/-- A firing becomes due for an enabled output whose divider divides the line of the last tick, that has no firing for it yet,
when the position has crossed PHASE sixteenths into the line, and not before; it joins the output's firings that are due, with
its line, its timebase cycle and the phase, LATE and SHEAF_ST of the line's tick. When the oldest of them fires, from its
timebase cycle on, the output records the line, counts the firing, and a pulse joins those of the output that have not ended:
it begins DELAY timebase cycles after that cycle, lasts APW + 1 cycles where a lane asks for an apply pulse and else WIDTH + 1,
and has the polarity of POL. Every port that selects the output gets one new record for the line, last in its list and not
started, with the line as its reference row, or none yet where RO_LAG is set. Where no firing is due nothing changes. (Of two
apply requests that are due the choice of the width is the model's, log entry 62.) (From spec/01_position_timebase.md R32,
spec/03_camera_ports.md R80, spec/01_position_timebase.md R45, spec/04_front_end_lanes.md R111.) -/
def Obligations.TriggerCreatesLineRecords : Prop :=
  (∀ (b : Block) (t n k : Nat), n < 8 → b.tb.issued = some k → (frc b (Reg.TB_TRIG_CFG n)).bit 0 = true →
    k % ((frc b (Reg.TB_TRIG_CFG n)).fld 11 8 + 1) = 0 → (trigOf b n).last ≠ some k →
    (∀ f ∈ (trigOf b n).due, f.line ≠ k) →
    (trigOf (trigDue t b) n).due =
      if subMod 48 b.tb.pos ((k * 16 + (frc b (Reg.TB_TRIG_CFG n)).fld 7 4) % 2 ^ 48) < 2 ^ 47 then
        (trigOf b n).due ++ [⟨k, t, b.tb.phase, b.tb.late, b.tb.sheafSt⟩]
      else (trigOf b n).due) ∧
  (∀ (c n : Nat) (s : State) (x : Block), x = s.asFound c → n < 8 →
    (∀ f l, (trigOf x n).due = f :: l → f.cyc ≤ coreToTb x.pwr.ccy →
      ∃ t p, exec (.triggerFire c n) s = .next t ∧ t.pending = s.pending ∧
        trigOf t.blk n = { trigOf x n with
          last := some f.line, due := l, count := (trigOf x n).count + 1,
          pulses := (trigOf x n).pulses.filter (fun q => decide (f.cyc < q.fired + q.delay + q.len)) ++ [p] } ∧
        p.fired = f.cyc ∧ p.delay = (frc x (Reg.TB_TRIG_CFG n)).fld 31 24 ∧ p.low = (frc x (Reg.TB_TRIG_CFG n)).bit 1 ∧
        (applyLanes x n f.line = [] → p.len = (frc x (Reg.TB_TRIG_CFG n)).fld 23 16 + 1 ∧ p.apply = false ∧
          t.blk.lanes = x.lanes) ∧
        (∀ m ls a, applyLanes x n f.line = m :: ls → (lane x m).applies.find? (pulseDue f.line) = some a →
          p.len = a.2 + 1 ∧ p.apply = true) ∧
        (∀ m, m < 8 → (cpCfg x m).fld 7 5 = n → ∃ r, (prt t.blk m).recs.getLast? = some r ∧ r.line = f.line ∧
          r.phase = f.phase ∧ r.late = f.late ∧ r.sheafSt = f.sheafSt ∧
          r.started = false ∧ r.out = n ∧ r.ref = (if (cpCfg x m).bit 8 = true then none else some f.line) ∧
          (prt t.blk m).recs.length = (prt x m).recs.length + 1) ∧
        (∀ m, (cpCfg x m).fld 7 5 ≠ n → prt t.blk m = prt x m) ∧
        Keeps [.trigs, .ports, .lanes] ((upFrom 0 8).map Reg.FE_PORT_STATUS) x t.blk) ∧
    ((∀ f l, (trigOf x n).due = f :: l → coreToTb x.pwr.ccy < f.cyc) →
      ∃ t, exec (.triggerFire c n) s = .next t ∧ t.pending = s.pending ∧ Keeps [] [] x t.blk))

/-- At a port that takes its entries from the camera. A transfer is valid with LVAL 1, with DVAL 1 where DVAL_EN is set, and
with FVAL 1 where FVAL_MODE is not 0. A line start finds the port after the tick and the firings of its own cycle (`z`). If
the port is enabled and no line is in progress: a valid transfer within OPEN to START_DL of the oldest unfinished record starts
that record at its stamp and, up to END_DL, gives it four pixels, masked to the port's depth and cut at LEN, and the line
counts in its frame while FVAL is 1; one outside that window, for a started record, or with no record whose reference row has
opened is EXTRA, is counted, and its line is discarded, and so is a transfer that only FVAL keeps from being valid. While a
line is in progress and not discarded, a later valid transfer up to END_DL appends its four pixels in the same way, and one
after END_DL appends none. A transfer that is neither starts and appends nothing; neither does one at a disabled port. Nothing
but the port and its status or counter changes. (From spec/03_camera_ports.md R77, spec/03_camera_ports.md R79,
spec/03_camera_ports.md R83, spec/03_camera_ports.md R84, spec/03_camera_ports.md R85, spec/03_camera_ports.md R87.) -/
def Obligations.PortTakesALine : Prop :=
  ∀ (c n : Nat) (y : CamSample) (s : State) (x z : Block), x = s.asFound c → z = fireDue ((cpCfg (arrive x) n).fld 7 5) (arrive x) →
    n < 8 → (replayOn x && x.dbg.ports.contains n) = false →
    (cpValid x n y = true ↔ y.lval = true ∧ (y.dval = true ∨ (cpCfg x n).bit 9 = false) ∧
      (y.fval = true ∨ (cpCfg x n).fld 11 10 = 0)) ∧ y.pixels.length = 4 ∧
    (∀ r l u, cpEn z n = true → cpValid z n y = true → (prt z n).lval = false → (prt z n).recs = r :: l →
      stampNow z n = some u → r.started = false → cpOpen z n ≤ u → u ≤ cpStartDl z n → u ≤ cpEndDl z n →
      ∃ t q, exec (.lineStart c n y) s = .next t ∧ t.pending = s.pending ∧ (prt t.blk n).recs = q :: l ∧
        q.line = r.line ∧ q.started = true ∧ q.startS = u ∧ q.rcvd = r.rcvd + 4 ∧
        q.px = (r.px ++ y.pixels.map (cpMask z n)).take (cpLen z n) ∧ (prt t.blk n).lval = true ∧
        (prt t.blk n).discard = false ∧
        (prt t.blk n).frameN = (if y.fval then (if (prt z n).fval then (prt z n).frameN else 0) + 1
          else if (prt z n).fval then 0 else (prt z n).frameN) ∧
        Keeps [.ports] [Reg.FE_PORT_STATUS n] z t.blk) ∧
    (cpEn z n = true → (prt z n).lval = false →
      ((y.lval = true ∧ (y.dval = true ∨ (cpCfg z n).bit 9 = false) ∧ y.fval = false ∧ (cpCfg z n).fld 11 10 ≠ 0) ∨
        (cpValid z n y = true ∧ ∀ r l u, (prt z n).recs = r :: l → stampNow z n = some u →
          r.started = true ∨ u < cpOpen z n ∨ cpStartDl z n < u)) →
      ∃ t, exec (.lineStart c n y) s = .next t ∧ t.pending = s.pending ∧
        rg t.blk (Reg.FE_PORT_CNT_EXTRA n) = rg z (Reg.FE_PORT_CNT_EXTRA n) + 1#32 ∧ (prt t.blk n).discard = true ∧
        (prt t.blk n).extra = true ∧ (prt t.blk n).recs = (prt z n).recs ∧
        Keeps [.ports] [Reg.FE_PORT_CNT_EXTRA n] z t.blk) ∧
    ((cpEn z n = false ∨ (prt z n).lval = true ∨ y.lval = false ∨ (y.dval = false ∧ (cpCfg z n).bit 9 = true)) →
      ∃ t, exec (.lineStart c n y) s = .next t ∧ t.pending = s.pending ∧ (prt t.blk n).recs = (prt z n).recs ∧
        (prt t.blk n).intake = (prt z n).intake ∧ Keeps [.ports] [] z t.blk) ∧
    (∀ r l u, cpEn x n = true → cpValid x n y = true → (prt x n).lval = true → (prt x n).discard = false →
      (prt x n).recs = r :: l → stampNow x n = some u →
      ∃ t q, exec (.validTransfer c n y) s = .next t ∧ t.pending = s.pending ∧ (prt t.blk n).recs = q :: l ∧
        q.rcvd = (if u ≤ cpEndDl x n then r.rcvd + 4 else r.rcvd) ∧
        q.px = (if u ≤ cpEndDl x n then (r.px ++ y.pixels.map (cpMask x n)).take (cpLen x n) else r.px) ∧
        q.line = r.line ∧ q.startS = r.startS ∧ Keeps [.ports] [] x t.blk) ∧
    ((cpEn x n = false ∨ cpValid x n y = false ∨ (prt x n).lval = false ∨ (prt x n).discard = true) →
      ∃ t, exec (.validTransfer c n y) s = .next t ∧ t.pending = s.pending ∧ (prt t.blk n).recs = (prt x n).recs ∧
        Keeps [.ports] [] x t.blk)

/-- At an enabled port that takes its entries from the camera. The end of a line that started in its window finishes the
oldest record at once: it leaves the list, the intake holds a complete entry for its line with exactly LEN pixels, the
received ones first, and CNT_SHORT or CNT_LONG counts where fewer or more than LEN were received; where FVAL falls in the same
transfer, a short frame is flagged on the next entry and not on this one. END_DL of a started record,
from that stamp on, and START_DL of one that has not started finish it in the same way at the end of the cycle, after that
cycle's line starts and transfers; an entry whose line never started counts in CNT_MISSING. Before those stamps nothing
changes. The opening of the window marks the oldest record; a fall of FVAL starts a new frame. The loss of the port's clock
sets CLK_LOST and raises CP_CLK_LOSS, its return clears CLK_LOST and raises CP_CLK_BACK, and neither changes anything else.
(From spec/03_camera_ports.md R82, spec/03_camera_ports.md R83, spec/03_camera_ports.md R84, spec/03_camera_ports.md R85,
spec/03_camera_ports.md R87, spec/03_camera_ports.md R88, spec/03_camera_ports.md R90, spec/03_camera_ports.md R94.) -/
def Obligations.PortCompletesItsRecord : Prop :=
  ∀ (c n : Nat) (y : CamSample) (s : State) (x : Block) (r : CRec) (l : List CRec), x = s.asFound c → n < 8 →
    cpEn x n = true → (replayOn x && x.dbg.ports.contains n) = false → (prt x n).recs = r :: l →
    (y.lval = false → (prt x n).lval = true → (prt x n).discard = false → r.started = true →
      ∃ t, exec (.lineEnd c ⟨n, y⟩) s = .next t ∧ t.pending = s.pending ∧ (prt t.blk n).recs = l ∧ (prt t.blk n).lval = false ∧
        (∃ e ∈ (prt t.blk n).intake, e.line = r.line ∧ e.done = true ∧ e.px.length = cpLen x n ∧
          e.px.take r.px.length = (r.px.take (cpLen x n)) ∧ (wAt e.hdr 2).bit 5 = (prt x n).shortF) ∧
        (y.fval = false → (prt x n).fval = true → (cpCfg x n).fld 11 10 = 2 → (prt x n).frameN < cpFrameLines x n →
          (prt t.blk n).shortF = true) ∧
        rg t.blk (Reg.FE_PORT_CNT_SHORT n) = rg x (Reg.FE_PORT_CNT_SHORT n) + (if r.rcvd < cpLen x n then 1#32 else 0#32) ∧
        rg t.blk (Reg.FE_PORT_CNT_LONG n) = rg x (Reg.FE_PORT_CNT_LONG n) + (if cpLen x n < r.rcvd then 1#32 else 0#32) ∧
        (∀ m, m ≠ n → prt t.blk m = prt x m) ∧
        (∀ q : Part, q ∉ [.ports, .lanes, .safe, .dbg, .raised] → q.same x t.blk)) ∧
    (∀ u, stampNow x n = some u →
      (r.started = true → cpEndDl x n ≤ u → ∃ t, exec (.endDeadline c n) s = .next t ∧ t.pending = s.pending ∧
        prt t.blk n = { prt x n with closing := .fin } ∧ Keeps [.ports] [] x t.blk) ∧
      (r.started = false → cpStartDl x n ≤ u → ∃ t, exec (.startDeadline c n) s = .next t ∧ t.pending = s.pending ∧
        prt t.blk n = { prt x n with closing := .start } ∧ Keeps [.ports] [] x t.blk) ∧
      ((r.started = false ∨ u < cpEndDl x n) → ∃ t, exec (.endDeadline c n) s = .next t ∧ t.pending = s.pending ∧
        Keeps [] [] x t.blk) ∧
      ((r.started = true ∨ u < cpStartDl x n) → ∃ t, exec (.startDeadline c n) s = .next t ∧ t.pending = s.pending ∧
        Keeps [] [] x t.blk) ∧
      (cpOpen x n ≤ u → ∃ t, exec (.windowOpen c n) s = .next t ∧ t.pending = s.pending ∧
        (prt t.blk n).recs = { r with opened := true } :: l ∧ Keeps [.ports] [] x t.blk) ∧
      (u < cpOpen x n → ∃ t, exec (.windowOpen c n) s = .next t ∧ t.pending = s.pending ∧ Keeps [] [] x t.blk)) ∧
    (((prt x n).closing = .start ∧ r.started = false) ∨ ((prt x n).closing = .fin ∧ r.started = true) →
      (prt (closePort x n) n).recs = l ∧ (prt (closePort x n) n).closing = .none ∧
      (∃ e ∈ (prt (closePort x n) n).intake, e.line = r.line ∧ e.done = true ∧ e.px.length = cpLen x n ∧
        e.px.take r.px.length = (r.px.take (cpLen x n))) ∧
      rg (closePort x n) (Reg.FE_PORT_CNT_MISSING n) =
        rg x (Reg.FE_PORT_CNT_MISSING n) + (if r.started then 0#32 else 1#32)) ∧
    (∃ t, exec (.fvalFall c n) s = .next t ∧ t.pending = s.pending ∧ (prt t.blk n).recs = r :: l ∧
      ((prt x n).fval = true → (prt t.blk n).frameN = 0 ∧ (prt t.blk n).fval = false ∧
        ((cpCfg x n).fld 11 10 = 2 → (prt x n).frameN < cpFrameLines x n → (prt t.blk n).shortF = true)) ∧
      Keeps (if (prt x n).fval then [.ports] else []) [] x t.blk) ∧
    ((rg x (Reg.FE_PORT_STATUS n)).bit 2 = false →
      ∃ t, exec (.cpClkLoss c n) s = .next t ∧ t.pending = s.pending ∧ (rg t.blk (Reg.FE_PORT_STATUS n)).bit 2 = true ∧
        Raised [⟨0x31, n, false, none⟩] x t.blk ∧ Keeps [.raised] [Reg.FE_PORT_STATUS n] x t.blk) ∧
    ((rg x (Reg.FE_PORT_STATUS n)).bit 2 = true →
      ∃ t, exec (.cpClkBack c n) s = .next t ∧ t.pending = s.pending ∧ (rg t.blk (Reg.FE_PORT_STATUS n)).bit 2 = false ∧
        Raised [⟨0x32, n, false, none⟩] x t.blk ∧ Keeps [.raised] [Reg.FE_PORT_STATUS n] x t.blk)

/-- LANE_STATS_DONE, once the slot of the last line of the oldest sheaf gathered has closed and no line of it is in hand, writes
that sheaf's record to its place in GDDR6 (2 KiB times the sheaf modulo 4 above the base in force), drops it from those
gathered and counts in STAT_SEQ; where the place lies in a region that refuses accesses or in the staging region, the record is
dropped unwritten and STAT_SEQ stands (the model's reading, log entry 31); before that nothing changes. HEAD_WRITE_DONE takes one write off the oldest head message; when it was the last one of the only
message, the lane has no message left, HEAD_BUSY reads 0, and an apply pulse with its APW is asked for, at or after the
boundary of its sheaf or, of a late message, at the next firing, where the message wants one. HEAD_NACK drops the oldest
message, notes its sheaf as in error, sets HEAD_ERR and raises its event. (From spec/04_front_end_lanes.md R110,
spec/04_front_end_lanes.md R111, spec/04_front_end_lanes.md R114.) -/
def Obligations.LaneStatisticsAndHeadMessages : Prop :=
  ∀ (c n : Nat) (s : State) (x : Block), x = s.asFound c → n < 8 →
    (∀ u l a ws, (lane x n).stats = u :: l → a = (frc x (Reg.FE_LANE_STAT_BASE_HI n)).fld 1 0 * 2 ^ 32 +
        (frc x (Reg.FE_LANE_STAT_BASE_LO n)).fld 31 13 * 8192 + 2048 * (u.sheaf % 4) →
      ws = statWords n u (spGet (fun _ => 0) (lane x n).malfs u.sheaf) ((lane x n).headErr.contains u.sheaf) →
      (statsClosed x n u.sheaf = true → spanRefuses x a (wordBytes ws).length = false →
        inStaging (a + (wordBytes ws).length - 1) = false →
        ∃ t, exec (.laneStatsDone c n) s = .next t ∧ t.pending = s.pending ∧ (lane t.blk n).stats = l ∧
          rg t.blk (Reg.FE_LANE_STAT_SEQ n) = rg x (Reg.FE_LANE_STAT_SEQ n) + 1#32 ∧
          gdRd t.blk a (wordBytes ws).length = wordBytes ws ∧
          Keeps [.gddr, .mem, .lanes] [Reg.FE_LANE_STAT_SEQ n] x t.blk) ∧
      (statsClosed x n u.sheaf = true →
        spanRefuses x a (wordBytes ws).length = true ∨ inStaging (a + (wordBytes ws).length - 1) = true →
        ∃ t, exec (.laneStatsDone c n) s = .next t ∧ t.pending = s.pending ∧ (lane t.blk n).stats = l ∧
          Keeps [.lanes] [] x t.blk) ∧
      (statsClosed x n u.sheaf = false →
        ∃ t, exec (.laneStatsDone c n) s = .next t ∧ t.pending = s.pending ∧ Keeps [] [] x t.blk)) ∧
    (∀ m l w ws, (lane x n).msgs = m :: l → m.writes = w :: ws → ws ≠ [] →
      ∃ t, exec (.headWriteDone c n) s = .next t ∧ t.pending = s.pending ∧
        lane t.blk n = { lane x n with msgs := { m with writes := ws } :: l } ∧ (rg t.blk (Reg.FE_LANE_STATUS n)).bit 5 = true ∧
        Keeps [.lanes] [Reg.FE_LANE_STATUS n] x t.blk) ∧
    (∀ m, (lane x n).msgs = [m] → m.writes.length ≤ 1 →
      ∃ t, exec (.headWriteDone c n) s = .next t ∧ t.pending = s.pending ∧ (lane t.blk n).msgs = [] ∧
        (rg t.blk (Reg.FE_LANE_STATUS n)).bit 5 = false ∧
        (lane t.blk n).applies = (lane x n).applies ++
          (if m.apply then [(if m.late then none else some (m.sheaf * 1024 % 2 ^ 44), m.apw)] else []) ∧
        Keeps [.lanes] [Reg.FE_LANE_STATUS n] x t.blk) ∧
    (∀ m l, (lane x n).msgs = m :: l →
      ∃ t, exec (.headNack c n) s = .next t ∧ t.pending = s.pending ∧ m.sheaf ∈ (lane t.blk n).headErr ∧
        (rg t.blk (Reg.FE_LANE_STATUS n)).bit 1 = true ∧ (l = [] → (lane t.blk n).msgs = []) ∧
        Raised [⟨0x39, n, false, none⟩] x t.blk ∧ Keeps [.lanes, .raised] [Reg.FE_LANE_STATUS n] x t.blk)

/-- A write of FE_LANEn_TBL_DATA with a bank that neither the set in force nor the pending one names writes the bits that the
table holds into the entry that TBL_ADDR names and no other; with a locked bank, or an entry that no table has, it writes
nothing and sets TBL_ERR; in both cases INDEX advances by one. A write of WP_MESH_DATA writes the point that WP_MESH_ADDR
names, or, where its bank is locked, nothing, and sets TBL_ERR and raises its event; INDEX advances by one. A read of
FE_LANEn_TBL_DATA, WP_MESH_DATA, FT_PAT_DATA, GRN_FLAG_DATA or SYNC_VT_DATA that comes at least 60 ns after the previous read
of the same register advances by one the INDEX, the INDEX, the PAIR carrying into THETA, the WORD and the VID carrying into
CTX, in turn, of its address register; the other bits of that register stand, and nothing else changes but the recorder's queue
and the port's note of the read; one that comes earlier does not step, and HOST_CNT_STEP_EARLY grows by one. A write finds the
block after the commands that act in its cycle. (From spec/04_front_end_lanes.md R112, spec/04_front_end_lanes.md R117,
spec/05_warp_and_pyramid.md R128, spec/16_host_port.md R368, spec/06_tuft_features.md, spec/11_scratchpad_and_granary.md R279,
spec/13_synchronisation.md R330.) -/
def Obligations.TablePortsWriteAndStep : Prop :=
  ∀ (c n : Nat) (w : Word) (s : State) (x y : Block), x = s.asFound c → y = s.asWritten c → n < 8 →
    (∃ t, exec (.feTblDataWrite c n w) s = .next t ∧ t.pending = s.pending ∧
      (rg t.blk (Reg.FE_LANE_TBL_ADDR n)).fld 15 0 = ((rg y (Reg.FE_LANE_TBL_ADDR n)).fld 15 0 + 1) % 2 ^ 16 ∧
      Keeps [.cal] [Reg.FE_LANE_TBL_ADDR n, Reg.FE_LANE_STATUS n] y t.blk ∧
      (bankLocked y n ((rg y (Reg.FE_LANE_TBL_ADDR n)).fld 20 20) = true ∨ tblSel (rg y (Reg.FE_LANE_TBL_ADDR n)) n = none →
        t.blk.mems.cal = y.mems.cal ∧ (rg t.blk (Reg.FE_LANE_STATUS n)).bit 6 = true) ∧
      (∀ k m, bankLocked y n ((rg y (Reg.FE_LANE_TBL_ADDR n)).fld 20 20) = false →
        tblSel (rg y (Reg.FE_LANE_TBL_ADDR n)) n = some (k, m) →
        (∀ j, spGet calReset t.blk.mems.cal j = if j = k then w &&& m else spGet calReset y.mems.cal j) ∧
        rg t.blk (Reg.FE_LANE_STATUS n) = rg y (Reg.FE_LANE_STATUS n))) ∧
    (∃ t, exec (.wpMeshDataWrite c w) s = .next t ∧ t.pending = s.pending ∧
      (rg t.blk Reg.WP_MESH_ADDR).fld 15 0 = ((rg y Reg.WP_MESH_ADDR).fld 15 0 + 1) % 2 ^ 16 ∧
      Keeps [.mesh, .raised] [Reg.WP_MESH_ADDR, Reg.WP_STATUS] y t.blk ∧
      (meshLocked y ((rg y Reg.WP_MESH_ADDR).fld 16 16) = true →
        t.blk.mems.mesh = y.mems.mesh ∧ (rg t.blk Reg.WP_STATUS).bit 1 = true ∧ Raised [⟨0x42, 15, false, none⟩] y t.blk) ∧
      (meshLocked y ((rg y Reg.WP_MESH_ADDR).fld 16 16) = false →
        (∀ j, spGet meshReset t.blk.mems.mesh j =
          if j = (rg y Reg.WP_MESH_ADDR).fld 16 0 then w else spGet meshReset y.mems.mesh j) ∧
        rg t.blk Reg.WP_STATUS = rg y Reg.WP_STATUS ∧ Raised [] y t.blk)) ∧
    (∀ o reg addr hi, ((o = exec (.feTblDataRead c n) s ∧ reg = Reg.FE_LANE_TBL_DATA n ∧ addr = Reg.FE_LANE_TBL_ADDR n ∧ hi = 15) ∨
        (o = exec (.wpMeshDataRead c) s ∧ reg = Reg.WP_MESH_DATA ∧ addr = Reg.WP_MESH_ADDR ∧ hi = 15) ∨
        (o = exec (.ftPatDataRead c) s ∧ reg = Reg.FT_PAT_DATA ∧ addr = Reg.FT_PAT_ADDR ∧ hi = 12) ∨
        (o = exec (.grnFlagDataRead c) s ∧ reg = Reg.GRN_FLAG_DATA ∧ addr = Reg.GRN_FLAG_ADDR ∧ hi = 8) ∨
        (o = exec (.syncVtDataRead c) s ∧ reg = Reg.SYNC_VT_DATA ∧ addr = Reg.SYNC_VT_ADDR ∧ hi = 13)) →
      (stepEarly x reg = none → ∃ t, o = .next t ∧ t.pending = s.pending ∧
        (rg t.blk addr).fld hi 0 = ((rg x addr).fld hi 0 + 1) % 2 ^ (hi + 1) ∧
        (rg t.blk addr).fld 31 (hi + 1) = (rg x addr).fld 31 (hi + 1) ∧
        Keeps [.host, .dbg] [addr, Reg.DBG_REC_CNT_LOST] x t.blk) ∧
      ((stepEarly x reg).isSome = true → ∃ t, o = .next t ∧ t.pending = s.pending ∧
        rg t.blk Reg.HOST_CNT_STEP_EARLY = rg x Reg.HOST_CNT_STEP_EARLY + 1#32 ∧
        Keeps [.host] [Reg.HOST_CNT_STEP_EARLY] x t.blk))

/-! ## Tasks, the array and the vector unit (spec/09, spec/14) -/

/-- Where the core can issue: TSLOT writes its logical slot to xd. TPULL without a current task, with a mask at an address
that passes the checks and is read without error, every list of the mask enabled and of one context, blocks the core in a pull
of that mask from this cycle, in STATE PULL; with a current task, or with such a mask whose lists are not all enabled and of
one context, it faults ILLEGAL. TDONE with a current task, outside the handler, and TABORT with a current task block the core
until completion; TDONE and TABORT without a current task, and TDONE in the handler, fault ILLEGAL; MWAIT blocks the core
while the array holds an operation, else it changes nothing. But where it faults, no other tiller, no other register and no
memory changes. (That TDONE in the fault handler is ILLEGAL is the model's reading.) (From spec/09_tillers.md R205,
spec/09_tillers.md R210, spec/09_tillers.md R219, spec/09_tillers.md R220, spec/09_tillers.md R221, spec/09_tillers.md R222,
spec/14_task_dispatch.md R338.) -/
def Obligations.TaskInstructionsBlockTheCore : Prop :=
  ∀ (c t pc r : Nat) (er : List (Nat × EccStat)) (s : State) (x : Block), x = s.asFound c → CanIssue x t pc →
    (∃ u, exec (.tslot c t pc r) s = .next u ∧ u.pending = s.pending ∧
      TlrIs t ((tl x t).wrX r (wd (slotOfT x t))) x u.blk ∧ Keeps [.tlr] [] x u.blk) ∧
    (∀ p m, (tl x t).task = none → coreAcc x t (xReg (tl x t) r).toNat 8 8 false = .ok p → spErrs x t p 8 er = [] →
      m = leNat (spRd x t p 8) → maskOk x m = true →
      ∃ u, exec (.tpull c t pc ⟨r, er⟩) s = .next u ∧ u.pending = s.pending ∧ tState u.blk t = 1 ∧
        TlrIs t { tl x t with blocked := .tpull m x.pwr.ccy, handler := false } x u.blk ∧
        Keeps [.tlr] [Reg.TLR_ID t] x u.blk) ∧
    (((tl x t).task.isSome = true ∨ ∃ p, coreAcc x t (xReg (tl x t) r).toNat 8 8 false = .ok p ∧
        spErrs x t p 8 er = [] ∧ maskOk x (leNat (spRd x t p 8)) = false) →
      ∃ u, exec (.tpull c t pc ⟨r, er⟩) s = .next u ∧ u.pending = s.pending ∧ Faulted t 1 pc u.blk) ∧
    (((tl x t).task = none ∨ (tl x t).handler = true) →
      ∃ u, exec (.tdone c t pc) s = .next u ∧ u.pending = s.pending ∧ Faulted t 1 pc u.blk) ∧
    ((tl x t).task = none → ∃ u, exec (.tabort c t pc) s = .next u ∧ u.pending = s.pending ∧ Faulted t 1 pc u.blk) ∧
    (∀ p, (tl x t).task = some p →
      ((tl x t).handler = false → ∃ u, exec (.tdone c t pc) s = .next u ∧ u.pending = s.pending ∧
        TlrIs t { tl x t with blocked := .tdone } x u.blk ∧ Keeps [.tlr] [] x u.blk) ∧
      (∃ u, exec (.tabort c t pc) s = .next u ∧ u.pending = s.pending ∧
        TlrIs t { tl x t with blocked := .tabort } x u.blk ∧ Keeps [.tlr] [] x u.blk)) ∧
    (∃ u, exec (.mwait c t pc) s = .next u ∧ u.pending = s.pending ∧
      (if (tl x t).run.isSome ∨ (tl x t).pend.isSome then TlrIs t { tl x t with blocked := .mwait } x u.blk
       else TlrIs t (tl x t) x u.blk) ∧ Keeps [.tlr] [] x u.blk)

/-- TASK_GRANT, where fewer than eight grants have been made in the cycle and the first waiting TPULL finds a task posted in
an earlier cycle, takes, among the heads of its lists, the one of highest PRIO, the lowest list first among equals: the task
leaves its list and is current on the tiller, its eight words are in x8 to x15, CNT_GRANT of the list grows by one and
DSP_LAST names stage and list; where eight have been made, or no waiting TPULL finds such a task, nothing changes.
TASK_COMPLETE on a quiet tiller blocked in TDONE (TABORT) leaves it with no task and no block, counts in TLR_CNT_TASK
(TLR_CNT_ABORT), and leaves the task's invocation done with every flag of its outputs set; on a tiller that is not quiet it
changes nothing. DSP_CLR clears WAIT_MAX of a list, or sets its HWM to its depth, and nothing else. (From spec/09_tillers.md
R221, spec/09_tillers.md R222, spec/14_task_dispatch.md R333, spec/14_task_dispatch.md R339, spec/14_task_dispatch.md R341,
spec/14_task_dispatch.md R344.) -/
def Obligations.TasksAreGrantedAndEnd : Prop :=
  ∀ (c t k : Nat) (s : State) (x y : Block), x = s.asFound c → y = s.asWritten c → t < 36 → k < 64 →
    (∀ m i, x.now.grants < 8 → (pullOrder x).head? = some t → pullOf x t = some (m, i) →
      (∃ n, n < 64 ∧ nbit m n = true ∧ ((rlist x n).head?.any (fun p => decide (p.postC < x.pwr.ccy))) = true) →
      ∃ u n p l, exec (.taskGrant c) s = .next u ∧ u.pending = s.pending ∧ n < 64 ∧ nbit m n = true ∧
        rlist x n = p :: l ∧ rlist u.blk n = l ∧
        (∀ j q l', j < 64 → nbit m j = true → rlist x j = q :: l' → q.postC < x.pwr.ccy →
          q.prio ≤ p.prio ∧ (q.prio = p.prio → n ≤ j)) ∧
        (tl u.blk t).task = some p ∧ (∀ i, i < 8 → xReg (tl u.blk t) (8 + i) = wAt p.words i) ∧
        rg u.blk (Reg.DSP_RL_CNT_GRANT n) = rg x (Reg.DSP_RL_CNT_GRANT n) + 1#32 ∧
        rg u.blk (Reg.DSP_LAST t) = wd (p.stage % 4096 * 2 ^ 20 + n)) ∧
    ((8 ≤ x.now.grants ∨ ∀ v m i n p l, pullOf x v = some (m, i) → n < 64 → nbit m n = true → rlist x n = p :: l →
        x.pwr.ccy ≤ p.postC) →
      ∃ u, exec (.taskGrant c) s = .next u ∧ u.pending = s.pending ∧ Keeps [] [] x u.blk) ∧
    (fencedT x t = none → quiet (tl x t) = false →
      ∃ u, exec (.taskComplete c t) s = .next u ∧ u.pending = s.pending ∧ Keeps [] [] x u.blk) ∧
    (∀ p r, (tl x t).task = some p → quiet (tl x t) = true → fencedT x t = none →
      (((tl x t).blocked = .tdone ∧ r = Reg.TLR_CNT_TASK t) ∨ ((tl x t).blocked = .tabort ∧ r = Reg.TLR_CNT_ABORT t)) →
      ∃ u, exec (.taskComplete c t) s = .next u ∧ u.pending = s.pending ∧ (tl u.blk t).task = none ∧
        (tl u.blk t).blocked = .none ∧ (tl u.blk t).cache = [] ∧ rg u.blk r = rg x r + 1#32 ∧
        (∀ v, findInv x p.stage p.line = some v → v.done = false →
          (findInv u.blk p.stage p.line).map (·.done) = some true ∧
          ∀ o ∈ outEntries x (schedFor x p.stage p.line) p.stage p.line,
            flagsSet u.blk (o.1.flag0 o.2) o.1.count = true)) ∧
    (∃ u, exec (.dspClrWait c k) s = .next u ∧ u.pending = s.pending ∧ rg u.blk (Reg.DSP_RL_WAIT_MAX k) = 0#32 ∧
      Keeps [] [Reg.DSP_RL_WAIT_MAX k] y u.blk) ∧
    (∃ u, exec (.dspClrHwm c k) s = .next u ∧ u.pending = s.pending ∧
      (rg u.blk (Reg.DSP_RL_DEPTH k)).fld 24 16 = (rg y (Reg.DSP_RL_DEPTH k)).fld 8 0 ∧
      (rg u.blk (Reg.DSP_RL_DEPTH k)).fld 8 0 = (rg y (Reg.DSP_RL_DEPTH k)).fld 8 0 ∧
      Keeps [] [Reg.DSP_RL_DEPTH k] y u.blk)

/-- HDRMRG, its three addresses admitted and both headers read without error, writes 16 bytes at xd: word 0 and bits 17:12, 18
and 11:0 of word 1 of the first header, SUSPECT and MALFORMED set where either has them, CHAFF set where either has it; no
other byte changes. PATCH of a block whose records lie in the columns of a bound queue: to an open line, every record is
either among the kept ones of the line or counted as dropped there, and TLR_PQ_CNT_CAP grows by the number dropped; to a line
that is not open, nothing is kept and TLR_PQ_CNT_LATE grows by one. A block that no queue can take (an unbound queue, a record
outside its columns) faults PATCH_ARG. (That a queue's lines are all open before its first one has closed is the model's
choice, log entry 18; that GOLDEN comes from the first header, log entry 26; that a record outside the columns faults before the
line is judged, log entry 77.) (From spec/09_tillers.md R223, spec/09_tillers.md R227, spec/09_tillers.md R228, spec/09_tillers.md
R229, spec/09_tillers.md R231, spec/02_frame_graph_sequencer.md R54, spec/03_camera_ports.md R93.) -/
def Obligations.HeadersMergeAndPatchesQueue : Prop :=
  ∀ (c t pc xd xs1 xs2 : Nat) (er : List (Nat × EccStat)) (s : State) (x : Block), x = s.asFound c → CanIssue x t pc →
    (∀ p p1 p2 g h, coreAcc x t (xReg (tl x t) xs1).toNat 16 4 false = .ok p1 →
      coreAcc x t (xReg (tl x t) xs2).toNat 16 4 false = .ok p2 →
      coreAcc x t (xReg (tl x t) xd).toNat 16 4 true = .ok p → spErrs x t p1 16 er = [] →
      spErrs x t p2 16 er = [] → g = spWords x t p1 4 → h = spWords x t p2 4 →
      ∃ u m, exec (.hdrmrg c t pc xd xs1 ⟨xs2, er⟩) s = .next u ∧ u.pending = s.pending ∧
        Wrote (t * 2 ^ 21 + p) (wordBytes m) x.mems.spad u.blk.mems.spad ∧ m.length = 4 ∧
        wAt m 0 = wAt g 0 ∧ (wAt m 1).fld 18 0 = (wAt g 1).fld 18 0 ∧ hdrSuspect m = (hdrSuspect g || hdrSuspect h) ∧
        hdrMalformed m = (hdrMalformed g || hdrMalformed h) ∧ hdrChaff m = (hdrChaff g || hdrChaff h) ∧
        Keeps [.spad, .tlr] [] x u.blk) ∧
    (∀ p hdr w q np ws cols, coreAcc x t (xReg (tl x t) xd).toNat 20 4 false = .ok p →
      spErrs x t p (20 + 8 * np) er = [] → hdr = spWords x t p 4 →
      w = rdWord x.mems.spad (t * 2 ^ 21 + p + 16) → q = w.fld 27 24 → np = w.fld 9 0 →
      coreAcc x t (xReg (tl x t) xd).toNat (20 + 8 * np) 4 false = .ok p → ws = spWords x t (p + 20) (2 * np) →
      cols = (upFrom 0 np).all (fun i =>
        decide (pqCol0 x q / 256 ≤ (patchRec (wAt ws (2 * i)) (wAt ws (2 * i + 1))).scol / 256) &&
        decide ((patchRec (wAt ws (2 * i)) (wAt ws (2 * i + 1))).scol / 256 < pqCol0 x q / 256 + pqNcq x q)) →
      (((pqOf x q).bound && cols) = false →
        ∃ u, exec (.patch c t pc ⟨xd, er⟩) s = .next u ∧ u.pending = s.pending ∧ Faulted t 5 pc u.blk) ∧
      ((pqOf x q).bound = true → cols = true → pqLineOpen x q (hdrLine hdr) = false →
        ∃ u, exec (.patch c t pc ⟨xd, er⟩) s = .next u ∧ u.pending = s.pending ∧
          rg u.blk (Reg.TLR_PQ_CNT_LATE q) = rg x (Reg.TLR_PQ_CNT_LATE q) + 1#32 ∧
          Keeps [.raised] [Reg.TLR_PQ_CNT_LATE q] x u.blk) ∧
      (∀ l, (pqOf x q).bound = true → cols = true → pqLineOpen x q (hdrLine hdr) = true →
        l = ((pqOf x q).lines.find? (fun l => l.line = hdrLine hdr)).getD (PLine.fresh (hdrLine hdr)) → l.recs.Nodup →
        ∃ u, exec (.patch c t pc ⟨xd, er⟩) s = .next u ∧ u.pending = s.pending ∧
          (∃ l' ∈ (pqOf u.blk q).lines, l'.line = hdrLine hdr ∧ l'.recs.length + l'.drops = l.recs.length + l.drops + np ∧
            l.drops ≤ l'.drops ∧
            rg u.blk (Reg.TLR_PQ_CNT_CAP q) = rg x (Reg.TLR_PQ_CNT_CAP q) + wd (l'.drops - l.drops)) ∧
          Keeps [.pqs, .raised] [Reg.TLR_PQ_CNT_CAP q] x u.blk))

/-- MMA with the array's domain ON, descriptor and parameter block read without error: where a check of R210 fails the core
faults ARRAY_DESC; where all hold, a place is free and the scoreboard admits it, the operation runs, or is the pending one
while another runs; where no place is free, or the scoreboard does not admit it, the instruction is held at issue and nothing
else changes; where the operation that then runs takes its weights from the chain and a transfer of another tag waits before its
bytes, the tiller faults CHAIN_TAG. ARRAY_OP_COMPLETE of a running operation without chain, its operands powered and read without error and no
chained operation behind it, makes the pending one run and lets a core that waits for the array go on; with EPI = 0 every
accumulator element of its M rows and N columns holds the sum of its tiles, accumulator formats as R245 and R246 say, and
memory stands; where a word of its operands is uncorrectable the tiller faults ECC_UE. Of one that takes its weights from the
chain, it faults CHAIN_TAG where another tag comes before its bytes, and changes nothing while they have not all come. (Stream layout of a tile: the model's
choice, log entry 20.) (From spec/09_tillers.md R207, spec/09_tillers.md R208, spec/09_tillers.md R209, spec/09_tillers.md
R210, spec/09_tillers.md R226, spec/10_number_formats.md R245, spec/10_number_formats.md R246,
spec/11_scratchpad_and_granary.md R255, spec/11_scratchpad_and_granary.md R258.) -/
def Obligations.ArrayOperationsRunInOrder : Prop :=
  ∀ (c t pc xs : Nat) (er : List (Nat × EccStat)) (s : State) (x : Block), x = s.asFound c → t < 36 →
    (∀ p ws d, CanIssue x t pc → domSt x (arrayDom t) = 0 →
      coreAcc x t (xReg (tl x t) xs).toNat 16 4 false = .ok p → spErrs x t p 16 er = [] → ws = spWords x t p 4 →
      d = arrDesc ws →
      (arrDescOk (tl x t) d = false → ∃ u, exec (.mma c t pc ⟨xs, er⟩) s = .next u ∧ u.pending = s.pending ∧
        Faulted t 4 pc u.blk) ∧
      (∀ ep op, arrDescOk (tl x t) d = true →
        ((d.epi = 0 ∧ ep = 0) ∨ (d.epi ≠ 0 ∧ coreAcc x t d.epar (8 + 8 * d.n) 4 false = .ok ep ∧
          spErrs x t ep 8 er = [] ∧
          loHiOk d (rdWord x.mems.spad (t * 2 ^ 21 + ep)) (rdWord x.mems.spad (t * 2 ^ 21 + ep + 4)) = true)) →
        op = ⟨(tl x t).opId, ws, [slotOf (tl x t) d.astrm, slotOf (tl x t) d.wstrm, slotOf (tl x t) d.ostrm,
          slotOf (tl x t) d.xstrm], ep⟩ →
        (((tl x t).run = none ∨ (tl x t).pend = none) → (sbAdd x t (arrEntries d op)).isSome = true →
          chainTagBad { tl x t with run := some ((tl x t).run.getD op) } = true →
          ∃ u, exec (.mma c t pc ⟨xs, er⟩) s = .next u ∧ u.pending = s.pending ∧ Faulted t 7 pc u.blk) ∧
        (((tl x t).run = none ∨ (tl x t).pend = none) → (sbAdd x t (arrEntries d op)).isSome = true →
          chainTagBad { tl x t with run := some ((tl x t).run.getD op) } = false →
          ∃ u y, exec (.mma c t pc ⟨xs, er⟩) s = .next u ∧ u.pending = s.pending ∧ TlrIs t y x u.blk ∧
            ((tl x t).run = none → y.run = some op ∧ y.pend = (tl x t).pend) ∧
            ((tl x t).run ≠ none → y.run = (tl x t).run ∧ y.pend = some op) ∧
            y.sb = (tl x t).sb ++ arrEntries d op ∧ Keeps [.tlr] [] x u.blk) ∧
        (((tl x t).run ≠ none ∧ (tl x t).pend ≠ none ∨ sbAdd x t (arrEntries d op) = none) →
          ∃ u why, exec (.mma c t pc ⟨xs, er⟩) s = .next u ∧ u.pending = s.pending ∧
            HeldAt t (.mma c t pc ⟨xs, er⟩) why x u.blk))) ∧
    (∀ op d, (tl x t).run = some op → d = arrDesc op.words → d.chain = false → arrBankOff x t op d = false →
      (spErrsIn x t (arrSpans x t op d) er = [] →
        (∀ op', (tl x t).pend = some op' → (arrDesc op'.words).chain = false) →
        ∃ u, exec (.arrayOpComplete c ⟨t, er⟩) s = .next u ∧ u.pending = s.pending ∧ (tl u.blk t).run = (tl x t).pend ∧
          (tl u.blk t).pend = none ∧ (∀ v, v ≠ t → tl u.blk v = tl x v) ∧
          Keeps [.tlr, .spad, .raised] [Reg.STRM_CNT_IDX_OOR t, Reg.STRM_CNT_SCAT_DUP t, Reg.TLR_CNT_ECC_CE t,
            Reg.TLR_CNT_ECC_UE t, Reg.TLR_ECC_LAST t] x u.blk ∧
          ((tl x t).blocked = .mwait → (tl x t).pend = none → (tl u.blk t).blocked = .none) ∧
          (d.epi = 0 → d.n ≤ arrNT d.afmt →
            u.blk.mems.spad = x.mems.spad ∧ ∀ m n, m < d.m → n < d.n →
              accAt (tl u.blk t) m n = outAcc d (arrSrc x t op d []) (accAt (tl x t)) 0 m n)) ∧
      ((∃ e ∈ spErrsIn x t (arrSpans x t op d) er, e.2 = .uncorrectable) →
        ∃ u, exec (.arrayOpComplete c ⟨t, er⟩) s = .next u ∧ u.pending = s.pending ∧ Faulted t 6 0 u.blk)) ∧
    (∀ op d, (tl x t).run = some op → d = arrDesc op.words → d.chain = true →
      ((chainFront d.ctag (arrWBytes d) (tl x t).chainIn).2 = true →
        ∃ u, exec (.arrayOpComplete c ⟨t, er⟩) s = .next u ∧ u.pending = s.pending ∧ Faulted t 7 0 u.blk) ∧
      ((chainFront d.ctag (arrWBytes d) (tl x t).chainIn).2 = false →
        (chainFront d.ctag (arrWBytes d) (tl x t).chainIn).1.length < arrWBytes d → (tl x t).blocked ≠ .mwait →
        ∃ u, exec (.arrayOpComplete c ⟨t, er⟩) s = .next u ∧ u.pending = s.pending ∧ Keeps [] [] x u.blk)) ∧
    ((tl x t).run = none → (tl x t).blocked ≠ .mwait →
      ∃ u, exec (.arrayOpComplete c ⟨t, er⟩) s = .next u ∧ u.pending = s.pending ∧ Keeps [] [] x u.blk)

/-- WCHAIN with argument words slot, length, member count and tag (this layout is the model's choice, log entry 23), read
without error, for an armed local read stream without a gather that holds so many bytes, whose range is powered and in no
conflict on the scoreboard and whose words are sound: with a length that is a multiple of 64, 1 to 31 members, and no transfer
still leaving this head, a transfer of that many bytes to the members that follow in ring order begins; nothing else changes.
With another length or member count it faults ILLEGAL; while an earlier transfer has not left this head it is held.
WCHAIN_COMPLETE at the member that a transfer which has left its head names: the member has the transfer's bytes under its tag
after those it had, and the transfer names it no more; the tiller faults CHAIN_TAG where an operation runs for which another
tag now waits; where no such transfer is, nothing changes. (From spec/09_tillers.md
R204, spec/09_tillers.md R225, spec/09_tillers.md R226.) -/
def Obligations.ChainTransfersReachTheirMembers : Prop :=
  ∀ (c t pc xs : Nat) (er : List (Nat × EccStat)) (s : State) (x : Block), x = s.asFound c →
    (∀ p ws v, CanIssue x t pc → coreAcc x t (xReg (tl x t) xs).toNat 16 4 false = .ok p → spErrs x t p 16 er = [] →
      ws = spWords x t p 4 → (wAt ws 0).toNat < 64 → v = slotOf (tl x t) (wAt ws 0).toNat → v.state = .armed →
      dKind v.desc = 0 → (wAt ws 1).toNat * 8 ≤ elemCount v.desc * eBits v.desc →
      (((wAt ws 1).toNat % 64 ≠ 0 ∨ (wAt ws 2).toNat < 1 ∨ 31 < (wAt ws 2).toNat) →
        ∃ u, exec (.wchain c t pc ⟨xs, er⟩) s = .next u ∧ u.pending = s.pending ∧ Faulted t 1 pc u.blk) ∧
      (∀ lo hi, (wAt ws 1).toNat % 64 = 0 → 1 ≤ (wAt ws 2).toNat → (wAt ws 2).toNat ≤ 31 →
        (∀ ch ∈ x.chains, ch.head = slotOfT x t → ch.len ≤ ch.bytes.length) → gDim v.desc false = none →
        spadRange v.desc v.awin v.cwin false = some (lo, hi) → rangeOn x t lo hi = true →
        sbHit (tl x t).sb none lo hi false = false → spErrs x t 0 (2 ^ 21) er = [] →
        ∃ u ch, exec (.wchain c t pc ⟨xs, er⟩) s = .next u ∧ u.pending = s.pending ∧ u.blk.chains = x.chains ++ [ch] ∧
          ch.head = slotOfT x t ∧ ch.len = (wAt ws 1).toNat ∧ ch.bytes.length = ch.len ∧
          ch.tag = (wAt ws 3).toNat % 256 ∧
          (∀ i, i < ch.len → ch.bytes[i]? = some (BitVec.ofNat 8 (localField x t v 8 (fun _ => 0#32) i))) ∧
          ch.members = (upFrom 1 (wAt ws 2).toNat).map (fun i => (slotOfT x t + i) % 32) ∧ Keeps [.chains] [] x u.blk) ∧
      (∀ ch ∈ x.chains, (wAt ws 1).toNat % 64 = 0 → 1 ≤ (wAt ws 2).toNat → (wAt ws 2).toNat ≤ 31 →
        ch.head = slotOfT x t → ch.bytes.length < ch.len →
        ∃ u, exec (.wchain c t pc ⟨xs, er⟩) s = .next u ∧ u.pending = s.pending ∧
          HeldAt t (.wchain c t pc ⟨xs, er⟩) .busy x u.blk)) ∧
    (∀ ch, chainFor x (slotOfT x t) = some ch →
      chainTagBad { tl x t with chainIn := (tl x t).chainIn ++ [⟨ch.tag, ch.bytes.take ch.len⟩] } = true →
      ∃ u, exec (.wchainComplete c t) s = .next u ∧ u.pending = s.pending ∧ Faulted t 7 0 u.blk) ∧
    (∀ ch, chainFor x (slotOfT x t) = some ch →
      chainTagBad { tl x t with chainIn := (tl x t).chainIn ++ [⟨ch.tag, ch.bytes.take ch.len⟩] } = false →
      ∃ u, exec (.wchainComplete c t) s = .next u ∧ u.pending = s.pending ∧
        TlrIs t { tl x t with chainIn := (tl x t).chainIn ++ [⟨ch.tag, ch.bytes.take ch.len⟩] } x u.blk ∧
        ch ∉ u.blk.chains ∧ (∀ e ∈ x.chains, e ≠ ch → e.members ≠ [] → e ∈ u.blk.chains) ∧
        Keeps [.chains, .tlr] [] x u.blk) ∧
    (chainFor x (slotOfT x t) = none →
      ∃ u, exec (.wchainComplete c t) s = .next u ∧ u.pending = s.pending ∧ Keeps [] [] x u.blk)

/-- A bundle that R212 admits on a vector unit that is ON (its memory access, if any, admitted, and a load's words sound; with
an empty array where it reads the accumulator): every lane that an instruction writes holds the value computed from the
registers as they stood before the bundle, every other lane of every register stands, a VLD brings the words of memory into
its enabled lanes, a VST stores its enabled lanes and no other byte, and TLR_CNT_VEC grows by one. One that R212 does not
admit faults ILLEGAL, and one that reads the accumulator of an array at work is held. TRW adds a row of 32 elements to the
buffer being filled, TRR returns the next column of the full buffer in lanes 0 to 31 and zeros above; TRW with that buffer
full and TRR without a full one are held. (That a reduction is written to every enabled lane is the model's choice, log entry
19; which comparisons VCMP offers, log entry 80; a result that the spec does not state is free, log entry 3.) (From spec/09_tillers.md R212, spec/09_tillers.md R213, spec/09_tillers.md R215, spec/09_tillers.md R217.) -/
def Obligations.VectorBundlesReadThenWrite : Prop :=
  ∀ (c t pc : Nat) (er : List (Nat × EccStat)) (s : State) (x : Block), x = s.asFound c → CanIssue x t pc →
    domSt x (vectorDom t) = 0 →
    (∀ l, bundleOk l = false →
      ∃ u, exec (.vectorBundle c t pc ⟨l, er⟩) s = .next u ∧ u.pending = s.pending ∧ Faulted t 1 pc u.blk) ∧
    (∀ l, bundleOk l = true → usesAcc l = true → ((tl x t).run ≠ none ∨ (tl x t).pend ≠ none) →
      ∃ u, exec (.vectorBundle c t pc ⟨l, er⟩) s = .next u ∧ u.pending = s.pending ∧
        HeldAt t (.vectorBundle c t pc ⟨l, er⟩) .busy x u.blk) ∧
    (∀ l p, bundleOk l = true → (usesAcc l = true → (tl x t).run = none ∧ (tl x t).pend = none) →
      (∀ st a, memOf l = some (st, a) → coreAcc x t (xReg (tl x t) a).toNat 256 64 st = .ok p ∧
        (st = true ∨ spErrs x t p 256 er = [])) →
      ∃ u, exec (.vectorBundle c t pc ⟨l, er⟩) s = .next u ∧ u.pending = s.pending ∧
        (∀ i d e, i ∈ l → vDest i = some d → e ∈ vResult (tl x t) i →
          vLane (tl u.blk t) d e.1 = e.2) ∧
        (∀ d a n, VInsn.ld d a ∈ l → n < 64 → vLane (tl u.blk t) d n =
          if vOn (tl x t) n then rdWord x.mems.spad (t * 2 ^ 21 + p + 4 * n) else vLane (tl x t) d n) ∧
        (∀ r n, n < 64 → (∀ i d, i ∈ l → vDest i = some d → d % 32 = r % 32 → (∀ a, i ≠ .ld d a) ∧
            ∀ e ∈ vResult (tl x t) i, e.1 ≠ n) →
          vLane (tl u.blk t) r n = vLane (tl x t) r n) ∧
        (∀ r a n, VInsn.st r a ∈ l → n < 64 → vOn (tl x t) n = true →
          rdWord u.blk.mems.spad (t * 2 ^ 21 + p + 4 * n) = vLane (tl x t) r n) ∧
        (∀ j, (∀ r a n, VInsn.st r a ∈ l → n < 64 → vOn (tl x t) n = true →
            j < t * 2 ^ 21 + p + 4 * n ∨ t * 2 ^ 21 + p + 4 * n + 4 ≤ j) →
          rdByte u.blk.mems.spad j = rdByte x.mems.spad j) ∧
        (tl u.blk t).x = (tl x t).x ∧ (tl u.blk t).acc = (tl x t).acc ∧
        rg u.blk (Reg.TLR_CNT_VEC t) = rg x (Reg.TLR_CNT_VEC t) + 1#32 ∧
        (∀ j, j ≠ t → tl u.blk j = tl x j) ∧ Keeps [.spad, .tlr] [Reg.TLR_CNT_VEC t] x u.blk) ∧
    (∀ r w high, (fillBuf (tl x t)).full = false → (fillBuf (tl x t)).rows < 32 → (tl x t).fillIdx < 2 →
      ∃ u f, exec (.trw c t pc r w high) s = .next u ∧ u.pending = s.pending ∧
        f = bufAt (tl u.blk t) (tl x t).fillIdx ∧ f.rows = (fillBuf (tl x t)).rows + 1 ∧
        (∀ n, n < 32 → tabW f.elems ((fillBuf (tl x t)).rows * 32 + n) =
          wd ((vLane (tl x t) r ((if high then 32 else 0) + n)).toNat % 2 ^ f.width)) ∧
        ((fillBuf (tl x t)).rows = 0 → f.width = trWidth w) ∧ (f.full = true ↔ f.rows = 32) ∧ Keeps [.tlr] [] x u.blk) ∧
    (∀ r w high, (fillBuf (tl x t)).full = true → ∃ u, exec (.trw c t pc r w high) s = .next u ∧ u.pending = s.pending ∧
      HeldAt t (.trw c t pc r w high) .busy x u.blk) ∧
    (∀ r w, readIdx (tl x t) = none → ∃ u, exec (.trr c t pc r w) s = .next u ∧ u.pending = s.pending ∧
      HeldAt t (.trr c t pc r w) .busy x u.blk) ∧
    (∀ r w i, readIdx (tl x t) = some i →
      ∃ u, exec (.trr c t pc r w) s = .next u ∧ u.pending = s.pending ∧
        (∀ n, n < 64 → vLane (tl u.blk t) r n =
          if n < 32 then tabW (bufAt (tl x t) i).elems (n * 32 + (bufAt (tl x t) i).cols) else 0#32) ∧
        (∀ r' n, n < 64 → r' % 32 ≠ r % 32 → vLane (tl u.blk t) r' n = vLane (tl x t) r' n) ∧ Keeps [.tlr] [] x u.blk)

/-! ## Scratchpads, cells and ripe flags (spec/11, spec/13) -/

/-- A load of 1, 2 or 4 bytes in the core class whose checks pass, of words that are sound or were corrected, writes the
bytes, extended as the load says, to its register and nothing to memory; of an uncorrectable word it faults ECC_UE. A store
writes the low bytes of its source and no other byte. An access that fails a check faults with its cause, and one that
conflicts with the scoreboard is held at issue. Above 0x8000_0000 a load whose line the cache holds takes the bytes from the
line, or faults ECC_UE where a word of the cache's banks returns uncorrectable, and a store that the context's window admits writes GDDR6 and no other byte of it. (The model's choices: bound before
alignment, log entry 16; the window holds for a store, and which words a line stands in, log entry 24.) (From spec/11_scratchpad_and_granary.md R254,
spec/11_scratchpad_and_granary.md R255, spec/11_scratchpad_and_granary.md R256, spec/11_scratchpad_and_granary.md R258,
spec/11_scratchpad_and_granary.md R261, spec/11_scratchpad_and_granary.md R264, spec/21_gddr6_memory.md R486.) -/
def Obligations.CoreLoadsAndStores : Prop :=
  ∀ (c t pc : Nat) (er : List (Nat × EccStat)) (s : State) (x : Block), x = s.asFound c → CanIssue x t pc →
    (∀ size sg xd xa disp a, (size = 1 ∨ size = 2 ∨ size = 4) → a = memAddr (tl x t) xa disp →
      (∀ p, a < 2 ^ 31 → coreAcc x t a size (if size = 4 then 4 else 1) false = .ok p →
        ((∀ e ∈ spErrs x t p size er, e.2 = .corrected) →
          ∃ u, exec (.coreLoadStore c t pc (.load size sg xd xa disp) er) s = .next u ∧ u.pending = s.pending ∧
            xReg (tl u.blk t) xd = loadVal size sg (spRd x t p size) ∧
            (∀ r, r % 32 ≠ xd % 32 → xReg (tl u.blk t) r = xReg (tl x t) r) ∧ u.blk.mems = x.mems ∧
            Keeps [.tlr, .raised] [Reg.TLR_CNT_ECC_CE t, Reg.TLR_ECC_LAST t] x u.blk) ∧
        ((∃ e ∈ spErrs x t p size er, e.2 = .uncorrectable) →
          ∃ u, exec (.coreLoadStore c t pc (.load size sg xd xa disp) er) s = .next u ∧ u.pending = s.pending ∧
            Faulted t 6 pc u.blk)) ∧
      (∀ k, a < 2 ^ 31 → coreAcc x t a size (if size = 4 then 4 else 1) false = .fault k →
        ∃ u, exec (.coreLoadStore c t pc (.load size sg xd xa disp) er) s = .next u ∧ u.pending = s.pending ∧
          Faulted t k pc u.blk) ∧
      (a < 2 ^ 31 → coreAcc x t a size (if size = 4 then 4 else 1) false = .stall →
        ∃ u, exec (.coreLoadStore c t pc (.load size sg xd xa disp) er) s = .next u ∧ u.pending = s.pending ∧
          HeldAt t (.coreLoadStore c t pc (.load size sg xd xa disp) er) .conflict x u.blk) ∧
      (∀ l g, 2 ^ 31 ≤ a → (size = 4 → a % 4 = 0) → cacheOpen x t = .ok 0 → g = cacheAddr x t a →
        g % 128 + size ≤ 128 → cacheFind (tl x t) g = some l →
        ((∀ e ∈ er, 2 ^ 20 ≤ e.1 → e.1 < 2 ^ 20 + (tl x t).cacheSz * 0x40000 → e.2 = .corrected) →
          ∃ u, exec (.coreLoadStore c t pc (.load size sg xd xa disp) er) s = .next u ∧ u.pending = s.pending ∧
            xReg (tl u.blk t) xd = loadVal size sg ((l.data.drop (g % 128)).take size) ∧
            Keeps [.tlr, .raised] [Reg.TLR_CNT_ECC_CE t, Reg.TLR_ECC_LAST t] x u.blk) ∧
        ((∃ e ∈ er, 2 ^ 20 ≤ e.1 ∧ e.1 < 2 ^ 20 + (tl x t).cacheSz * 0x40000 ∧ e.2 = .uncorrectable) →
          ∃ u, exec (.coreLoadStore c t pc (.load size sg xd xa disp) er) s = .next u ∧ u.pending = s.pending ∧
            Faulted t 6 pc u.blk))) ∧
    (∀ size xs xa disp a l, (size = 1 ∨ size = 2 ∨ size = 4) → a = memAddr (tl x t) xa disp →
      l = leBytes size (xReg (tl x t) xs).toNat →
      (∀ p, a < 2 ^ 31 → coreAcc x t a size (if size = 4 then 4 else 1) true = .ok p →
        ∃ u, exec (.coreLoadStore c t pc (.store size xs xa disp) er) s = .next u ∧ u.pending = s.pending ∧
          Wrote (t * 2 ^ 21 + p) l x.mems.spad u.blk.mems.spad ∧ (tl u.blk t).x = (tl x t).x ∧
          Keeps [.spad, .tlr, .raised] [Reg.TLR_CNT_ECC_CE t, Reg.TLR_CNT_ECC_UE t, Reg.TLR_ECC_LAST t] x u.blk) ∧
      (∀ k, a < 2 ^ 31 → coreAcc x t a size (if size = 4 then 4 else 1) true = .fault k →
        ∃ u, exec (.coreLoadStore c t pc (.store size xs xa disp) er) s = .next u ∧ u.pending = s.pending ∧
          Faulted t k pc u.blk) ∧
      (∀ g k, 2 ^ 31 ≤ a → (size = 4 → a % 4 = 0) → cacheOpen x t = .ok 0 → curCtx x t = some k → g = cacheAddr x t a →
        inCtxWin x k g size = true → refillOk x k g size = true →
        ∃ u, exec (.coreLoadStore c t pc (.store size xs xa disp) er) s = .next u ∧ u.pending = s.pending ∧
          Wrote g l x.mems.gddr u.blk.mems.gddr ∧ (tl u.blk t).x = (tl x t).x ∧
          Keeps [.gddr, .mem, .tlr] [] x u.blk))

/-- MFILL and MCOPY with word-aligned operands inside the windows, of 4 bytes to 2 MiB, with the engine free and the
scoreboard admitting them, give the engine their operation with its scoreboard entries; with the engine at work, or a
scoreboard that does not admit them, they are held at issue. FILL_COPY_COMPLETE, the source read without error, writes the
constant, or the source bytes as they stood, to every byte of the destination whose bank group is powered and no other byte,
and frees the engine; a source byte of a group that is not powered is copied as 0 (the model's choice, log entry 24); without
an operation it changes nothing. CACHE_RESIZE of a tiller without task whose cache size in force differs (0 to 4 units of 256 KiB): the cache is
empty, has the new size and is resizing, every byte of the core class that enters or leaves the cache range reads 0 and every
other byte stands; with a task, or no other size, it changes nothing. CACHE_RESIZE_DONE ends the resizing. (From
spec/11_scratchpad_and_granary.md R257, spec/11_scratchpad_and_granary.md R258, spec/11_scratchpad_and_granary.md R263,
spec/11_scratchpad_and_granary.md R265, spec/22_power_clocks_reset.md R510.) -/
def Obligations.FillsCopiesAndCacheSize : Prop :=
  ∀ (c t pc : Nat) (er : List (Nat × EccStat)) (s : State) (x : Block), x = s.asFound c →
    (∀ r1 r2 r3 d n w es dp, CanIssue x t pc → d = (xReg (tl x t) r1).toNat → n = (xReg (tl x t) r2).toNat →
      w = xReg (tl x t) r3 → d % 4 = 0 → n % 4 = 0 → 0 < n → n ≤ 2 ^ 21 →
      taskAddr (curAwin x t) (curCwin x t) d n = some dp →
      (es = [sbEntry dp (dp + n - 1) true .fill] →
        ((tl x t).fc = none → (sbAdd x t es).isSome = true →
          ∃ u, exec (.mfill c t pc r1 r2 r3) s = .next u ∧ u.pending = s.pending ∧
            TlrIs t { tl x t with sb := (tl x t).sb ++ es, fc := some ⟨dp, n, none, w⟩ } x u.blk ∧
            Keeps [.tlr] [] x u.blk) ∧
        (((tl x t).fc ≠ none ∨ sbAdd x t es = none) →
          ∃ u why, exec (.mfill c t pc r1 r2 r3) s = .next u ∧ u.pending = s.pending ∧
            HeldAt t (.mfill c t pc r1 r2 r3) why x u.blk)) ∧
      (∀ sp, w.toNat % 4 = 0 → taskAddr (curAwin x t) (curCwin x t) w.toNat n = some sp →
        es = [sbEntry sp (sp + n - 1) false .fill, sbEntry dp (dp + n - 1) true .fill] →
        ((tl x t).fc = none → (sbAdd x t es).isSome = true →
          ∃ u, exec (.mcopy c t pc r1 r2 r3) s = .next u ∧ u.pending = s.pending ∧
            TlrIs t { tl x t with sb := (tl x t).sb ++ es, fc := some ⟨dp, n, some sp, 0#32⟩ } x u.blk ∧
            Keeps [.tlr] [] x u.blk) ∧
        (((tl x t).fc ≠ none ∨ sbAdd x t es = none) →
          ∃ u why, exec (.mcopy c t pc r1 r2 r3) s = .next u ∧ u.pending = s.pending ∧
            HeldAt t (.mcopy c t pc r1 r2 r3) why x u.blk))) ∧
    (∀ f, (tl x t).fc = some f → f.dst % 4 = 0 → f.len % 4 = 0 → 0 < f.len → f.dst + f.len ≤ 2 ^ 21 →
      (∀ sp, f.src = some sp → sp % 4 = 0 ∧ sp + f.len ≤ 2 ^ 21 ∧ spErrs x t sp f.len er = []) →
      ∃ u, exec (.fillCopyComplete c ⟨t, er⟩) s = .next u ∧ u.pending = s.pending ∧
        (∀ i, i < f.len → rdByte u.blk.mems.spad (t * 2 ^ 21 + f.dst + i) =
          if rangeOn x t (f.dst + i) (f.dst + i) = false then rdByte x.mems.spad (t * 2 ^ 21 + f.dst + i)
          else match f.src with
            | none => (leBytes 4 f.word.toNat).getD (i % 4) 0#8
            | some sp => if rangeOn x t (sp + i) (sp + i) = true then rdByte x.mems.spad (t * 2 ^ 21 + sp + i) else 0#8) ∧
        (∀ j, (j < t * 2 ^ 21 + f.dst ∨ t * 2 ^ 21 + f.dst + f.len ≤ j) → rdByte u.blk.mems.spad j = rdByte x.mems.spad j) ∧
        (tl u.blk t).fc = none ∧ (tl u.blk t).sb = (tl x t).sb.filter (fun e => e.owner ≠ .fill) ∧
        (∀ v, v ≠ t → tl u.blk v = tl x v) ∧ Keeps [.spad, .tlr, .raised] [] x u.blk) ∧
    ((tl x t).fc = none →
      ∃ u, exec (.fillCopyComplete c ⟨t, er⟩) s = .next u ∧ u.pending = s.pending ∧ Keeps [] [] x u.blk) ∧
    (∀ n, n = min 4 ((frc x (Reg.TLR_SPAD_CFG t)).fld 2 0) →
      ((tl x t).task = none → (tl x t).cacheSz ≠ n →
        ∃ u, exec (.cacheResize c t) s = .next u ∧ u.pending = s.pending ∧ (tl u.blk t).cacheSz = n ∧
          (tl u.blk t).cache = [] ∧ (tl u.blk t).resizing = true ∧
          (∀ j, rdByte u.blk.mems.spad j =
            if t * 2 ^ 21 + 2 ^ 20 + min (tl x t).cacheSz n * 0x40000 ≤ j ∧
              j < t * 2 ^ 21 + 2 ^ 20 + max (tl x t).cacheSz n * 0x40000 then 0#8 else rdByte x.mems.spad j) ∧
          Keeps [.spad, .tlr] [] x u.blk) ∧
      (((tl x t).task.isSome = true ∨ (tl x t).cacheSz = n) →
        ∃ u, exec (.cacheResize c t) s = .next u ∧ u.pending = s.pending ∧ Keeps [] [] x u.blk)) ∧
    (∃ u, exec (.cacheResizeDone c t) s = .next u ∧ u.pending = s.pending ∧
      TlrIs t { tl x t with resizing := false } x u.blk ∧ Keeps [.tlr] [] x u.blk)

/-- SCRUB_WRITE takes its word off the scrub queue of the tiller, or of the Granary, and changes nothing else. A glume write
that its window admits writes its bytes at the window's place in the mapped tiller's scratchpad and no other byte. A glume
read that its window admits, of sound words, sends the bytes back to the requesting device, whose tiller and slot it names. A
write or read that the window turns away writes no memory and counts in TLR_CNT_GLUME_REJ, and the requesting slot is told
with cause 4. (From spec/11_scratchpad_and_granary.md R255, spec/11_scratchpad_and_granary.md R267,
spec/11_scratchpad_and_granary.md R273, spec/17_multi_device.md R405.) -/
def Obligations.ScrubsAndGlumeRequests : Prop :=
  ∀ (c t a : Nat) (er : List (Nat × EccStat)) (s : State) (x : Block), x = s.asFound c →
    (t ≠ 36 → ∃ u, exec (.scrubWrite c t a) s = .next u ∧ u.pending = s.pending ∧
      TlrIs t { tl x t with scrub := (tl x t).scrub.filter (· ≠ a / 4) } x u.blk ∧ Keeps [.tlr] [] x u.blk) ∧
    (∃ u, exec (.scrubWrite c 36 a) s = .next u ∧ u.pending = s.pending ∧
      u.blk.mem = { x.mem with grScrub := x.mem.grScrub.filter (· ≠ a / 8) } ∧ Keeps [.mem] [] x u.blk) ∧
    (∀ p slot win off bytes ctx rs sm q, p.body = .glumeWr slot win off bytes ctx [] rs sm → bytes ≠ [] →
      physOf x 0 slot = some q →
      (∀ b, b = (frc x (Reg.TLR_GLUME_BASE q win)).fld 20 6 * 64 + off → glumeOk x q win off bytes.length true p.src = true →
        rangeOn x q b (b + bytes.length - 1) = true →
        ∃ u, exec (.glumeRequest c ⟨p, er⟩) s = .next u ∧ u.pending = s.pending ∧
          Wrote (q * 2 ^ 21 + b) bytes x.mems.spad u.blk.mems.spad ∧
          Keeps [.spad, .tlr, .raised] [Reg.TLR_CNT_ECC_CE q, Reg.TLR_CNT_ECC_UE q, Reg.TLR_ECC_LAST q] x u.blk) ∧
      (∀ l alt, glumeOk x q win off bytes.length true p.src = false → outLink x p.src = some (l, alt) →
        ∃ u k, exec (.glumeRequest c ⟨p, er⟩) s = .next u ∧ u.pending = s.pending ∧ u.blk.mems = x.mems ∧
          rg u.blk (Reg.TLR_CNT_GLUME_REJ q) = rg x (Reg.TLR_CNT_GLUME_REJ q) + 1#32 ∧
          spGet (fun _ => []) u.blk.links.replay l = spGet (fun _ => []) x.links.replay l ++ [k] ∧ k.dst = p.src ∧
          k.body = .glumeRej rs sm 4)) ∧
    (∀ p slot win off len ctx rs sm q b l alt, p.body = .glumeRd slot win off len ctx rs sm → physOf x 0 slot = some q →
      b = (frc x (Reg.TLR_GLUME_BASE q win)).fld 20 6 * 64 + off → outLink x p.src = some (l, alt) →
      (glumeOk x q win off len false p.src = true → rangeOn x q b (b + len - 1) = true → spErrs x q b len er = [] →
        ∃ u k, exec (.glumeRequest c ⟨p, er⟩) s = .next u ∧ u.pending = s.pending ∧
          spGet (fun _ => []) u.blk.links.replay l = spGet (fun _ => []) x.links.replay l ++ [k] ∧ k.dst = p.src ∧
          k.body = .glumeData rs sm (spRd x q b len) ∧
          Keeps [.links] [Reg.LNK_L_CNT_PKT l, Reg.LNK_L_CNT_REROUTE l] x u.blk) ∧
      (glumeOk x q win off len false p.src = false →
        ∃ u k, exec (.glumeRequest c ⟨p, er⟩) s = .next u ∧ u.pending = s.pending ∧ u.blk.mems = x.mems ∧
          rg u.blk (Reg.TLR_CNT_GLUME_REJ q) = rg x (Reg.TLR_CNT_GLUME_REJ q) + 1#32 ∧
          spGet (fun _ => []) u.blk.links.replay l = spGet (fun _ => []) x.links.replay l ++ [k] ∧ k.dst = p.src ∧
          k.body = .glumeRej rs sm 4))

/-- Where the core can issue, has a current task, and its virtual cell translates to a cell of this device with the permission
each needs: SSIG of an increment other than 0 and SCONS of 1 to 1 024 send their operation to the cell with result 0 (0 sends
nothing; another amount of SCONS gives 3); SWAIT and SBAR leave the core waiting on the cell until the end of the cycle, SBAR
with an arrival sent; SREAD returns VAL, AUX, or STATE and KIND. A signal to a cell of another device goes to it in a packet.
A refused translation gives status 1 (no entry) or 2 (no permission), for each of them, and counts in SYNC_CNT_PERM. Without a
current task each is ILLEGAL. At the end of a cycle a wait whose condition holds or can not hold ends at once where it was
issued in that cycle, and else wakes its waiter; WAIT_RELEASE of a woken waiter writes its status to the result register and
unblocks it, and of one not woken changes nothing. (That SREAD of a cell that is not LIVE returns what it holds is the model's
choice, log entry 25.) (From spec/13_synchronisation.md R312, spec/13_synchronisation.md R313,
spec/13_synchronisation.md R314, spec/13_synchronisation.md R315, spec/13_synchronisation.md R317, spec/13_synchronisation.md
R321, spec/13_synchronisation.md R322.) -/
def Obligations.SyncInstructionsFollowTheTranslation : Prop :=
  ∀ (c t pc xd xv xs : Nat) (s : State) (x : Block), x = s.asFound c →
    (∀ (k : Posted) (e : Word) (n id : Nat), CanIssue x t pc → (tl x t).task = some k →
      e = vtEntry x k.ctx ((xReg (tl x t) xv).fld 9 0) → n = e.fld 11 0 → id = slotOfT x t →
      (e.bit 31 = true → e.bit 30 = false →
        (e.bit 20 = true → ∃ u, exec (.ssig c t pc xd xv xs) s = .next u ∧ u.pending = s.pending ∧
          TlrIs t ((tl x t).wrX xd 0#32) x u.blk ∧
          Sent (if xReg (tl x t) xs = 0#32 then [] else [⟨5, id, 0, 2, id, n, .signal (xReg (tl x t) xs).s32⟩]) x u.blk ∧
          Keeps [.tlr, .ops] [] x u.blk) ∧
        (∀ v, e.bit 19 = true → v = (xReg (tl x t) xs).toNat →
          (1 ≤ v → v ≤ 1024 → ∃ u, exec (.scons c t pc xd xv xs) s = .next u ∧ u.pending = s.pending ∧
            TlrIs t ((tl x t).wrX xd 0#32) x u.blk ∧ Sent [⟨5, id, 0, 2, id, n, .advance v⟩] x u.blk ∧
            Keeps [.tlr, .ops] [] x u.blk) ∧
          ((v < 1 ∨ 1024 < v) → ∃ u, exec (.scons c t pc xd xv xs) s = .next u ∧ u.pending = s.pending ∧
            TlrIs t ((tl x t).wrX xd 3#32) x u.blk ∧
            rg u.blk Reg.SYNC_CNT_KIND = rg x Reg.SYNC_CNT_KIND + 1#32 ∧
            Keeps [.tlr, .raised] [Reg.SYNC_CNT_KIND, Reg.SYNC_STATUS, Reg.SYNC_LAST_FAULT] x u.blk)) ∧
        (∀ mode, e.bit 18 = true → mode < 3 → ∃ u, exec (.swait c t pc xd xv xs mode) s = .next u ∧
          u.pending = s.pending ∧ u.blk.now.waits = x.now.waits ++ [t] ∧
          TlrIs t { tl x t with blocked := .swait n mode (xReg (tl x t) xs).toNat xd, woken := none } x u.blk ∧
          Keeps [.tlr, .waits] [] x u.blk) ∧
        (e.bit 20 = true → ∃ u, exec (.sbar c t pc xd xv) s = .next u ∧ u.pending = s.pending ∧
          u.blk.now.waits = x.now.waits ++ [t] ∧ Sent [⟨5, id, 0, 2, id, n, .arrive t⟩] x u.blk ∧
          TlrIs t { tl x t with blocked := .swait n 0 0 xd, woken := none } x u.blk ∧
          Keeps [.tlr, .waits, .ops] [] x u.blk) ∧
        (∀ sel, e.bit 18 = true → ∃ u, exec (.sread c t pc xd xv sel) s = .next u ∧ u.pending = s.pending ∧
          TlrIs t ((tl x t).wrX xd (if sel = 0 then wd (cell x n).val else if sel = 1 then wd (cell x n).aux
            else wd (stateCode (cell x n).state * 2 ^ 30 + kindCode (cell x n).kind * 2 ^ 28))) x u.blk ∧
          Keeps [.tlr] [] x u.blk)) ∧
      (∀ l alt, e.bit 31 = true → e.bit 30 = true → e.bit 20 = true → e.fld 29 24 ≠ devOf x →
        xReg (tl x t) xs ≠ 0#32 → outLink x (e.fld 29 24) = some (l, alt) →
        ∃ u p, exec (.ssig c t pc xd xv xs) s = .next u ∧ u.pending = s.pending ∧
          TlrIs t ((tl x t).wrX xd 0#32) x u.blk ∧ p.dst = e.fld 29 24 ∧
          p.body = .sync false n (xReg (tl x t) xs).s32 k.ctx false ∧
          spGet (fun _ => []) u.blk.links.replay l = spGet (fun _ => []) x.links.replay l ++ [p] ∧
          Keeps [.tlr, .links] [Reg.LNK_L_CNT_PKT l, Reg.LNK_L_CNT_REROUTE l] x u.blk) ∧
      (∀ o need rem, ((o = exec (.ssig c t pc xd xv xs) s ∧ need = 20 ∧ rem = true) ∨
          (o = exec (.scons c t pc xd xv xs) s ∧ need = 19 ∧ rem = true) ∨ (o = exec (.swait c t pc xd xv xs 0) s ∧ need = 18 ∧ rem = false) ∨
          (o = exec (.sbar c t pc xd xv) s ∧ need = 20 ∧ rem = false) ∨ (o = exec (.sread c t pc xd xv 0) s ∧ need = 18 ∧ rem = false)) →
        vtCheck e need rem ≠ 0 → ∃ u, o = .next u ∧ u.pending = s.pending ∧
          TlrIs t ((tl x t).wrX xd (if e.bit 31 = true then 2#32 else 1#32)) x u.blk ∧
          rg u.blk Reg.SYNC_CNT_PERM = rg x Reg.SYNC_CNT_PERM + 1#32 ∧
          Keeps [.tlr, .raised] [Reg.SYNC_CNT_PERM, Reg.SYNC_STATUS, Reg.SYNC_LAST_FAULT] x u.blk)) ∧
    (∀ o, CanIssue x t pc → (tl x t).task = none → (o = exec (.ssig c t pc xd xv xs) s ∨ o = exec (.scons c t pc xd xv xs) s ∨
        o = exec (.swait c t pc xd xv xs 0) s ∨ o = exec (.sbar c t pc xd xv) s ∨ o = exec (.sread c t pc xd xv 0) s) →
      ∃ u, o = .next u ∧ u.pending = s.pending ∧ Faulted t 1 pc u.blk) ∧
    (∀ b k mode arg r, (tl b t).blocked = .swait k mode arg r → (tl b t).woken = none →
      (waitStatus (cell b k) mode arg = none → endWait b t = b) ∧
      ∀ st, waitStatus (cell b k) mode arg = some st →
        (t ∈ b.now.waits → TlrIs t ({ tl b t with blocked := .none, woken := none }.wrX r (wd st)) b (endWait b t)) ∧
        (t ∉ b.now.waits → TlrIs t { tl b t with woken := some st } b (endWait b t))) ∧
    (∀ m mode arg r, (tl x t).blocked = .swait m mode arg r →
      (∀ st, (tl x t).woken = some st → ∃ u, exec (.waitRelease c t) s = .next u ∧ u.pending = s.pending ∧
        TlrIs t ({ tl x t with blocked := .none, woken := none }.wrX r (wd st)) x u.blk ∧
        Keeps [.tlr] [Reg.DBG_NONDET_COUNT, Reg.DBG_NONDET_SRC] x u.blk) ∧
      ((tl x t).woken = none → ∃ u, exec (.waitRelease c t) s = .next u ∧ u.pending = s.pending ∧ Keeps [] [] x u.blk))

/-- For a core that can issue and has a current task, with the flag number taken modulo 16 384: FTEST returns the flag; FCLR
clears it unless this cycle sets it, FSET sets it, and FWAIT goes on where it was set before this cycle and is set, and else
blocks on it; a core blocked on a flag is released by WAIT_RELEASE where that holds and else stays. No other flag, no register
of the panel and no memory changes. SYNC_CELL_CMD LOAD puts kind, state, owner, bound, VAL and AUX of the addressed cell into
the window registers. APPLY counts in SYNC_CNT_MANUAL, raises SYNC_MANUAL and counts as a timing-dependent choice; of a window
that R330 admits it sends the cell what the window says, of any other it sends nothing and sets CFG_ERR. A context reset sends
the loss of the context to the cells in step 1 of the cycle, raises its event and ends the context's run. An ECC error takes a
LIVE cell to FAULT, counts in SYNC_CNT_ECC, raises its event, and leaves every other cell. (The SRC and ID of the ECC error
are the model's, log entry 53.) A write finds the block after the commands that act in its cycle. (From
spec/11_scratchpad_and_granary.md R276, spec/11_scratchpad_and_granary.md R277, spec/13_synchronisation.md R322,
spec/13_synchronisation.md R308, spec/13_synchronisation.md R311, spec/13_synchronisation.md R324, spec/13_synchronisation.md
R328, spec/13_synchronisation.md R330.) -/
def Obligations.FlagInstructionsAndCellCommands : Prop :=
  ∀ (c t pc xd xs f k n : Nat) (s : State) (x y : Block), x = s.asFound c → y = s.asWritten c → f = (xReg (tl x t) xs).toNat % 16384 →
    n = (rg y Reg.SYNC_CELL_ADDR).fld 11 0 →
    (∀ w, CanIssue x t pc → (tl x t).task = some w →
      (∃ u, exec (.ftest c t pc xd xs) s = .next u ∧ u.pending = s.pending ∧
        TlrIs t ((tl x t).wrX xd (if flag x f then 1#32 else 0#32)) x u.blk ∧ Keeps [.tlr] [] x u.blk) ∧
      (∃ u, exec (.fwait c t pc xs) s = .next u ∧ u.pending = s.pending ∧
        TlrIs t (if flagBefore x f && flag x f then tl x t else { tl x t with blocked := .fwait f }) x u.blk ∧
        Keeps [.tlr] [] x u.blk) ∧
      (∃ u, exec (.fclr c t pc xs) s = .next u ∧ u.pending = s.pending ∧
        (∀ g, flag u.blk g = if g = f then ((flagNow x f).map FlagNow.set).getD false else flag x g) ∧
        Keeps [.flags] [] x u.blk) ∧
      (∃ u, exec (.fset c t pc xs) s = .next u ∧ u.pending = s.pending ∧
        (∀ g, flag u.blk g = if g = f then true else flag x g) ∧ Keeps [.flags] [] x u.blk)) ∧
    (∀ g, (tl x t).blocked = .fwait g →
      (flagBefore x g = true → flag x g = true → ∃ u, exec (.waitRelease c t) s = .next u ∧ u.pending = s.pending ∧
        TlrIs t { tl x t with blocked := .none, woken := none } x u.blk ∧
        Keeps [.tlr] [Reg.DBG_NONDET_COUNT, Reg.DBG_NONDET_SRC] x u.blk) ∧
      ((flagBefore x g = false ∨ flag x g = false) →
        ∃ u, exec (.waitRelease c t) s = .next u ∧ u.pending = s.pending ∧ Keeps [] [] x u.blk)) ∧
    (∃ u, exec (.syncCellLoad c) s = .next u ∧ u.pending = s.pending ∧
      ((cell y n).owner < 16 → (cell y n).bound < 2048 → (cell y n).val < 2 ^ 48 → (cell y n).aux < 2 ^ 48 →
        windowCell u.blk = cell y n) ∧
      Keeps [] [Reg.SYNC_CELL_CFG, Reg.SYNC_CELL_VAL_LO, Reg.SYNC_CELL_VAL_HI, Reg.SYNC_CELL_AUX_LO,
        Reg.SYNC_CELL_AUX_HI] y u.blk) ∧
    (∃ u, exec (.syncCellApply c) s = .next u ∧ u.pending = s.pending ∧
      rg u.blk Reg.SYNC_CNT_MANUAL = rg y Reg.SYNC_CNT_MANUAL + 1#32 ∧ Raised [⟨0x87, n, false, none⟩] y u.blk ∧
      rg u.blk Reg.DBG_NONDET_COUNT = rg y Reg.DBG_NONDET_COUNT + 1#32 ∧ (rg u.blk Reg.DBG_NONDET_SRC).bit 5 = true ∧
      (cellOk (windowCell y) = true → Sent [⟨2, 0, 0, 5, 0, n, .put (windowCell y)⟩] y u.blk ∧
        rg u.blk Reg.SYNC_STATUS = rg y Reg.SYNC_STATUS) ∧
      (cellOk (windowCell y) = false → Sent [] y u.blk ∧ (rg u.blk Reg.SYNC_STATUS).bit 7 = true) ∧
      Keeps [.ops, .raised] [Reg.SYNC_CNT_MANUAL, Reg.DBG_NONDET_COUNT, Reg.DBG_NONDET_SRC, Reg.SYNC_STATUS] y u.blk) ∧
    (∃ u, exec (.contextReset c k) s = .next u ∧ u.pending = s.pending ∧
      Sent [⟨1, k % 16, 0, 5, 0, 0, .lose (k % 16)⟩] y u.blk ∧ Raised [⟨0x82, k % 16, false, none⟩] y u.blk ∧
      spGet (fun _ => 0) u.blk.sync.run (k % 16) = 0 ∧ (∀ e ∈ u.blk.safe.cond, e ≠ (15, k % 16)) ∧
      Keeps [.ops, .raised, .run, .flagged, .safe] [] y u.blk) ∧
    (k < 4096 → ∃ u, exec (.syncEccError c k) s = .next u ∧ u.pending = s.pending ∧
      (∀ m, cell u.blk m = if m = k ∧ (cell x k).state = .live then { cell x k with state := .fault } else cell x m) ∧
      rg u.blk Reg.SYNC_CNT_ECC = rg x Reg.SYNC_CNT_ECC + 1#32 ∧ (rg u.blk Reg.SYNC_STATUS).bit 5 = true ∧
      rg u.blk Reg.SYNC_LAST_FAULT = wd (6 * 2 ^ 28 + k) ∧ Raised [⟨0x89, k, false, none⟩] x u.blk ∧
      Keeps [.cells, .raised] [Reg.SYNC_CNT_ECC, Reg.SYNC_STATUS, Reg.SYNC_LAST_FAULT] x u.blk)

/-- A signal to a counter adds its increment modulo 2^48, or, where it would take it below 0, faults the cell; to a barrier it
adds arrivals up to the bound, at which the generation advances and the arrivals are 0, and beyond which the cell faults; to a
pair it advances the producer up to the bound beyond the consumer, else the cell faults. An advance moves a pair's consumer up
to the producer, else the cell faults. A negative increment to a barrier or pair, and an advance of another kind, change no
cell and count in SYNC_CNT_KIND. A signal or advance to a cell that is not LIVE changes no cell and counts in
SYNC_CNT_DEAD_SIG. A signal or advance of another device's context acts in the same way where, as the cell then stands, its
OWNER is that context or SHARED is 1; else it changes no cell and counts in SYNC_CNT_PERM. A host write makes the cell what it
carries. The loss of a context makes its LIVE and FAULT cells ORPHAN.
Every other cell stands. (From spec/13_synchronisation.md R308, spec/13_synchronisation.md R309, spec/13_synchronisation.md
R310, spec/13_synchronisation.md R311, spec/13_synchronisation.md R312, spec/13_synchronisation.md R315,
spec/13_synchronisation.md R316, spec/13_synchronisation.md R324.) -/
def Obligations.OperationsFollowTheKindOfTheCell : Prop :=
  ∀ (b : Block) (o : CellOp) (y : Cell), y = cell b o.cell →
    (∀ m, m ≠ o.cell → (∀ k, o.act ≠ .lose k) → cell (applyOp b o) m = cell b m) ∧
    (∀ i : Int, o.act = .signal i → y.state = .live →
      (y.kind = .counter →
        (0 ≤ (y.val : Int) + i → cell (applyOp b o) o.cell = { y with val := wrapN 48 ((y.val : Int) + i) }) ∧
        ((y.val : Int) + i < 0 → cell (applyOp b o) o.cell = { y with state := .fault } ∧
          rg (applyOp b o) Reg.SYNC_CNT_UNDER = rg b Reg.SYNC_CNT_UNDER + 1#32)) ∧
      (y.kind = .barrier → 0 ≤ i →
        (y.aux + i.toNat < y.bound → cell (applyOp b o) o.cell = { y with aux := y.aux + i.toNat }) ∧
        (y.aux + i.toNat = y.bound → cell (applyOp b o) o.cell = { y with val := (y.val + 1) % 2 ^ 48, aux := 0 }) ∧
        (y.bound < y.aux + i.toNat → cell (applyOp b o) o.cell = { y with state := .fault } ∧
          rg (applyOp b o) Reg.SYNC_CNT_OVER = rg b Reg.SYNC_CNT_OVER + 1#32)) ∧
      (∀ p, y.kind = .pair → 0 ≤ i → p = wrapN 48 ((y.val : Int) + i) →
        (subMod 48 p y.aux ≤ y.bound → cell (applyOp b o) o.cell = { y with val := p }) ∧
        (y.bound < subMod 48 p y.aux → cell (applyOp b o) o.cell = { y with state := .fault })) ∧
      ((y.kind = .barrier ∨ y.kind = .pair) → i < 0 → cell (applyOp b o) o.cell = y ∧
        rg (applyOp b o) Reg.SYNC_CNT_KIND = rg b Reg.SYNC_CNT_KIND + 1#32)) ∧
    (∀ n, o.act = .advance n → y.state = .live →
      (y.kind = .pair → n ≤ subMod 48 y.val y.aux →
        cell (applyOp b o) o.cell = { y with aux := (y.aux + n) % 2 ^ 48 }) ∧
      (y.kind = .pair → subMod 48 y.val y.aux < n → cell (applyOp b o) o.cell = { y with state := .fault } ∧
        rg (applyOp b o) Reg.SYNC_CNT_UNDER = rg b Reg.SYNC_CNT_UNDER + 1#32) ∧
      (y.kind ≠ .pair → cell (applyOp b o) o.cell = y ∧
        rg (applyOp b o) Reg.SYNC_CNT_KIND = rg b Reg.SYNC_CNT_KIND + 1#32)) ∧
    (y.state ≠ .live → ((∃ i, o.act = .signal i) ∨ (∃ n, o.act = .advance n)) → cell (applyOp b o) o.cell = y ∧
      rg (applyOp b o) Reg.SYNC_CNT_DEAD_SIG = rg b Reg.SYNC_CNT_DEAD_SIG + 1#32) ∧
    (∀ ctx a, ((∃ i, o.act = .signalBy ctx i ∧ a = .signal i) ∨ (∃ n, o.act = .advanceBy ctx n ∧ a = .advance n) ∨
        (∃ p n : Nat, o.act = .pnSignal p ctx (some n) ∧ a = .signal n)) →
      (y.owner = ctx ∨ y.shared = true → applyOp b o = applyOp b { o with act := a }) ∧
      (y.owner ≠ ctx → y.shared = false → (∀ m, cell (applyOp b o) m = cell b m) ∧
        rg (applyOp b o) Reg.SYNC_CNT_PERM = rg b Reg.SYNC_CNT_PERM + 1#32)) ∧
    (∀ w, o.act = .put w → cell (applyOp b o) o.cell = w) ∧
    (∀ k, o.act = .lose k → spWf (fun _ => Cell.init) b.sync.cells = true → ∀ m, cell (applyOp b o) m =
      if (cell b m).owner = k ∧ ((cell b m).state = .live ∨ (cell b m).state = .fault) then { cell b m with state := .orphan }
      else cell b m)

/-! ## Streams and DMA (spec/12) -/

/-- Where the core can issue. SARM of a 128-byte descriptor read without error: a status other than 0 goes to xd and counts in
STRM_CNT_ARM_REJ, status 1 if the slot is in flight; with status 0 a side outside its window faults BOUND; with sides inside,
room on the scoreboard for its entries in place of those the slot had and, of a DMA stream, fewer than eight in its channel, a
LOCAL stream is armed with the descriptor, the task's windows and context, and a DMA stream is queued last in its channel; xd
is 0; without that room the instruction is held. SREARM: 1 for a slot in flight, 8 for an empty one, 2 where SPACE changes or
a reserved bit is set, 9 without PERSIST where nothing precedes it, else the slot is armed or queued with the four address
words replaced. SQUERY returns state and cause; SRESUME makes the halted head of a channel active and else changes nothing;
SDISARM empties a slot that is not in flight and marks one in flight bad with cause 7. (The order in which SREARM judges is the
model's, log entry 26.) (From spec/12_streams_and_dma.md R281,
spec/12_streams_and_dma.md R286, spec/12_streams_and_dma.md R295, spec/12_streams_and_dma.md R302, spec/12_streams_and_dma.md
R304.) -/
def Obligations.StreamSlotsArmAndAnswer : Prop :=
  ∀ (c t pc xd xs slot k : Nat) (er : List (Nat × EccStat)) (s : State) (x y : Block) (v : StrmSlot), x = s.asFound c →
    CanIssue x t pc → k = slot % 64 → v = slotOf (tl x t) k → y = setTl x t (sbFree (tl x t) (.stream k)) →
    (∀ p d st w es, coreAcc x t (xReg (tl x t) xs).toNat 128 128 false = .ok p → spErrs x t p 128 er = [] →
      d = spWords x t p 32 → st = armStatus x t k d →
      w = { StrmSlot.init with desc := d, awin := curAwin x t, cwin := curCwin x t, ctx := (curCtx x t).getD 0 } →
      es = armEntries x t k w →
      (v.inFlight = true → st = 1) ∧
      (st ≠ 0 → ∃ u, exec (.sarm c t pc xd ⟨xs, er⟩ slot) s = .next u ∧ u.pending = s.pending ∧
        TlrIs t ((tl x t).wrX xd (wd st)) x u.blk ∧
        rg u.blk (Reg.STRM_CNT_ARM_REJ t) = rg x (Reg.STRM_CNT_ARM_REJ t) + 1#32 ∧
        Keeps [.tlr] [Reg.STRM_CNT_ARM_REJ t] x u.blk) ∧
      (st = 0 → armBounds d (curAwin x t) (curCwin x t) = false →
        ∃ u, exec (.sarm c t pc xd ⟨xs, er⟩ slot) s = .next u ∧ u.pending = s.pending ∧ Faulted t 2 pc u.blk) ∧
      (st = 0 → armBounds d (curAwin x t) (curCwin x t) = true →
        ((dKind d < 2 ∨ (chanOf (tl x t) (dChan d)).length < 8) → (sbAdd y t es).isSome = true →
          ∃ u, exec (.sarm c t pc xd ⟨xs, er⟩ slot) s = .next u ∧ u.pending = s.pending ∧
            slotOf (tl u.blk t) k = { w with state := if dKind d < 2 then .armed else .queued } ∧
            (∀ j, j ≠ k → slotOf (tl u.blk t) j = slotOf (tl x t) j) ∧
            (∀ j, chanOf (tl u.blk t) j = chanOf (tl x t) j ++ (if 2 ≤ dKind d ∧ j = dChan d then [k] else [])) ∧
            xReg (tl u.blk t) xd = 0#32 ∧ (tl u.blk t).sb = (tl y t).sb ++ es ∧ Keeps [.tlr] [Reg.DMA_CHSTAT t] x u.blk) ∧
        ((2 ≤ dKind d ∧ 8 ≤ (chanOf (tl x t) (dChan d)).length) ∨ sbAdd y t es = none →
          ∃ u why, exec (.sarm c t pc xd ⟨xs, er⟩ slot) s = .next u ∧ u.pending = s.pending ∧
            HeldAt t (.sarm c t pc xd ⟨xs, er⟩ slot) why x u.blk))) ∧
    (∀ p ws d st same, coreAcc x t (xReg (tl x t) xs).toNat 16 4 false = .ok p → spErrs x t p 16 er = [] →
      ws = spWords x t p 4 →
      d = listSet (listSet (listSet (listSet v.desc 4 (wAt ws 0)) 5 (wAt ws 1)) 16 (wAt ws 2)) 17 (wAt ws 3) →
      same = (decide ((wAt ws 1).fld 31 28 = (wAt v.desc 5).fld 31 28) && decide ((wAt ws 1).fld 27 16 = 0) &&
        decide ((wAt ws 3).fld 31 28 = (wAt v.desc 17).fld 31 28) && decide ((wAt ws 3).fld 27 16 = 0)) →
      ((v.inFlight = true ∧ st = 1) ∨ (v.state = .empty ∧ st = 8) ∨
        (v.inFlight = false ∧ v.state ≠ .empty ∧ same = false ∧ st = 2) ∨
        (v.inFlight = false ∧ v.state ≠ .empty ∧ same = true ∧ panicleBad x d = false ∧ pagedRt x t d = false ∧
          (2 ≤ dKind d ∨ descSpaceBad d = false) ∧ (((wAt v.desc 0).bit 27 = false ∧ st = 9) ∨
            ((wAt v.desc 0).bit 27 = true ∧ armBounds d (curAwin x t) (curCwin x t) = true ∧ st = 0 ∧
              (dKind d < 2 ∨ (chanOf (tl x t) (dChan d)).length < 8) ∧
              (sbAdd y t (armEntries x t k { StrmSlot.init with
                desc := d, awin := curAwin x t, cwin := curCwin x t, ctx := (curCtx x t).getD 0 })).isSome = true)))) →
      ∃ u, exec (.srearm c t pc xd ⟨xs, er⟩ slot) s = .next u ∧ u.pending = s.pending ∧ xReg (tl u.blk t) xd = wd st ∧
        (if st = 0 then (slotOf (tl u.blk t) k).state = (if dKind d < 2 then .armed else .queued) ∧
            (slotOf (tl u.blk t) k).desc = d
          else slotOf (tl u.blk t) k = v) ∧
        (∀ j, j ≠ k → slotOf (tl u.blk t) j = slotOf (tl x t) j) ∧
        Keeps [.tlr] [Reg.STRM_CNT_ARM_REJ t, Reg.DMA_CHSTAT t] x u.blk) ∧
    (∃ u, exec (.squery c t pc xd slot) s = .next u ∧ u.pending = s.pending ∧
      TlrIs t ((tl x t).wrX xd (wd (slotCode v.state * 2 ^ 28 + v.cause * 2 ^ 24))) x u.blk ∧ Keeps [.tlr] [] x u.blk) ∧
    (∀ ch e h l, ch < 8 → e < 2 → chanOf (tl x t) (ch + 8 * e) = h :: l →
      ((slotOf (tl x t) h).state = .halted → ∃ u, exec (.sresume c t pc ch e) s = .next u ∧ u.pending = s.pending ∧
        slotOf (tl u.blk t) h = { slotOf (tl x t) h with state := .active } ∧ Keeps [.tlr] [Reg.DMA_CHSTAT t] x u.blk) ∧
      ((slotOf (tl x t) h).state ≠ .halted → ∃ u, exec (.sresume c t pc ch e) s = .next u ∧ u.pending = s.pending ∧
        Keeps [] [] x u.blk)) ∧
    (v.inFlight = false → ∃ u, exec (.sdisarm c t pc slot) s = .next u ∧ u.pending = s.pending ∧
      slotOf (tl u.blk t) k = StrmSlot.init ∧ (∀ j, j ≠ k → slotOf (tl u.blk t) j = slotOf (tl x t) j) ∧
      Keeps [.tlr] [] x u.blk) ∧
    (v.inFlight = true → ∃ u, exec (.sdisarm c t pc slot) s = .next u ∧ u.pending = s.pending ∧
      (slotOf (tl u.blk t) k).state = .bad ∧ (slotOf (tl u.blk t) k).cause = 7 ∧
      rg u.blk (Reg.DMA_CNT_BAD t) = rg x (Reg.DMA_CNT_BAD t) + 1#32 ∧ u.blk.mems = x.mems)

/-- A queued descriptor at the head of its channel becomes active at this cycle. DMA_UNIT_DONE of an active descriptor without
notifications and without index tensor, whose oldest unit has passed its arbitration points and completes one element: a read
from GDDR6 puts exactly that element's bits at its place in the scratchpad, a write puts the scratchpad's element into GDDR6,
no other byte changes, the position moves on by one element and the unit's place in the staging buffer comes free; where the
context does not reach the GDDR6 place, or the unit is uncorrectable, the descriptor is bad with the cause of R302 and
DMA_CNT_BAD grows by one. While the oldest unit still waits at a point nothing changes. DMA_COMPLETE of an active descriptor
whose elements have all moved leaves it DONE, its scoreboard entries freed, out of its channel; of any other it changes
nothing. (Both on a tiller that is not fenced.) A 1 written to DMA_t_RESUME makes that channel's halted head active. (From spec/12_streams_and_dma.md R280,
spec/12_streams_and_dma.md R292, spec/12_streams_and_dma.md R295, spec/12_streams_and_dma.md R302, spec/12_streams_and_dma.md
R304, spec/21_gddr6_memory.md R484, spec/21_gddr6_memory.md R486.) -/
def Obligations.DmaMovesElements : Prop :=
  ∀ (c t k : Nat) (s : State) (x y' : Block) (v : StrmSlot), x = s.asFound c → y' = s.asWritten c → t < 36 → v = slotOf (tl x t) k →
    (v.state = .queued → (chanOf (tl x t) (dChan v.desc)).head? = some k →
      ∃ u, exec (.dmaStart c t k) s = .next u ∧ u.pending = s.pending ∧
        slotOf (tl u.blk t) k = { v with state := .active, startC := x.pwr.ccy % 2 ^ 32 } ∧
        Keeps [.tlr] [Reg.DMA_CHSTAT t] x u.blk) ∧
    ((v.state ≠ .queued ∨ (chanOf (tl x t) (dChan v.desc)).head? ≠ some k) →
      ∃ u, exec (.dmaStart c t k) s = .next u ∧ u.pending = s.pending ∧ Keeps [] [] x u.blk) ∧
    (∀ w l near far data, fencedT x t = none → v.asked = w :: l → w.path ≠ [] →
      ∃ u, exec (.dmaUnitDone c t k ⟨near, far, ⟨[], []⟩⟩ data) s = .next u ∧ u.pending = s.pending ∧ Keeps [] [] x u.blk) ∧
    (∀ w l a bit q qb p near far data n y, fencedT x t = none → v.state = .active → v.asked = w :: l → w.path = [] →
      w.fin = v.pos + 1 → v.pos < elemCount v.desc → 0 ≤ a → 0 ≤ q → (wAt v.desc 1).bit 30 = false →
      (wAt v.desc 1).bit 31 = false → gDim v.desc true = none → gDim v.desc false = none → n = a.toNat →
      (∀ e, spErrs x t e 4 near = []) →
      y = { v with pos := v.pos + 1, asked := l, carry := (data[63]?).getD 0#8 } →
      (dKind v.desc = 2 → (srcPat v.desc).space = 2 → (dstPat v.desc).space = 0 → sideElem x t v false v.pos = .at_ a bit →
        sideElem x t v true v.pos = .at_ q qb → slotPhys v (q.toNat % 2 ^ 21) (eSpan v.desc qb) = some p →
        rangeOn x t p (p + eSpan v.desc qb - 1) = true →
        (gddrFar x v.ctx n (eSpan v.desc bit) false = .gddr n →
          (∀ i, i < eSpan v.desc bit → x.mem.poison.contains ((n + i) / 64) = false ∧
            ∀ e ∈ far, e.1 / 64 = (n + i) / 64 → e.2 = .clean) →
          ∃ u, exec (.dmaUnitDone c t k ⟨near, far, ⟨[], []⟩⟩ data) s = .next u ∧ u.pending = s.pending ∧
            Wrote (t * 2 ^ 21 + p) (ePut v.desc qb (spRd x t p (eSpan v.desc qb))
              (eGet v.desc bit (gdRd x n (eSpan v.desc bit)))) x.mems.spad u.blk.mems.spad ∧
            slotOf (tl u.blk t) k = y ∧ Keeps [.spad, .tlr] [] x u.blk) ∧
        (∀ cs, (cs = 2 ∧ gddrFar x v.ctx n (eSpan v.desc bit) false = .gddr n ∧
              ∃ i, i < eSpan v.desc bit ∧ (x.mem.poison.contains ((n + i) / 64) = true ∨
                ∃ e ∈ far, e.1 / 64 = (n + i) / 64 ∧ e.2 = .uncorrectable)) ∨
            (∃ ev, gddrFar x v.ctx n (eSpan v.desc bit) false = .bad cs ev) →
          ∃ u, exec (.dmaUnitDone c t k ⟨near, far, ⟨[], []⟩⟩ data) s = .next u ∧ u.pending = s.pending ∧
            (slotOf (tl u.blk t) k).state = .bad ∧ (slotOf (tl u.blk t) k).cause = cs ∧ u.blk.mems = x.mems ∧
            rg u.blk (Reg.DMA_CNT_BAD t) = rg x (Reg.DMA_CNT_BAD t) + 1#32)) ∧
      (dKind v.desc = 3 → (srcPat v.desc).space = 0 → (dstPat v.desc).space = 2 → sideElem x t v true v.pos = .at_ a bit →
        sideElem x t v false v.pos = .at_ q qb → slotPhys v (q.toNat % 2 ^ 21) (eSpan v.desc qb) = some p →
        rangeOn x t p (p + eSpan v.desc qb - 1) = true → spErrs x t p (eSpan v.desc qb) near = [] →
        gddrFar x v.ctx n (eSpan v.desc bit) true = .gddr n →
        ∃ u, exec (.dmaUnitDone c t k ⟨near, far, ⟨[], []⟩⟩ data) s = .next u ∧ u.pending = s.pending ∧
          Wrote n (ePut v.desc bit (gdRd x n (eSpan v.desc bit)) (eGet v.desc qb (spRd x t p (eSpan v.desc qb))))
            x.mems.gddr u.blk.mems.gddr ∧
          slotOf (tl u.blk t) k = y ∧ Keeps [.gddr, .mem, .tlr] [] x u.blk)) ∧
    (fencedT x t = none → v.state = .active → elemCount v.desc ≤ v.pos →
      ∃ u, exec (.dmaComplete c t k) s = .next u ∧ u.pending = s.pending ∧
        slotOf (tl u.blk t) k = { v with state := .done, chain := none } ∧
        (tl u.blk t).sb = (tl x t).sb.filter (fun e => e.owner ≠ .stream k) ∧ k ∉ chanOf (tl u.blk t) (dChan v.desc) ∧
        Keeps [.tlr] [Reg.DMA_CHSTAT t] x u.blk) ∧
    (fencedT x t = none → (v.state ≠ .active ∨ v.pos < elemCount v.desc) →
      ∃ u, exec (.dmaComplete c t k) s = .next u ∧ u.pending = s.pending ∧ Keeps [] [] x u.blk) ∧
    (∀ ch h l, ch < 16 → chanOf (tl y' t) ch = h :: l → (slotOf (tl y' t) h).state = .halted →
      ∃ u, exec (.dmaResumeWrite c t (wd (2 ^ ch))) s = .next u ∧ u.pending = s.pending ∧
        slotOf (tl u.blk t) h = { slotOf (tl y' t) h with state := .active } ∧ Keeps [.tlr] [Reg.DMA_CHSTAT t] y' u.blk)

/-- A request of a descriptor has at most eight units, all in one 512-byte block; issuing it never takes the bytes that an
engine has reserved beyond its share of the staging buffer. A grant opportunity moves the point's wheel place by one, at an
engine's output after the engines have issued what they can. In earliest-deadline mode, where a waiting request is eligible,
one is granted that no eligible one precedes; where none is, nothing else changes. In fixed-split mode, if the class of the
wheel's slot has a request, one of that class is granted, of a port after the last port granted, or of any port where no later
one asks, and that port is then the last (kept modulo 65 536); an idle slot changes nothing else. What is granted has its
oldest waiting unit pass the point (but for a glume read, which the last point sends away), and no other descriptor changes.
A descriptor that may ask and whose next unit is refused is bad with cause 5 instead. (When requests are formed, what they
reserve and when one is refused is the model's choice, log entry 64.) (From spec/12_streams_and_dma.md R292, spec/12_streams_and_dma.md R293, spec/12_streams_and_dma.md R297,
spec/12_streams_and_dma.md R298, spec/12_streams_and_dma.md R299.) -/
def Obligations.ArbitrationGrantsByModeAndRank : Prop :=
  (∀ (b : Block) (t k : Nat) (v : StrmSlot), v = slotOf (tl b t) k →
    (nextRequest b t v).length ≤ 8 ∧
    (∀ g ∈ nextRequest b t v, ∀ h ∈ nextRequest b t v, g.addr / 8 = h.addr / 8) ∧
    (∀ ev, mayAsk t v = true → askRefused b t v = some ev →
      (slotOf (tl (issueRequest t b k) t) k).state = .bad ∧ (slotOf (tl (issueRequest t b k) t) k).cause = 5) ∧
    ∀ wr, stageUsed (tl b t) wr ≤ stageShare b t wr →
      stageUsed (tl (issueRequest t b k) t) wr ≤ stageShare (issueRequest t b k) t wr) ∧
  (∀ (c pt now hz : Nat) (rem : List RemReq) (s : State) (x : Block) (reqs : List ArbReq) (st : Nat × Nat),
    x = (if pt < 36 then issueAll (s.asFound c) pt else s.asFound c) → reqs = pointReqs x rem pt →
    now = x.pwr.ccy % 2 ^ 32 → hz = (frc x Reg.STRM_ARB).fld 11 0 → st = spGet (fun _ => (0, 0)) x.arb pt →
    ∃ u, exec (.arbGrant c rem pt) s = .next u ∧ u.pending = s.pending ∧
      (spGet (fun _ => (0, 0)) u.blk.arb pt).1 = (st.1 + 1) % 16 ∧
      (∀ j, j ≠ pt → spGet (fun _ => (0, 0)) u.blk.arb j = spGet (fun _ => (0, 0)) x.arb j) ∧
      (reqs = [] → Keeps [.arb] [] x u.blk) ∧
      ((frc x Reg.STRM_ARB).bit 16 = false →
        (spGet (fun _ => (0, 0)) u.blk.arb pt).2 = st.2 ∧
        ((∀ q ∈ reqs, edfEligible now hz q = false) → Keeps [.arb] [] x u.blk) ∧
        ((∃ q ∈ reqs, edfEligible now hz q = true) → ∃ q ∈ reqs, edfEligible now hz q = true ∧
          (∀ p ∈ reqs, edfEligible now hz p = true → edfLt now p q = false) ∧
          ∀ t k v, q.owner = some (t, k) → v = slotOf (tl x t) k → (farSide v = true ∨ (srcPat v.desc).space ≠ 5) →
            (slotOf (tl u.blk t) k).asked = passPoint v pt x.pwr.ccy v.asked ∧
            (∀ t' k', (t', k') ≠ (t, k) → slotOf (tl u.blk t') k' = slotOf (tl x t') k') ∧
            Keeps [.arb, .tlr] [Reg.DBG_NONDET_COUNT, Reg.DBG_NONDET_SRC] x u.blk)) ∧
      (∀ code i last, (frc x Reg.STRM_ARB).bit 16 = true → i = st.1 % 16 →
        code = (frc x Reg.STRM_WHEEL).fld (2 * i + 1) (2 * i) → last = st.2 / 2 ^ (16 * code) % 65536 →
        (code = 3 → (spGet (fun _ => (0, 0)) u.blk.arb pt).2 = st.2 ∧ Keeps [.arb] [] x u.blk) ∧
        (code < 3 → (∃ q ∈ reqs, arbCode q.cls = code) → ∃ q ∈ reqs, arbCode q.cls = code ∧
          (last < q.port ∨ ∀ p ∈ reqs, arbCode p.cls = code → p.port ≤ last) ∧
          (spGet (fun _ => (0, 0)) u.blk.arb pt).2 / 2 ^ (16 * code) % 65536 = q.port % 65536 ∧
          ∀ t k v, q.owner = some (t, k) → v = slotOf (tl x t) k → (farSide v = true ∨ (srcPat v.desc).space ≠ 5) →
            (slotOf (tl u.blk t) k).asked = passPoint v pt x.pwr.ccy v.asked ∧
            (∀ t' k', (t', k') ≠ (t, k) → slotOf (tl u.blk t') k' = slotOf (tl x t') k') ∧
            Keeps [.arb, .tlr] [Reg.DBG_NONDET_COUNT, Reg.DBG_NONDET_SRC] x u.blk)))

/-! ## The host port (spec/16) and the panel (spec/00, spec/24) -/

/-- Of a write, which finds the block after the commands that act in its cycle (`asWritten`). A write of a register that no
command stands for and that no check turns away: each bit that is W1C, written 1 and not set by a unit in this very cycle reads
0; each other RW or SH bit reads as written (SEQ_SCAN.CYC above 1 249 stays); every other bit, every other register and all
other state stand, but that a lower TB_REV_LIMIT may raise its event and that a TB_TRIGn_CFG that is written has its ball driven
from then on. A shadowed register that latches singly keeps its value in force while the timebase is enabled; while it is not,
or in the safety block, the value is in force at once, in every generation. A write where no register lies changes nothing. A
host write of a register, the port up, the core clock running, and replay and recorder off, is that write, and so is one by
the debug port (which does not need the port, log entry 83); while the core clock is gated a write outside the PANEL_, PWR_
and CLK_ blocks is discarded and counted. (From spec/00_scope.md R17, spec/16_host_port.md R366, spec/16_host_port.md R369,
spec/23_package_and_pins.md R523, spec/24_register_summary.md R525, spec/24_register_summary.md R527,
spec/24_register_summary.md R528, spec/00_scope.md R531.) -/
def Obligations.RegisterWritesFollowFieldTypes : Prop :=
  ∀ (c a : Nat) (w v : Word) (s : State) (x : Block), x = s.asWritten c → v = scanFix x a w →
    (isReg a = true → recRegLocked x a = false → (fixedCmd a w).isNone = true → (familyCmd a w).isNone = true →
      writeBad x a w = none → (x.pwr.core = true ∨ a ∉ settleRegs) →
      (isSh a = true → portOfReg a = none ∧ laneOfReg a = none ∧ setOfReg a = none) →
      ∃ u, exec (.registerWrite c a w) s = .next u ∧ u.pending = s.pending ∧
        (∀ i, i < 32 → (a = Reg.HOST_ATTN_STATUS → nbit 0xEC i = true) → (rg u.blk a).bit i =
          if nbit (rowOf a).w1c i = true ∧ v.bit i = true ∧ (freshBits x a).bit i = false then false
          else if nbit (rowOf a).rw i = true ∨ nbit (rowOf a).sh i = true then v.bit i else (rg x a).bit i) ∧
        ((isSh a = false ∨ (tbEn x = true ∧ ¬(0xE800 ≤ a ∧ a < 0xF000))) →
          Keeps (if a = Reg.TB_REV_LIMIT then [.snap, .tb, .raised] else if 0x2080 ≤ a ∧ a < 0x20A0 then [.snap, .trigs]
            else [.snap]) [a] x u.blk) ∧
        (∀ n, n < 8 → a = Reg.TB_TRIG_CFG n → trigOf u.blk n = { trigOf x n with cfgd := true } ∧
          ∀ m, m ≠ n → trigOf u.blk m = trigOf x m) ∧
        (isSh a = true → (tbEn x = false ∨ (0xE800 ≤ a ∧ a < 0xF000)) →
          frc u.blk a = rg u.blk a ∧ prv u.blk a = rg u.blk a ∧ prv2 u.blk a = rg u.blk a ∧
          (∀ h, h ≠ a → frc u.blk h = frc x h ∧ prv u.blk h = prv x h ∧ prv2 u.blk h = prv2 x h) ∧
          Keeps (if a = Reg.TB_REV_LIMIT then [.snap, .force, .prev, .tb, .raised]
            else if 0x2080 ≤ a ∧ a < 0x20A0 then [.snap, .force, .prev, .trigs] else [.snap, .force, .prev]) [a] x u.blk)) ∧
    (isReg a = false → ∃ u, exec (.registerWrite c a w) s = .next u ∧ u.pending = s.pending ∧ Keeps [] [] x u.blk) ∧
    (a < 0x100000 → a % 4 = 0 → x.pwr.port = true → x.pwr.core = true → replayOn x = false → recOn x = false →
      ∃ u, exec (.hostWrite c ⟨a, false⟩ w) s = .next u ∧ u.pending = s.pending ∧ exec (.registerWrite c a w) s = .next u) ∧
    (isReg a = true → a % 4 = 0 → gatedOff x a = false →
      ∃ u, exec (.hostWrite c ⟨a, true⟩ w) s = .next u ∧ u.pending = s.pending ∧ exec (.registerWrite c a w) s = .next u) ∧
    (∀ dbg, isReg a = true → 0x2000 ≤ a → a < 0xF000 → a % 4 = 0 → dbg = true ∨ x.pwr.port = true → x.pwr.core = false →
      dbg = true ∨ replayOn x = false →
      ∃ u, exec (.hostWrite c ⟨a, dbg⟩ w) s = .next u ∧ u.pending = s.pending ∧
        rg u.blk Reg.HOST_CNT_DISCARD = rg x Reg.HOST_CNT_DISCARD + 1#32 ∧ Keeps [] [Reg.HOST_CNT_DISCARD] x u.blk)

/-- With the port up, a read of a panel register that is no HI half and no stepping register returns its mirror copy, a
reserved encoding as 0; a HI register returns the copy snapped at the read of its LO register, which that read takes; a read by
the debug port does the same, the port up or not. The status region shows HOST_ATTN_STATUS and the next sequence number, and
the event region the words of the event ring. MIRROR_UPDATE makes the copy the register's own value and leaves the value. A
masked write to a command ring, replay off, changes the bytes whose mask bit is 0 and no other byte; a read there returns the
word held. A masked write to a panel register with a masked byte is discarded and counted, and one where no register lies
changes nothing. A write of HOST_CRn_TAIL sets it to its low 16 bits and notes the cycle. A write finds the block after the
commands that act in its cycle (`asWritten`). (That the snapshot is read again until the next read of LO is the model's choice,
log entry 33, and so is what the port does at its edges, log entry 27.) (From spec/00_scope.md R18, spec/16_host_port.md R359,
spec/16_host_port.md R363, spec/16_host_port.md R365, spec/16_host_port.md R366, spec/16_host_port.md R367,
spec/16_host_port.md R370, spec/16_host_port.md R378, spec/24_register_summary.md R525.) -/
def Obligations.HostReadsMirrorsAndRings : Prop :=
  ∀ (c a k : Nat) (w : Word) (s : State) (x y : Block), x = s.asFound c → y = s.asWritten c → a % 4 = 0 →
    (∀ dbg, a < 0x100000 → isReg a = true → (stepOf a).isNone = true → dbg = true ∨ x.pwr.port = true →
      ∃ u, exec (.hostRead c ⟨a, dbg⟩) s = .next u ∧ u.pending = s.pending ∧
        u.blk.host.rdata = (if isSnapped a then snapOf x a else hideReserved a (mir x a)) ∧
        (∀ h, snapOf u.blk h = if h ∈ snapsOf a then mir x h else snapOf x h) ∧ Keeps [.host, .snap] [] x u.blk) ∧
    (∀ v, ((a = 0x200000 ∧ v = attnWord x (s.shown c).seq) ∨ (a = 0x20000C ∧ v = wd (s.shown c).seq) ∨
        (0x210000 ≤ a ∧ a < 0x220000 ∧ v = wAt (spGet evNone (s.shown c).ring ((a - 0x210000) / 16)) (a / 4 % 4)) ∨
        (0x100000 ≤ a ∧ a < 0x200000 ∧ v = rdWord x.mems.win a) ∨ (a < 0x100000 ∧ isReg a = false ∧ v = 0#32)) →
      x.pwr.port = true →
      ∃ u, exec (.hostRead c ⟨a, false⟩) s = .next u ∧ u.pending = s.pending ∧ u.blk.host.rdata = v ∧
        Keeps [.host, .snap] [] x u.blk) ∧
    (isReg a = true → gatedOff x a = false → ∃ u, exec (.mirrorUpdate c a) s = .next u ∧ u.pending = s.pending ∧
      mir u.blk a = liveReg x a ∧ (∀ h, h ∉ pairOf a → mir u.blk h = mir x h) ∧ Keeps [.mirror] [] x u.blk) ∧
    (isReg a = false → ∃ u, exec (.mirrorUpdate c a) s = .next u ∧ u.pending = s.pending ∧ Keeps [] [] x u.blk) ∧
    (0x100000 ≤ a → a < 0x200000 → y.pwr.port = true → replayOn y = false →
      ∃ u, exec (.hostMaskedWrite c a w k) s = .next u ∧ u.pending = s.pending ∧
        (∀ j, rdByte u.blk.mems.win j = if a ≤ j ∧ j < a + 4 ∧ nbit k (j - a) = false
          then (leBytes 4 w.toNat).getD (j - a) 0#8 else rdByte y.mems.win j) ∧
        Keeps [.win, .dbg] [Reg.DBG_REC_CNT_LOST] y u.blk) ∧
    (a < 0x100000 → k % 16 ≠ 0 → y.pwr.port = true → replayOn y = false →
      (isReg a = true → ∃ u, exec (.hostMaskedWrite c a w k) s = .next u ∧ u.pending = s.pending ∧
        rg u.blk Reg.HOST_CNT_DISCARD = rg y Reg.HOST_CNT_DISCARD + 1#32 ∧
        Keeps [.raised] [Reg.HOST_CNT_DISCARD] y u.blk) ∧
      (isReg a = false → ∃ u, exec (.hostMaskedWrite c a w k) s = .next u ∧ u.pending = s.pending ∧
        Keeps [] [] y u.blk)) ∧
    (k < 16 → ∃ u, exec (.crTailWrite c k w) s = .next u ∧ u.pending = s.pending ∧
      rg u.blk (Reg.HOST_CR_TAIL k) = w &&& 0xFFFF#32 ∧
      spGet (fun _ => []) u.blk.host.tails k = spGet (fun _ => []) y.host.tails k ++ [(y.pwr.ccy, w.fld 15 0)] ∧
      Keeps [.host] [Reg.HOST_CR_TAIL k] y u.blk)

/-- With the port up, the core clock running and replay off. A word written at a cell of this device in the signal half of the
sync aperture sends it a signal of that increment, one of 1 to 1 024 in the advance half an advance, in step 7 of the cycle in the
place of its channel, which is 1 in the window of this device's own number and 0 below it; a zero, and another amount of
advance, is discarded and counted. A word written to a command-ring offset of broadcast
sub-aperture 0 goes into this device's ring and onto every child link of its tree that is in use. A word written to a command
ring of another device's window, its primary link UP, is put onto that link as a packet; to this device's own window it is the
write at the local offset. What the host port of another device than 0 asks of other devices has no effect (log entry 47). A
write finds the block after the commands that act in its cycle (`asWritten`).
(From spec/16_host_port.md R365, spec/16_host_port.md R380, spec/16_host_port.md R381, spec/16_host_port.md R382,
spec/13_synchronisation.md R321, spec/17_multi_device.md R387, spec/17_multi_device.md R402.) -/
def Obligations.ApertureWritesReachTheirTargets : Prop :=
  ∀ (c off : Nat) (w : Word) (s : State) (x : Block), x = s.asWritten c → off % 4 = 0 → x.pwr.port = true → x.pwr.core = true →
    replayOn x = false →
    (∀ k v, k = off / 4 % 4096 → v = w.s32 → 0x400000 ≤ off → off < 0x600000 → off / 2 ^ 14 % 64 = devOf x →
      ((w = 0#32 ∨ (0x500000 ≤ off ∧ (v < 1 ∨ 1024 < v))) →
        ∃ u, exec (.syncApertureWrite c off w) s = .next u ∧ u.pending = s.pending ∧
          rg u.blk Reg.HOST_CNT_DISCARD = rg x Reg.HOST_CNT_DISCARD + 1#32 ∧
          Keeps [.raised] [Reg.HOST_CNT_DISCARD] x u.blk) ∧
      (∀ act, ((w ≠ 0#32 ∧ off < 0x500000 ∧ act = .signal v) ∨
          (0x500000 ≤ off ∧ 1 ≤ v ∧ v ≤ 1024 ∧ act = .advance v.toNat)) →
        ∃ u, exec (.syncApertureWrite c off w) s = .next u ∧ u.pending = s.pending ∧
          Sent [⟨7, 1, 0, 5, 0, k, act⟩] x u.blk ∧ Keeps [.ops, .dbg] [Reg.DBG_REC_CNT_LOST] x u.blk) ∧
      (∀ own, own = 0x100000000 + devOf x * 0x1000000 + off → off < 0x500000 → w ≠ 0#32 →
        ∃ u, exec (.deviceWindowWrite c own w) s = .next u ∧ u.pending = s.pending ∧
          Sent [⟨7, 2, 0, 5, 0, k, .signal v⟩] x u.blk ∧ Keeps [.ops, .dbg] [Reg.DBG_REC_CNT_LOST] x u.blk)) ∧
    (∀ lo, 0x100000 ≤ lo → lo < 0x200000 → off = 0x140000000 + lo →
      (isHead x = true → ∃ u, exec (.broadcastWrite c off w) s = .next u ∧ u.pending = s.pending ∧
        Wrote lo (leBytes 4 w.toNat) x.mems.win u.blk.mems.win ∧
        ∀ l, l ∈ treeKids (xDim x) (yDim x) (devOf x) (devOf x) (fun _ => true) → linkSt x l = 2 →
          x.links.alt.contains l = false →
          ∃ p ∈ spGet (fun _ => []) u.blk.links.replay l, p.src = devOf x ∧ p.body = .bcast 0 lo w 0) ∧
      (isHead x = false →
        ∃ u, exec (.broadcastWrite c off w) s = .next u ∧ u.pending = s.pending ∧ Keeps [] [] x u.blk)) ∧
    (∀ d lo, d < 64 → 0x100000 ≤ lo → lo < 0x200000 → off = 0x100000000 + d * 0x1000000 + lo →
      (∀ p r, isHead x = true → d ≠ devOf x → x.links.route.find? (fun e => e.1 = d) = some (d, p, r) → linkSt x p = 2 →
        x.links.alt.contains p = false → ∃ u q, exec (.deviceWindowWrite c off w) s = .next u ∧ u.pending = s.pending ∧
          spGet (fun _ => []) u.blk.links.replay p = spGet (fun _ => []) x.links.replay p ++ [q] ∧ q.src = devOf x ∧
          q.dst = d ∧ q.vc = 0 ∧ q.body = .regWrite lo w 0 ∧ Keeps [.links] [Reg.LNK_L_CNT_PKT p] x u.blk) ∧
      (isHead x = false → d ≠ devOf x →
        ∃ u, exec (.deviceWindowWrite c off w) s = .next u ∧ u.pending = s.pending ∧ Keeps [] [] x u.blk) ∧
      (d = devOf x → ∃ u, exec (.deviceWindowWrite c off w) s = .next u ∧ u.pending = s.pending ∧
        exec (.hostWrite c ⟨lo, false⟩ w) s = .next u))

/-- A write of GO to HOST_RRD_CMD with no remote read under way, for a device whose primary link is UP, starts one on device
0: CMD reads 0 and the request is on the link; for this device's own number the register's value is there at once, a HI half as its last snapshot and a reserved encoding as
0, and the read takes the snapshots that it takes of the host (log entry 32); without
GO, or while one is under way, it changes nothing. A write finds the block after the commands that act in its cycle. Its end leaves the data, or 0 with ERR, DONE, and the attention bit RRD. On
a frame that is not BUSY: MAP and FLUSH make it BUSY; MAP_ZERO makes it READY and sets FRAME, UNMAP makes it UNMAPPED; a BUSY
frame takes none of them. The end of an operation on units outside the staging region in a region that is on sets FRAME and
leaves the frame READY: of a MAP, none bad or poisoned, with the 64 KiB of the frame equal to GDDR6, of a FLUSH with the units
that the host has written in GDDR6 and no other; a MAP that meets an uncorrectable unit leaves the frame in ERROR. (MAP_ZERO leaves the
frame's bytes as they are: log entry 32.) (From spec/16_host_port.md R382, spec/16_host_port.md R383, spec/21_gddr6_memory.md
R490.) -/
def Obligations.RemoteReadsAndPagedFrames : Prop :=
  ∀ (c f : Nat) (w : Word) (s : State) (x y : Block), x = s.asFound c → y = s.asWritten c →
    (∀ a d p r, w.bit 0 = true → y.links.rrd = false → a = rg y Reg.HOST_RRD_ADDR → d = a.fld 31 26 →
      (isHead y = true → d ≠ devOf y → y.links.route.find? (fun e => e.1 = d) = some (d, p, r) → linkSt y p = 2 →
        y.links.alt.contains p = false → ∃ u q, exec (.remoteRead c w) s = .next u ∧ u.pending = s.pending ∧
          u.blk.links.rrd = true ∧ rg u.blk Reg.HOST_RRD_CMD = 0#32 ∧
          spGet (fun _ => []) u.blk.links.replay p = spGet (fun _ => []) y.links.replay p ++ [q] ∧ q.dst = d ∧
          q.body = .rrdReq (a.fld 19 2 * 4) ∧ Keeps [.links] [Reg.HOST_RRD_CMD, Reg.LNK_L_CNT_PKT p] y u.blk) ∧
      (d = devOf y → (stepOf (a.fld 19 2 * 4)).isNone = true → a.fld 19 2 * 4 ≠ Reg.HOST_RRD_CMD →
        ∃ u, exec (.remoteRead c w) s = .next u ∧ u.pending = s.pending ∧
        rg u.blk Reg.HOST_RRD_DATA = (if isReg (a.fld 19 2 * 4) = false then 0#32
          else if isSnapped (a.fld 19 2 * 4) = true then snapOf y (a.fld 19 2 * 4)
          else hideReserved (a.fld 19 2 * 4) (liveReg y (a.fld 19 2 * 4))) ∧
        (∀ h ∈ snapsOf (a.fld 19 2 * 4), snapOf u.blk h = liveReg y h) ∧ rg u.blk Reg.HOST_RRD_CMD = 2#32)) ∧
    ((w.bit 0 = false ∨ y.links.rrd = true) →
      ∃ u, exec (.remoteRead c w) s = .next u ∧ u.pending = s.pending ∧ Keeps [] [] y u.blk) ∧
    (∀ ok, x.links.rrd = true → ∃ u, exec (.remoteReadDone c ok w) s = .next u ∧ u.pending = s.pending ∧
      u.blk.links.rrd = false ∧ rg u.blk Reg.HOST_RRD_DATA = (if ok = true then w else 0#32) ∧
      rg u.blk Reg.HOST_RRD_CMD = (if ok = true then 2#32 else 6#32) ∧ (rg u.blk Reg.HOST_ATTN_STATUS).bit 6 = true ∧
      Keeps [.links] [Reg.HOST_RRD_DATA, Reg.HOST_RRD_CMD] x u.blk) ∧
    (f < 64 → frameSt y f ≠ 1 →
      (∀ o n, ((o = exec (.frameMap c f) s ∧ n = 1) ∨ (o = exec (.frameFlush c f) s ∧ n = 1) ∨ (o = exec (.frameMapZero c f) s ∧ n = 2) ∨
          (o = exec (.frameUnmap c f) s ∧ n = 0)) →
        ∃ u, o = .next u ∧ u.pending = s.pending ∧ frameSt u.blk f = n ∧
          (n = 2 → (rg u.blk Reg.HOST_ATTN_STATUS).bit 5 = true) ∧
          (n = 1 → (u.blk.host.frameOp.find? (fun e => e.1 = f)).isSome = true) ∧
          Keeps [.host] [Reg.HOST_FRAME_CTRL f] y u.blk)) ∧
    (∀ o, f < 64 → frameSt y f = 1 →
      (o = exec (.frameMap c f) s ∨ o = exec (.frameMapZero c f) s ∨ o = exec (.frameFlush c f) s ∨ o = exec (.frameUnmap c f) s) →
      ∃ u, o = .next u ∧ u.pending = s.pending ∧ Keeps [] [] y u.blk) ∧
    (∀ base op bad, f < 64 → x.host.frameOp.find? (fun e => e.1 = f) = some (f, op, base) → base % 65536 = 0 →
      base < 0x3F8000000 → regionRefuses x base = false →
      (op = 1 → (∀ e ∈ bad, base ≤ e.1 → e.1 < base + 65536 → e.2 = .clean) → (∀ k, k < 1024 → x.mem.poison.contains (base / 64 + k) = false) →
        ∃ u, exec (.frameOpDone c f bad) s = .next u ∧ u.pending = s.pending ∧ frameSt u.blk f = 2 ∧
          (rg u.blk Reg.HOST_ATTN_STATUS).bit 5 = true ∧
          (∀ j, j < 65536 → rdByte u.blk.mems.win (frameAt f j) = rdByte x.mems.gddr (base + j)) ∧
          (∀ j, j < frameAt f 0 ∨ frameAt f 65536 ≤ j → rdByte u.blk.mems.win j = rdByte x.mems.win j) ∧
          Keeps [.win, .host] [Reg.HOST_FRAME_CTRL f] x u.blk) ∧
      (op = 1 → ((∃ e ∈ bad, base ≤ e.1 ∧ e.1 < base + 65536 ∧ e.2 = .uncorrectable) ∨
          ∃ k, k < 1024 ∧ x.mem.poison.contains (base / 64 + k) = true) →
        ∃ u, exec (.frameOpDone c f bad) s = .next u ∧ u.pending = s.pending ∧ frameSt u.blk f = 3 ∧
          (rg u.blk Reg.HOST_ATTN_STATUS).bit 5 = true ∧ u.blk.mems.gddr = x.mems.gddr) ∧
      (op = 3 → ∃ u, exec (.frameOpDone c f bad) s = .next u ∧ u.pending = s.pending ∧ frameSt u.blk f = 2 ∧
        (rg u.blk Reg.HOST_ATTN_STATUS).bit 5 = true ∧
        (∀ j, rdByte u.blk.mems.gddr j =
          if base ≤ j ∧ j < base + 65536 ∧ (f * 1024 + (j - base) / 64) ∈ x.host.touched
          then rdByte x.mems.win (frameAt f (j - base)) else rdByte x.mems.gddr j) ∧
        Keeps [.gddr, .mem, .host] [Reg.HOST_FRAME_CTRL f] x u.blk))

/-- With the port up, for each channel: none of these commands changes anything outside the port, but that a value which a
restricted mode register does not admit changes no mode register, sets HOST_STATUS.MODE_ERR and raises its event with the
register's number. A mode register that may be written, with a value that it admits, holds the low 8 bits written and is read
back; training steps are noted for their channel; refresh and ZQ commands count; self-refresh and power-down are entered, and
left where they hold; WRITE_FIFO holds its data; each leaves what the port holds beside. HOST_RESET_N, the port up or not,
clears mode registers and training, and nothing else. (From spec/16_host_port.md R358, spec/16_host_port.md R360,
spec/16_host_port.md R361, spec/16_host_port.md R362, spec/16_host_port.md R364.) -/
def Obligations.PortCommandsStayInThePort : Prop :=
  ∀ (c ch mr v : Nat) (d : List Byte) (s : State) (x : Block), x = s.asFound c → ch < 2 → mr < 256 →
    (x.pwr.port = true →
      (readOnlyMr mr = false → restrictedMr mr = false ∨ Config.modeAdmits mr (v % 256) = true →
        ∃ u, exec (.modeRegisterWrite c ch mr v) s = .next u ∧ u.pending = s.pending ∧ modeVal u.blk ch mr = v % 256 ∧
          (∀ h m, h < 2 → m < 256 → (h ≠ ch ∨ m ≠ mr) → modeVal u.blk h m = modeVal x h m) ∧
          { u.blk.host with modeRegs := x.host.modeRegs } = x.host ∧ Keeps [.host] [] x u.blk) ∧
      (readOnlyMr mr = true → ∃ u, exec (.modeRegisterWrite c ch mr v) s = .next u ∧ u.pending = s.pending ∧
        Keeps [] [] x u.blk) ∧
      (restrictedMr mr = true → Config.modeAdmits mr (v % 256) = false →
        ∃ u, exec (.modeRegisterWrite c ch mr v) s = .next u ∧ u.pending = s.pending ∧
          (rg u.blk Reg.HOST_STATUS).bit 0 = true ∧ (rg u.blk Reg.HOST_ATTN_STATUS).bit 7 = true ∧
          Raised [⟨0x98, mr, false, none⟩] x u.blk ∧ Keeps [.raised] [Reg.HOST_STATUS] x u.blk) ∧
      (∃ u, exec (.modeRegisterRead c ch mr) s = .next u ∧ u.pending = s.pending ∧
        u.blk.host = { x.host with mrData := modeVal x ch mr } ∧ Keeps [.host] [] x u.blk) ∧
      (∀ o n, ((o = exec (.commandBusTraining c ch) s ∧ n = 0) ∨ (o = exec (.wck2ckLevelling c ch) s ∧ n = 1) ∨
          (o = exec (.readDqCalibration c ch) s ∧ n = 2)) →
        ∃ u, o = .next u ∧ u.pending = s.pending ∧ nbit u.blk.host.trained (4 * ch + n) = true ∧
          (∀ j, j ≠ 4 * ch + n → nbit u.blk.host.trained j = nbit x.host.trained j) ∧
          { u.blk.host with trained := x.host.trained } = x.host ∧ Keeps [.host] [] x u.blk) ∧
      (∃ u, exec (.hostRefresh c ch) s = .next u ∧ u.pending = s.pending ∧
        u.blk.host = { x.host with refreshes := x.host.refreshes + 1 } ∧ Keeps [.host] [] x u.blk) ∧
      (∃ u, exec (.zqCalibration c ch) s = .next u ∧ u.pending = s.pending ∧
        u.blk.host = { x.host with zq := x.host.zq + 1 } ∧ Keeps [.host] [] x u.blk) ∧
      (∀ o m, ((o = exec (.selfRefreshEntry c ch) s ∧ m = .selfRefresh) ∨ (o = exec (.powerDownEntry c ch) s ∧ m = .powerDown) ∨
          (o = exec (.selfRefreshExit c ch) s ∧ m = if portMode x ch = .selfRefresh then .idle else portMode x ch) ∨
          (o = exec (.powerDownExit c ch) s ∧ m = if portMode x ch = .powerDown then .idle else portMode x ch)) →
        ∃ u, o = .next u ∧ u.pending = s.pending ∧ portMode u.blk ch = m ∧
          portMode u.blk (1 - ch) = portMode x (1 - ch) ∧
          { u.blk.host with port0 := x.host.port0, port1 := x.host.port1 } = x.host ∧ Keeps [.host] [] x u.blk) ∧
      (∃ u, exec (.writeFifo c ch d) s = .next u ∧ u.pending = s.pending ∧
        (∀ h, spGet (fun _ => []) u.blk.host.wrFifo h = if h = ch then d else spGet (fun _ => []) x.host.wrFifo h) ∧
        { u.blk.host with wrFifo := x.host.wrFifo } = x.host ∧ Keeps [.host] [] x u.blk)) ∧
    (∃ u, exec (.hostResetN c) s = .next u ∧ u.pending = s.pending ∧
      u.blk.host = { x.host with modeRegs := [], trained := 0 } ∧ Keeps [.host] [] x u.blk)

/-! ## Mutil links (spec/17) -/

/-- A training link whose far end has the system's ID and is the expected device comes UP, any other answer is MISMATCH; each
raises its event; a link in another state takes no answer. A link that goes down counts a retrain, leaves its primary routes
suspended, trains again where it is used and enabled, and those of its packets that have not been acknowledged, to a device
whose alternate link is UP, follow those of that link in their order. LNK_CTRL.RETRAIN does the same to a link that is UP, and
makes another one train. A NAK that names the i-th unacknowledged packet acknowledges those before it, keeps the rest in
order, counts one retry, with its event once per sheaf and link, and one timing choice per packet replayed. (That a link
retrains right after it went down, and how acknowledgements reach the part, is the model's, log entry 47.) (From
spec/17_multi_device.md R389, spec/17_multi_device.md R393, spec/17_multi_device.md R394, spec/17_multi_device.md R410,
spec/20_determinism_and_replay.md R471.) -/
def Obligations.LinksTrainComeUpAndFail : Prop :=
  ∀ (c l : Nat) (s : State) (x y : Block), x = s.asFound c → y = s.asWritten c → l < 4 →
    (∀ d k, linkSt x l = 1 →
      ((k = rg x Reg.LNK_SYS_ID ∧ d = linkFar x l) → ∃ u, exec (.linkUp c l d k) s = .next u ∧ u.pending = s.pending ∧
        linkSt u.blk l = 2 ∧ (∀ m, m ≠ l → linkSt u.blk m = linkSt x m) ∧ Raised [⟨0xA1, l, false, none⟩] x u.blk ∧
        Keeps [.links, .raised] [Reg.LNK_SYS] x u.blk) ∧
      (¬(k = rg x Reg.LNK_SYS_ID ∧ d = linkFar x l) → ∃ u, exec (.linkUp c l d k) s = .next u ∧ u.pending = s.pending ∧
        linkSt u.blk l = 3 ∧ (∀ m, m ≠ l → linkSt u.blk m = linkSt x m) ∧ Raised [⟨0xA3, l, false, none⟩] x u.blk ∧
        Keeps [.raised] [] x u.blk)) ∧
    (∀ d k, linkSt x l ≠ 1 → ∃ u, exec (.linkUp c l d k) s = .next u ∧ u.pending = s.pending ∧ Keeps [] [] x u.blk) ∧
    (∀ d a n, linkSt x l = 2 → a < 4 → linkSt x a = 2 → a ≠ l → x.links.route.find? (fun e => e.1 = d) = some (d, l, a) →
      (∀ p ∈ (replayOf x l).drop n, p.relay = none ∧ p.dst ≠ 64 ∧ p.dst = d) →
      ∃ u, exec (.linkDown c ⟨l, n⟩) s = .next u ∧ u.pending = s.pending ∧
        linkSt u.blk l = (if linkUsed x l && linkEn x l then 1 else 0) ∧ l ∈ u.blk.links.alt ∧ replayOf u.blk l = [] ∧
        replayOf u.blk a = replayOf x a ++ (replayOf x l).drop n ∧
        rg u.blk (Reg.LNK_L_CNT_RETRAIN l) = rg x (Reg.LNK_L_CNT_RETRAIN l) + 1#32 ∧
        rg u.blk (Reg.LNK_L_CNT_REROUTE a) = rg x (Reg.LNK_L_CNT_REROUTE a) + wd ((replayOf x l).drop n).length ∧
        Raised [⟨0xA0, l, false, none⟩] x u.blk ∧
        Keeps [.links, .raised] [Reg.LNK_SYS, Reg.LNK_L_CNT_RETRAIN l, Reg.LNK_L_CNT_REROUTE a, Reg.LNK_L_CNT_PKT a]
          x u.blk) ∧
    (∀ w : Word, (rg y Reg.LNK_SYS).fld 31 30 ≠ 0 → w.bit (4 + l) = true →
      (∀ m, m < 4 → m ≠ l → w.bit (4 + m) = false ∧ w.bit m = (rg y Reg.LNK_CTRL).bit m) →
      (linkSt y l = 2 → replayOf y l = [] → ∃ u, exec (.linkRetrain c w) s = .next u ∧ u.pending = s.pending ∧
        linkSt u.blk l = (if linkUsed y l && w.bit l then 1 else 0) ∧ (∀ m, m ≠ l → linkSt u.blk m = linkSt y m) ∧
        rg u.blk Reg.LNK_CTRL = w &&& 0x10F#32 ∧ l ∈ u.blk.links.alt ∧ Raised [⟨0xA0, l, false, none⟩] y u.blk ∧
        rg u.blk (Reg.LNK_L_CNT_RETRAIN l) = rg y (Reg.LNK_L_CNT_RETRAIN l) + 1#32 ∧
        Keeps [.links, .raised] [Reg.LNK_CTRL, Reg.LNK_SYS, Reg.LNK_L_CNT_RETRAIN l] y u.blk) ∧
      (linkSt y l ≠ 2 → ∃ u, exec (.linkRetrain c w) s = .next u ∧ u.pending = s.pending ∧
        linkSt u.blk l = (if linkUsed y l && w.bit l then 1 else 0) ∧ (∀ m, m ≠ l → linkSt u.blk m = linkSt y m) ∧
        rg u.blk Reg.LNK_CTRL = w &&& 0x10F#32 ∧ Keeps [.links] [Reg.LNK_CTRL, Reg.LNK_SYS] y u.blk)) ∧
    (∀ i d, linkSt x l = 2 → i < (replayOf x l).length →
      ∃ u, exec (.linkRetry c l i d) s = .next u ∧ u.pending = s.pending ∧ replayOf u.blk l = (replayOf x l).drop i ∧
        (∀ m, m ≠ l → replayOf u.blk m = replayOf x m) ∧
        rg u.blk (Reg.LNK_L_CNT_RETRY l) = rg x (Reg.LNK_L_CNT_RETRY l) + 1#32 ∧
        rg u.blk Reg.DBG_NONDET_COUNT = rg x Reg.DBG_NONDET_COUNT + wd ((replayOf x l).length - i) ∧
        Raised (if x.once.contains (0xA2, l) then [] else [⟨0xA2, l, false, none⟩]) x u.blk ∧
        Keeps [.links, .dbg, .raised] [Reg.LNK_L_CNT_RETRY l, Reg.DBG_NONDET_COUNT, Reg.DBG_NONDET_SRC,
          Reg.DBG_REC_CNT_LOST] x u.blk) ∧
    (∀ i d, linkSt x l ≠ 2 ∨ (replayOf x l).length ≤ i →
      ∃ u, exec (.linkRetry c l i d) s = .next u ∧ u.pending = s.pending ∧ Keeps [] [] x u.blk)

/-- By a link that is UP with no NAK pending, and with each packet the packets that the far end has acknowledged leave the
replay buffer: an answer to a remote read, in its turn, is taken and its triple awaits the next number; a packet that is early
waits, a copy of one already taken does nothing more, one that failed its CRC is noted, and one for another device goes out on
its route. Between a packet that failed its CRC and its replay, any other is discarded. A panicle packet in its turn writes
its bytes at the receiver's window and sends its cell a signal of its sender's context for each notification that it carries;
one that the window rejects is answered; with no place in its local queue it writes nothing and the receiver is dropped and
counted. A packet that is no panicle packet has no place there. (The acknowledgements and what the queues pass on come with the
packet, log entries 47 and 65.) (From spec/17_multi_device.md R391, spec/17_multi_device.md R393, spec/17_multi_device.md R394,
spec/17_multi_device.md R395, spec/17_multi_device.md R406, spec/17_multi_device.md R407, spec/17_multi_device.md R408,
spec/13_synchronisation.md R316.) -/
def Obligations.PacketsActInTheirOrder : Prop :=
  ∀ (c l n : Nat) (p : Packet) (full : Drained) (errs : List (Nat × EccStat)) (s : State) (x : Block), x = s.asFound c →
    (l < 4 → linkSt x l = 2 → x.links.nak.find? (fun e => e.1 = l) = none →
      (∀ k, p.relay = none → p.lost = [] → p.dst = devOf x → p.dst ≠ 64 → numHere x p = some k →
        (∀ q ∈ x.links.early, tripleOf q ≠ tripleOf p) → (∀ v ∈ x.links.voidRx, v.1 ≠ tripleOf p) →
        (∀ d, k = awaited x (tripleOf p) → p.body = .rrdAns d → x.links.rrd = true →
          ∃ u, exec (.linkPacketArrival c ⟨l, n⟩ true ⟨p, full, errs⟩) s = .next u ∧ u.pending = s.pending ∧
            rg u.blk Reg.HOST_RRD_DATA = d ∧ rg u.blk Reg.HOST_RRD_CMD = 2#32 ∧ u.blk.links.rrd = false ∧
            awaited u.blk (tripleOf p) = k + 1 ∧ u.blk.links.early = x.links.early ∧
            replayOf u.blk l = (replayOf x l).drop n ∧
            Keeps [.links] [Reg.HOST_RRD_DATA, Reg.HOST_RRD_CMD] x u.blk) ∧
        (awaited x (tripleOf p) < k → ∃ u, exec (.linkPacketArrival c ⟨l, n⟩ true ⟨p, full, errs⟩) s = .next u ∧
          u.pending = s.pending ∧ u.blk.links = { x.links with vcq := u.blk.links.vcq, pnq := u.blk.links.pnq, replay := u.blk.links.replay, early := x.links.early ++ [p] } ∧
          (∀ m, replayOf u.blk m = if m = l then (replayOf x l).drop n else replayOf x m) ∧ Keeps [.links] [] x u.blk) ∧
        (k < awaited x (tripleOf p) → ∃ u, exec (.linkPacketArrival c ⟨l, n⟩ true ⟨p, full, errs⟩) s = .next u ∧
          u.pending = s.pending ∧ u.blk.links = { x.links with vcq := u.blk.links.vcq, pnq := u.blk.links.pnq, replay := u.blk.links.replay } ∧
          (∀ m, replayOf u.blk m = if m = l then (replayOf x l).drop n else replayOf x m) ∧ Keeps [.links] [] x u.blk)) ∧
      (∃ u, exec (.linkPacketArrival c ⟨l, n⟩ false ⟨p, full, errs⟩) s = .next u ∧ u.pending = s.pending ∧
        u.blk.links = { x.links with vcq := u.blk.links.vcq, pnq := u.blk.links.pnq, replay := u.blk.links.replay, nak := x.links.nak ++ [(l, p)] } ∧
        (∀ m, replayOf u.blk m = if m = l then (replayOf x l).drop n else replayOf x m) ∧ Keeps [.links] [] x u.blk) ∧
      (∀ o a, p.relay = none → p.dst ≠ devOf x → p.dst ≠ 64 →
        x.links.route.find? (fun e => e.1 = p.dst) = some (p.dst, o, a) →
        linkSt x o = 2 → x.links.alt.contains o = false →
        ∃ u, exec (.linkPacketArrival c ⟨l, n⟩ true ⟨p, full, errs⟩) s = .next u ∧ u.pending = s.pending ∧
          replayOf u.blk o = (if o = l then (replayOf x l).drop n else replayOf x o) ++ [p] ∧
          Keeps [.links] [Reg.LNK_L_CNT_PKT o] x u.blk)) ∧
    (∀ q ok, l < 4 → linkSt x l = 2 → x.links.nak.find? (fun e => e.1 = l) = some (l, q) → p ≠ q →
      ∃ u, exec (.linkPacketArrival c ⟨l, n⟩ ok ⟨p, full, errs⟩) s = .next u ∧ u.pending = s.pending ∧
        u.blk.links = { x.links with vcq := u.blk.links.vcq, pnq := u.blk.links.pnq, replay := u.blk.links.replay } ∧
        (∀ m, replayOf u.blk m = if m = l then (replayOf x l).drop n else replayOf x m) ∧ Keeps [.links] [] x u.blk) ∧
    (∀ ok, l < 4 → linkSt x l ≠ 2 → ∃ u, exec (.linkPacketArrival c ⟨l, n⟩ ok ⟨p, full, errs⟩) s = .next u ∧
      u.pending = s.pending ∧ Keeps [] [] x u.blk) ∧
    (∀ q off bytes last incs ctx rs sm g k, p.body = .panicle q off bytes true last incs ctx rs sm → p.relay = none →
      p.lost = [] → p.dst = 64 → numHere x p = some k → k = awaited x (tripleOf p) →
      (∀ r ∈ x.links.early, tripleOf r ≠ tripleOf p) → (∀ v ∈ x.links.voidRx, v.1 ≠ tripleOf p) → panicleOf x q = some g →
      q < 16 → nbit g.mask (devOf x) = true → (pnSt x q).dropped = false → bytes ≠ [] →
      (pnqOf (drainQueues full x) q + bytes.length ≤ 4096 →
        (∀ t a, physOf x 0 g.slot = some t → glumeOk x t g.win off bytes.length true g.root = true →
          a = (frc x (Reg.TLR_GLUME_BASE t g.win)).fld 20 6 * 64 + off → rangeOn x t a (a + bytes.length - 1) = true →
          ∃ u, exec (.paniclePacket c ⟨p, errs⟩ full) s = .next u ∧ u.pending = s.pending ∧
            Wrote (t * 2 ^ 21 + a) bytes x.mems.spad u.blk.mems.spad ∧ awaited u.blk (tripleOf p) = k + 1 ∧
            pnqOf u.blk q = pnqOf (drainQueues full x) q + bytes.length ∧
            Sent (incs.map (fun i => ⟨6, x.now.via, 0, 4, p.src, g.cell, .pnSignal q ctx (some i)⟩)) x u.blk) ∧
        (∀ t l alt, physOf x 0 g.slot = some t → glumeOk x t g.win off bytes.length true g.root = false →
          outLink x p.src = some (l, alt) →
          ∃ u r, exec (.paniclePacket c ⟨p, errs⟩ full) s = .next u ∧ u.pending = s.pending ∧
            u.blk.mems.spad = x.mems.spad ∧ r ∈ replayOf u.blk l ∧ r.dst = p.src ∧ r.body = .glumeRej rs sm 4)) ∧
      (4096 < pnqOf (drainQueues full x) q + bytes.length →
        ∃ u, exec (.paniclePacket c ⟨p, errs⟩ full) s = .next u ∧ u.pending = s.pending ∧
          u.blk.mems.spad = x.mems.spad ∧ (pnSt u.blk q).dropped = true ∧ (rg u.blk (Reg.LNK_PN_STAT q)).bit 31 = true ∧
          rg u.blk Reg.LNK_CNT_MC_DROP = rg x Reg.LNK_CNT_MC_DROP + 1#32)) ∧
    ((∀ q off bytes first last incs ctx rs sm, p.body ≠ .panicle q off bytes first last incs ctx rs sm) →
      ∃ u, exec (.paniclePacket c ⟨p, errs⟩ full) s = .next u ∧ u.pending = s.pending ∧ Keeps [] [] x u.blk)

/-- At the head, once its base has loaded (before, a ring takes none: the model's reading, log entry 9), a result or SAFE record is
written at its ring's next place with SEQ, VALID and OVWR, a SAFE record on a ring of RSIZE 1 as its header alone; a forwarded event
waits for the end of the cycle with its words; at another device none of them does anything. A member with room in its
forwarding queue that has dropped records raises the event that tells how many; otherwise nothing is raised. An unreachability
notice counts, and raises its event for the first time for the device in the sheaf, with a request of the safe state where
LNK_CTRL bit 8 is set; one for a remote read ends it with ERR. (From spec/16_host_port.md R377, spec/16_host_port.md R382,
spec/17_multi_device.md R396, spec/17_multi_device.md R398, spec/17_multi_device.md R399, spec/17_multi_device.md R400,
spec/17_multi_device.md R401.) -/
def Obligations.RecordsEventsAndNoticesReachTheHead : Prop :=
  ∀ (c : Nat) (s : State) (x : Block), x = s.asFound c →
    (∀ r ws n ov, devOf x = 0 → (rg x Reg.SEQ_STATUS).fld 1 0 ≠ 0 → r < 16 → n = (rg x (Reg.HOST_RR_SEQ r)).toNat →
      ov = decide (2 ^ (frc x (Reg.HOST_RR_CFG r)).fld 27 24 ≤ subMod 32 n (rg x (Reg.HOST_RR_RD r)).toNat) →
      ∃ u, exec (.resultRecordArrival c r ws) s = .next u ∧ u.pending = s.pending ∧
        Wrote (rrAddr x r n) (wordBytes ((wAt ws 0 ||| wd (2 ^ 31 + b2n ov * 2 ^ 27)) :: wd n :: ws.drop 2))
          x.mems.win u.blk.mems.win ∧
        rg u.blk (Reg.HOST_RR_SEQ r) = wd (n + 1) ∧
        Raised (if ov && !x.once.contains (0x9A, r) then [⟨0x9A, r, false, none⟩] else []) x u.blk ∧
        Keeps [.win, .raised] [Reg.HOST_RR_SEQ r, Reg.HOST_RR_CNT_OVWR r] x u.blk) ∧
    (∀ (ws cut : List Word) (r : Nat), r = (rg x Reg.HOST_CTRL).fld 3 0 →
      cut = (if (frc x (Reg.HOST_RR_CFG r)).fld 20 12 ≤ 1 then ((wAt ws 0 &&& 0xFFFF0000#32) :: (ws.take 8).drop 1) else ws) →
      ws ≠ [] → ∃ u, exec (.safeRecordArrival c ws) s = .next u ∧ u.pending = s.pending ∧
        exec (.resultRecordArrival c r cut) s = .next u) ∧
    (∀ r ws, devOf x ≠ 0 ∨ 16 ≤ r ∨ (rg x Reg.SEQ_STATUS).fld 1 0 = 0 → ∃ u, exec (.resultRecordArrival c r ws) s = .next u ∧ u.pending = s.pending ∧
      Keeps [] [] x u.blk) ∧
    (∀ ws, (devOf x = 0 → ∃ u, exec (.eventForwardArrival c ws) s = .next u ∧ u.pending = s.pending ∧
        Raised [⟨(wAt ws 0).fld 31 24, (wAt ws 0).fld 11 0, (wAt ws 0).bit 17, some ws⟩] x u.blk ∧
        Keeps [.raised] [] x u.blk) ∧
      (devOf x ≠ 0 → ∃ u, exec (.eventForwardArrival c ws) s = .next u ∧ u.pending = s.pending ∧ Keeps [] [] x u.blk)) ∧
    (devOf x ≠ 0 → 0 < (s.shown c).lost → (s.shown c).fwdQ.length < 256 →
      ∃ u, exec (.evtLostForward c) s = .next u ∧ u.pending = s.pending ∧
        Raised [⟨0xA6, min 4095 (s.shown c).lost, false, none⟩] x u.blk ∧ Keeps [.raised] [] x u.blk) ∧
    (devOf x = 0 ∨ (s.shown c).lost = 0 ∨ 256 ≤ (s.shown c).fwdQ.length →
      ∃ u, exec (.evtLostForward c) s = .next u ∧ u.pending = s.pending ∧ Keeps [] [] x u.blk) ∧
    (∀ d safe, d < 64 → safe = (rg x Reg.LNK_CTRL).bit 8 →
      (∃ u, exec (.unreachNotice c d 0) s = .next u ∧ u.pending = s.pending ∧
        rg u.blk Reg.LNK_CNT_UNREACH = rg x Reg.LNK_CNT_UNREACH + 1#32 ∧ (rg u.blk Reg.LNK_STATUS).bit 18 = true ∧
        Raised (if x.once.contains (0xA4, d) then [] else [⟨0xA4, d, safe, none⟩]) x u.blk ∧
        u.blk.safe.req = x.safe.req ++ (if safe && !x.once.contains (0xA4, d) then [(16, d)] else []) ∧
        Keeps [.safe, .raised] [Reg.LNK_CNT_UNREACH] x u.blk) ∧
      (x.links.rrd = true → ∃ u, exec (.unreachNotice c d 1) s = .next u ∧ u.pending = s.pending ∧
        rg u.blk Reg.LNK_CNT_UNREACH = rg x Reg.LNK_CNT_UNREACH + 1#32 ∧ u.blk.links.rrd = false ∧
        rg u.blk Reg.HOST_RRD_CMD = 6#32 ∧ rg u.blk Reg.HOST_RRD_DATA = 0#32))

/-! ## The loader and the units (spec/18) -/

/-- LOAD in IDLE copies the object, of which at most 128 MiB count, to the staging region and begins its checks, remembering whether
a unit that it had to read was poisoned or could not be read (then SIGNATURE rejects it, the model's choice, log entry 29); in
another state it only sets CMD_ERR. Of an object in checking whose copy reads clean: VERIFY is shown as it begins; one that fails a
check leaves IDLE with the first failing REASON and SECTION, counts a rejection, raises its event and changes nothing else but
that nothing is being loaded; one that passes is in WRITE, of a base with the latent-fault test RUNNING, or at the end has
been accepted: a base sets CFG_BASE_VER and the base hash, a partial is READY with its version, content and hash. With nothing
being loaded LOAD_DONE does nothing. COMMIT names the target sheaf in CFG_COMMIT, COMMIT_NEXT none, each in this cycle; ABANDON
leaves nothing READY, STATE no longer READY, and the partition RESIDENT; with nothing READY the three do nothing. ATTEST in IDLE
or READY takes the 64-byte nonce, and in another state does nothing; its end writes the report with its signature, and no other
byte (with a region in the way the nonce is zeros and no report stands, the model's choice, log entry 29). (From
spec/18_configuration_bitstream.md R416, spec/18_configuration_bitstream.md R417, spec/18_configuration_bitstream.md R419,
spec/18_configuration_bitstream.md R425, spec/19_safety.md R453, spec/21_gddr6_memory.md R485.) -/
def Obligations.ObjectsLoadCommitAndAttest : Prop :=
  ∀ (c : Nat) (s : State) (x y : Block), x = s.asFound c → y = s.asWritten c →
    (∀ a n k, a = (rg y Reg.CFG_LOAD_HI).fld 1 0 * 2 ^ 32 + (rg y Reg.CFG_LOAD_LO).toNat → n = (rg y Reg.CFG_LOAD_LEN).toNat →
      k = min n (2 ^ 27) → cfgSt y = 0 → ∃ u bad, exec (.cfgLoad c) s = .next u ∧ u.pending = s.pending ∧ cfgSt u.blk = 1 ∧
      u.blk.cfg = { y.cfg with loading := some ⟨a, n, bad, none⟩ } ∧
      (0 < k → (bad = true ↔ (∃ v ∈ y.mem.poison, v * 64 < a + k ∧ a < (v + 1) * 64) ∨ spanRefuses y a k = true ∨ 2 ^ 34 < a + k)) ∧
      Wrote stagingBase (gdRd y a k) y.mems.gddr u.blk.mems.gddr ∧ (bad = false → Raised [] y u.blk) ∧
      Keeps [.gddr, .mem, .cfg, .raised] [Reg.CFG_STATUS, Reg.MEM_CNT_UE, Reg.MEM_ECC_LAST, Reg.MEM_STATUS] y u.blk) ∧
    (cfgSt y ≠ 0 → ∃ u, exec (.cfgLoad c) s = .next u ∧ u.pending = s.pending ∧
      rg u.blk Reg.CFG_STATUS = rg y Reg.CFG_STATUS ||| 0x100#32 ∧ Keeps [] [Reg.CFG_STATUS] y u.blk) ∧
    (∀ con errs j, x.cfg.loading = some j → ∃ u, exec (.loadDone c con errs .verify) s = .next u ∧ u.pending = s.pending ∧
      cfgSt u.blk = (if cfgSt x = 1 then 2 else cfgSt x) ∧ Keeps [] [Reg.CFG_STATUS] x u.blk) ∧
    (∀ con step lft j x' o, (step = .write ∨ step = .ended lft) → x.cfg.loading = some j → j.con = none →
      (∀ v ∈ x.mem.poison, v * 64 + 64 ≤ stagingBase ∨ stagingBase + min j.len (2 ^ 27) ≤ v * 64) →
      x' = { x with cfg := { x.cfg with loading := none } } → o = gdRd x stagingBase j.len →
      (∀ why sec, why < 16 → sec < 256 →
        (objectBad x' o j.len [0, 1, 2] j.bad = some (why, sec) ∨
          (objectBad x' o j.len [0, 1, 2] j.bad = none ∧ streamBad x' o con = some (why, sec))) →
        ∃ u, exec (.loadDone c con [] step) s = .next u ∧ u.pending = s.pending ∧ cfgSt u.blk = 0 ∧
          (rg u.blk Reg.CFG_STATUS).fld 27 24 = why ∧ (rg u.blk Reg.CFG_STATUS).fld 23 16 = sec ∧
          rg u.blk Reg.CFG_CNT_REJECT = rg x Reg.CFG_CNT_REJECT + 1#32 ∧
          u.blk.cfg = x'.cfg ∧ Raised [⟨0xA8, sec * 16 + why, false, none⟩] x u.blk ∧
          Keeps [.cfg, .raised] [Reg.CFG_STATUS, Reg.CFG_CNT_REJECT] x u.blk) ∧
      (objectBad x' o j.len [0, 1, 2] j.bad = none → streamBad x' o con = none → step = .write →
        ∃ u, exec (.loadDone c con [] step) s = .next u ∧ u.pending = s.pending ∧ cfgSt u.blk = 3 ∧
          u.blk.cfg = { x.cfg with loading := some { j with con := some con } } ∧
          rg u.blk Reg.SAFE_LFT = (if oKind o = 0 then 1#32 else rg x Reg.SAFE_LFT) ∧
          Keeps [.cfg] [Reg.CFG_STATUS, Reg.SAFE_LFT] x u.blk)) ∧
    (∀ con con' lft j x' o, x.cfg.loading = some j → x' = { x with cfg := { x.cfg with loading := none } } →
      o = gdRd x stagingBase j.len →
      (j.con = some con ∨ (j.con = none ∧ con = con' ∧
        (∀ v ∈ x.mem.poison, v * 64 + 64 ≤ stagingBase ∨ stagingBase + min j.len (2 ^ 27) ≤ v * 64) ∧
        objectBad x' o j.len [0, 1, 2] j.bad = none ∧ streamBad x' o con = none)) →
        (oKind o = 0 → ∃ u, exec (.loadDone c con' [] (.ended lft)) s = .next u ∧ u.pending = s.pending ∧
          rg u.blk Reg.CFG_BASE_VER = oVersion o ∧ u.blk.cfg.baseHash = sha512 o ∧ u.blk.cfg.ready = none) ∧
        (oKind o = 1 → ∃ u, exec (.loadDone c con' [] (.ended lft)) s = .next u ∧ u.pending = s.pending ∧ cfgSt u.blk = 4 ∧
          u.blk.cfg.ready = some ⟨oPart o, oVersion o, con, sha512 o⟩ ∧ u.blk.cfg.commit = none ∧
          (rg u.blk (Reg.CFG_PART_STAT (oPart o))).fld 31 30 = 2)) ∧
    (∀ con e step, (x.cfg.loading = none ∨ (step = .write ∧ ∃ j, x.cfg.loading = some j ∧ j.con.isSome = true)) →
      ∃ u, exec (.loadDone c con e step) s = .next u ∧ u.pending = s.pending ∧ Keeps [] [] x u.blk) ∧
    (y.cfg.ready = none → ∀ o, (o = exec (.cfgCommit c) s ∨ o = exec (.cfgCommitNext c) s ∨ o = exec (.cfgAbandon c) s) →
      ∃ u, o = .next u ∧ u.pending = s.pending ∧ Keeps [] [] y u.blk) ∧
    (∀ r, y.cfg.ready = some r →
      (∃ u, exec (.cfgCommit c) s = .next u ∧ u.pending = s.pending ∧
        u.blk.cfg = { y.cfg with commit := some (some (rg y Reg.CFG_COMMIT).toNat, y.pwr.ccy) } ∧ Keeps [.cfg] [] y u.blk) ∧
      (∃ u, exec (.cfgCommitNext c) s = .next u ∧ u.pending = s.pending ∧
        u.blk.cfg = { y.cfg with commit := some (none, y.pwr.ccy) } ∧ Keeps [.cfg] [] y u.blk) ∧
      (∃ u, exec (.cfgAbandon c) s = .next u ∧ u.pending = s.pending ∧
        u.blk.cfg = { y.cfg with ready := none, commit := none } ∧ cfgSt u.blk = (if cfgSt y = 4 then 0 else cfgSt y) ∧
        (rg u.blk (Reg.CFG_PART_STAT r.part)).fld 31 30 = 1 ∧
        Keeps [.cfg] [Reg.CFG_STATUS, Reg.CFG_PART_STAT r.part] y u.blk)) ∧
    ((cfgSt y = 0 ∨ cfgSt y = 4) → ∃ u, exec (.cfgAttest c) s = .next u ∧ u.pending = s.pending ∧ cfgSt u.blk = 5 ∧
      u.blk.cfg = { y.cfg with nonce := if spanRefuses y (reportAt y) 64 then [] else gdRd y (reportAt y) 64 } ∧
      Keeps [.cfg] [Reg.CFG_STATUS] y u.blk) ∧
    (cfgSt y ≠ 0 → cfgSt y ≠ 4 → ∃ u, exec (.cfgAttest c) s = .next u ∧ u.pending = s.pending ∧ Keeps [] [] y u.blk) ∧
    (cfgSt x ≠ 5 → ∃ u, exec (.attestDone c) s = .next u ∧ u.pending = s.pending ∧ Keeps [] [] x u.blk) ∧
    (cfgSt x = 5 → ∃ u, exec (.attestDone c) s = .next u ∧ u.pending = s.pending ∧
      cfgSt u.blk = (if x.cfg.ready.isSome then 4 else 0) ∧ (rg u.blk Reg.CFG_STATUS).bit 9 = true ∧
      (spanRefuses x (reportAt x) 1408 = false →
        Wrote (reportAt x) (reportBody x ++ padTo 512 (Config.idSign x.cfg.idHash (reportBody x))) x.mems.gddr u.blk.mems.gddr ∧
        (reportBody x).length = 896) ∧
      (spanRefuses x (reportAt x) 1408 = true → Keeps [] [Reg.CFG_STATUS] x u.blk) ∧
      Keeps [.gddr, .mem] [Reg.CFG_STATUS] x u.blk)

/-- FENCE of a mapped slot makes its unit FENCED and unmapped, increments the slot's epoch and raises its event; of an
unmapped one it only sets CMD_ERR, and so does SWAP. 17 cycles later the flush of a fenced tiller takes the fence off the
list, ends its current task and leaves the task's invocation done. SWAP with a SPARE unit there notes the wait of the slot for
it; without one it sets CMD_ERR and raises NO_SPARE. READMIT makes a FENCED unit CLEARING, and of another sets CMD_ERR; at the
end of a cycle a DRAINING unit that has nothing left of what it opened is CLEARING, and no other unit changes. The
end of clearing of a CLEARING unit, for a tiller not before its scratchpad can have been filled, makes it SPARE, a tiller's core
and slots reset, its scratchpad zero and every other byte of every scratchpad as before, of a pyramid engine only its level
store, of another unit nothing (what clearing leaves of a vision unit, and when it ends, is the model's, log entry 29). The end
of a reload, 1 024 cycles after it began, puts the slot's image, its length and its version into the tiller's instruction
memory, and changes no other tiller's. Before its time each does nothing. (From spec/18_configuration_bitstream.md R425,
spec/18_configuration_bitstream.md R428, spec/18_configuration_bitstream.md R430, spec/18_configuration_bitstream.md R431,
spec/18_configuration_bitstream.md R432, spec/18_configuration_bitstream.md R435.) -/
def Obligations.UnitsAreFencedSwappedAndCleared : Prop :=
  ∀ (c k n : Nat) (s : State) (x y : Block), x = s.asFound c → y = s.asWritten c →
    (∀ p, slotOk k n = true → physOf y k n = some p →
      (∃ u, exec (.unitFence c k n) s = .next u ∧ u.pending = s.pending ∧
        (unitOf u.blk k p).st = 3 ∧ (unitOf u.blk k p).slot = 0x3F ∧ slotEpoch u.blk k n = (slotEpoch y k n + 1) % 256 ∧
        (k = 0 → tState u.blk p = 4 ∧ slotOfT u.blk p = 0x3F) ∧ (k, n, p, y.pwr.ccy) ∈ u.blk.cfg.fences ∧
        Raised [⟨0xAB, k * 64 + n, false, none⟩] y u.blk ∧ Keeps [.cfg, .raised] [Reg.TLR_ID p] y u.blk) ∧
      (anySpare y k = true → ∃ u, exec (.unitSwap c k n) s = .next u ∧ u.pending = s.pending ∧
        (∃ w ∈ u.blk.cfg.waits, w.cls = k ∧ w.slot = n ∧ w.old = p ∧ w.swap = true ∧ w.c = some y.pwr.ccy) ∧
        u.blk.cfg.units = y.cfg.units ∧ Keeps [.cfg] [] y u.blk) ∧
      (anySpare y k = false → ∃ u, exec (.unitSwap c k n) s = .next u ∧ u.pending = s.pending ∧
        (rg u.blk Reg.CFG_STATUS).bit 8 = true ∧ Raised [⟨0xAE, k * 64 + n, false, none⟩] y u.blk ∧
        Keeps [.raised] [Reg.CFG_STATUS] y u.blk)) ∧
    (slotOk k n = false ∨ physOf y k n = none → ∀ o, (o = exec (.unitFence c k n) s ∨ o = exec (.unitSwap c k n) s) →
      ∃ u, o = .next u ∧ u.pending = s.pending ∧
        (rg u.blk Reg.CFG_STATUS).bit 8 = true ∧ Keeps [] [Reg.CFG_STATUS] y u.blk) ∧
    (∀ f t, x.cfg.fences.find? (fun f => decide (f.1 = 0 ∧ f.2.1 = n ∧ f.2.2.2 + 17 = x.pwr.ccy)) = some f →
      (tl x f.2.2.1).task = some t →
      ∃ u, exec (.fenceFlush c 0 n) s = .next u ∧ u.pending = s.pending ∧ (tl u.blk f.2.2.1).task = none ∧
        (tl u.blk f.2.2.1).blocked = .none ∧ f ∉ u.blk.cfg.fences ∧
        (∀ v, findInv x t.stage t.line = some v → (findInv u.blk t.stage t.line).map (·.done) = some true)) ∧
    (x.cfg.fences.find? (fun f => decide (f.1 = k ∧ f.2.1 = n ∧ f.2.2.2 + 17 = x.pwr.ccy)) = none →
      ∃ u, exec (.fenceFlush c k n) s = .next u ∧ u.pending = s.pending ∧ Keeps [] [] x u.blk) ∧
    ((k < 6 → n < classSize k → (unitOf y k n).st = 3 →
        ∃ u, exec (.unitReadmit c k n) s = .next u ∧ u.pending = s.pending ∧
          unitOf u.blk k n = { unitOf y k n with st := 5, since := y.pwr.ccy } ∧ Keeps [.cfg] [] y u.blk) ∧
      (6 ≤ k ∨ classSize k ≤ n ∨ (unitOf y k n).st ≠ 3 →
        ∃ u, exec (.unitReadmit c k n) s = .next u ∧ u.pending = s.pending ∧
          (rg u.blk Reg.CFG_STATUS).bit 8 = true ∧ Keeps [] [Reg.CFG_STATUS] y u.blk)) ∧
    (∀ b : Block, k < 6 → n < classSize k → keysRising b.cfg.units = true → unitOf (drainUnits b) k n =
      (if (unitOf b k n).st = 4 ∧ (k = 0 → (tl b n).task = none) ∧ inFlightOn b k n = [] then
        { unitOf b k n with st := 5, since := b.pwr.ccy } else unitOf b k n)) ∧
    (k < 6 → n < classSize k → (k = 0 → (unitOf x k n).since + 32768 ≤ x.pwr.ccy) → (unitOf x k n).st = 5 →
      ∃ u, exec (.clearDone c k n) s = .next u ∧ u.pending = s.pending ∧
        unitOf u.blk k n = { unitOf x k n with st := 2, slot := 0x3F, was := 0x3F } ∧
        (k = 0 → tl u.blk n = Tiller.init ∧
          (∀ j, rdByte u.blk.mems.spad j = if j / 2 ^ 21 = n then 0#8 else rdByte x.mems.spad j) ∧
          Keeps [.cfg, .tlr, .spad, .imem] [Reg.TLR_ID n] x u.blk) ∧
        (k = 2 → u.blk.pyr = spErase n x.pyr) ∧ (k ≠ 0 → Keeps ([.cfg] ++ if k = 2 then [.pyr] else []) [] x u.blk)) ∧
    ((unitOf x k n).st ≠ 5 ∨ (k = 0 ∧ x.pwr.ccy < (unitOf x k n).since + 32768) →
      ∃ u, exec (.clearDone c k n) s = .next u ∧ u.pending = s.pending ∧ Keeps [] [] x u.blk) ∧
    (∀ m, n < 36 → x.cfg.reload.any (fun e => decide (e.1 = n ∧ e.2 + 1024 ≤ x.pwr.ccy)) = true → m = slotOfT x n →
      m < 32 → ∃ u, exec (.firmwareReloadDone c n) s = .next u ∧ u.pending = s.pending ∧
        (∀ e ∈ u.blk.cfg.reload, e.1 ≠ n) ∧
        (tl u.blk n).imgLen = (spGet (fun _ => (0, 0#32)) x.cfg.imgs m).1 ∧
        rg u.blk (Reg.TLR_FW_VER n) = (spGet (fun _ => (0, 0#32)) x.cfg.imgs m).2 ∧
        (∀ j, rdByte u.blk.mems.imem j =
          if j / 2 ^ 16 = n then rdByte x.mems.image (m * 2 ^ 16 + j % 2 ^ 16) else rdByte x.mems.imem j) ∧
        Keeps [.cfg, .tlr, .imem] [Reg.TLR_FW_VER n] x u.blk) ∧
    (x.cfg.reload.any (fun e => decide (e.1 = n ∧ e.2 + 1024 ≤ x.pwr.ccy)) = false →
      ∃ u, exec (.firmwareReloadDone c n) s = .next u ∧ u.pending = s.pending ∧ Keeps [] [] x u.blk)

/-! ## The safe state, the recorder, and GDDR6 (spec/19 to spec/21) -/

/-- The waiting requests, a mismatch of Chombe (cause 10) and the loss of the core clock (cause 11): from START (the model's
reading, log entry 9) or NORMAL they make the state SAFE, with SAFE_N low, the lowest cause and its ARG in SAFE_FIRST, the
position in SAFE_POS, every cause added to SAFE_CAUSE and one more entry counted; those after the lowest find the part in SAFE
and each counts in SAFE_CNT_REQ (log entry 10); and, while the core runs on the head with a base loaded, a SAFE record stands at
the ring's next place; in SAFE they add their causes, count, and raise an event each. FORCE queues a request of cause 1. CLEAR in SAFE, with the
timebase DISABLED or STOPPED, no cause held until reset, no condition in force and SAFE not entered in this very cycle, makes
the state NORMAL with no cause left, or SAFE again where a request was latched in this cycle; otherwise it sets CFG_ERR.
Either write sets the SH fields only while SEQ_CTRL.EN is 0. A self-test of a spare that may be used begins and reports, and a
unit that fails is FENCED; of another unit it sets CFG_ERR. (From spec/19_safety.md R438, spec/19_safety.md R452,
spec/19_safety.md R455, spec/19_safety.md R459, spec/19_safety.md R460, spec/19_safety.md R461, spec/19_safety.md R462.) -/
def Obligations.SafeStateIsEnteredAndLeft : Prop :=
  ∀ (c : Nat) (s : State) (x y : Block) (r n : Nat), x = s.asFound c → y = s.asWritten c → r = (rg x Reg.HOST_CTRL).fld 3 0 →
    n = (rg x (Reg.HOST_RR_SEQ r)).toNat →
    (∀ o l k a core, ((o = exec (.safeDetect c) s ∧ l = x.safe.req ∧ core = x.pwr.core) ∨
        (o = exec (.chombeMismatch c) s ∧ l = [(10, 0)] ∧ core = x.pwr.core) ∨ (o = exec (.coreClkLoss c) s ∧ l = [(11, 0)] ∧ core = false)) →
      (k, a) ∈ l → (∀ q ∈ l, (q = (k, a) ∨ k < q.1) ∧ q.1 < 19) → a < 4096 →
      (safeState x ≠ 2 → (core = false ∨ devOf x = 0) → ∃ u, o = .next u ∧ u.pending = s.pending ∧
        u.blk.pwr.unmarked = { x.pwr with core := core }.unmarked ∧
        safeState u.blk = 2 ∧ (x.pwr.low ≠ some 1 → x.pwr.low ≠ some 4 → u.pub.safeN = .low) ∧ rg u.blk Reg.SAFE_FIRST = wd (a * 2 ^ 16 + k) ∧
        rg u.blk Reg.SAFE_POS_LO = wd x.tb.pos ∧ rg u.blk Reg.SAFE_POS_HI = wd (x.tb.pos / 2 ^ 32 % 2 ^ 16) ∧
        rg u.blk Reg.SAFE_CNT_ENTRY = rg x Reg.SAFE_CNT_ENTRY + 1#32 ∧
        rg u.blk Reg.SAFE_CNT_REQ = rg x Reg.SAFE_CNT_REQ + wd (l.length - 1) ∧
        (∀ j, j < 19 → (rg u.blk Reg.SAFE_CAUSE).bit j = ((rg x Reg.SAFE_CAUSE).bit j || l.any (fun q => decide (q.1 = j)))) ∧
        (∃ e, Raised (⟨0xB0, k, false, none⟩ :: e) x u.blk) ∧
        (core = true → (rg x Reg.SEQ_STATUS).fld 1 0 ≠ 0 → rg u.blk (Reg.HOST_RR_SEQ r) = wd (n + 1) ∧
          (2 ≤ (frc x (Reg.HOST_RR_CFG r)).fld 20 12 → ∃ ws : List Word,
            Wrote (rrAddr x r n) (wordBytes ws) x.mems.win u.blk.mems.win ∧ ws.length = 16 ∧
            (wAt ws 0).bit 31 = true ∧ (wAt ws 0).fld 30 28 = 2 ∧ (wAt ws 0).fld 15 0 = 32 ∧ wAt ws 1 = wd n ∧
            wAt ws 2 = wd x.tb.frontier ∧ (wAt ws 3).bit 31 = true ∧ (wAt ws 3).fld 30 27 = 6 ∧
            wAt ws 8 = wd k ∧ wAt ws 9 = wd a ∧ wAt ws 10 = wd x.tb.pos ∧ wAt ws 12 = rg u.blk Reg.SAFE_CAUSE)) ∧
        Keeps [.safe, .win, .pwr, .raised] [Reg.SAFE_STATUS, Reg.SAFE_CAUSE, Reg.SAFE_FIRST, Reg.SAFE_POS_LO, Reg.SAFE_POS_HI,
          Reg.SAFE_CNT_ENTRY, Reg.SAFE_CNT_REQ, Reg.HOST_RR_SEQ r, Reg.HOST_RR_CNT_OVWR r] x u.blk) ∧
      (safeState x = 2 → ∃ u, o = .next u ∧ u.pending = s.pending ∧ safeState u.blk = 2 ∧
        u.blk.pwr.unmarked = { x.pwr with core := core }.unmarked ∧
        rg u.blk Reg.SAFE_CNT_REQ = rg x Reg.SAFE_CNT_REQ + wd l.length ∧
        (∀ j, j < 19 → (rg u.blk Reg.SAFE_CAUSE).bit j = ((rg x Reg.SAFE_CAUSE).bit j || l.any (fun q => decide (q.1 = j)))) ∧
        (l = [(k, a)] → Raised [⟨0xB8, k, false, none⟩] x u.blk) ∧
        Keeps [.safe, .pwr, .raised] [Reg.SAFE_CAUSE, Reg.SAFE_CNT_REQ] x u.blk)) ∧
    (x.safe.req = [] → ∃ u, exec (.safeDetect c) s = .next u ∧ u.pending = s.pending ∧ Keeps [] [] x u.blk) ∧
    (∀ w : Word, w.bit 0 = false → ∃ u, exec (.safeForce c w) s = .next u ∧ u.pending = s.pending ∧
      u.blk.safe.req = y.safe.req ++ [(1, 0)] ∧ safeState u.blk = safeState y ∧
      (∀ h ∈ [(17, 16), (13, 12), (8, 8)], (rg u.blk Reg.SAFE_CTRL).fld h.1 h.2 =
        if (rg y Reg.SEQ_CTRL).bit 0 then (rg y Reg.SAFE_CTRL).fld h.1 h.2 else w.fld h.1 h.2) ∧
      Raised (if (rg y Reg.SEQ_CTRL).bit 0 && shDiffers y Reg.SAFE_CTRL w then [⟨0xB9, 0, false, none⟩] else []) y u.blk ∧
      Keeps [.force, .prev, .safe, .raised] [Reg.SAFE_CTRL, Reg.SAFE_STATUS] y u.blk) ∧
    (∀ (w : Word) q ok, w.bit 1 = false → q = (rg y Reg.HOST_CTRL).fld 3 0 → ok = (clearOk y && decide (y.safe.since ≠ some y.pwr.ccy)) →
      (ok = true → (y.pwr.core = false ∨ devOf y = 0) →
        (y.now.reqs = [] → ∃ u, exec (.safeClear c w) s = .next u ∧ u.pending = s.pending ∧
          safeState u.blk = 1 ∧ rg u.blk Reg.SAFE_CAUSE = 0#32 ∧ (y.pwr.low ≠ some 1 → y.pwr.low ≠ some 4 →
            (u.pub.safeN = .high ↔ y.pwr.held = false ∧ y.safe.clkSeen = true)) ∧
          (∃ e, Raised (e ++ [⟨0xB1, 0, false, none⟩]) y u.blk) ∧
          Keeps [.force, .prev, .safe, .win, .raised] ([Reg.SAFE_CTRL, Reg.SAFE_STATUS, Reg.SAFE_CAUSE, Reg.HOST_RR_SEQ q,
            Reg.HOST_RR_CNT_OVWR q] ++ (upFrom 0 16).map Reg.SAFE_WCH_STAT) y u.blk) ∧
        (y.now.reqs ≠ [] → ∃ u, exec (.safeClear c w) s = .next u ∧ u.pending = s.pending ∧ safeState u.blk = 2 ∧
          u.pub.safeN ≠ .high)) ∧
      (ok = false → ∃ u, exec (.safeClear c w) s = .next u ∧ u.pending = s.pending ∧ safeState u.blk = safeState y ∧
          (rg u.blk Reg.SAFE_STATUS).bit 8 = true ∧ rg u.blk Reg.SAFE_CAUSE = rg y Reg.SAFE_CAUSE ∧
          (∃ e, Raised (e ++ [⟨0xB9, 0, false, none⟩]) y u.blk) ∧
          Keeps [.force, .prev, .raised] [Reg.SAFE_CTRL, Reg.SAFE_STATUS] y u.blk)) ∧
    (∀ k p ok, ok = decide (k < 6 ∧ p < classSize k ∧ isSpare y k p = true ∧ (rg y Reg.SAFE_STEST_STAT).fld 1 0 ≠ 1) →
      (ok = true → ∃ u, exec (.selfTestGo c k p) s = .next u ∧ u.pending = s.pending ∧
        (rg u.blk Reg.SAFE_STEST_STAT).fld 1 0 = 1 ∧ (rg u.blk Reg.SAFE_STEST_STAT).fld 23 20 = k ∧
        (rg u.blk Reg.SAFE_STEST_STAT).fld 7 2 = p ∧ Keeps [] [Reg.SAFE_STEST_STAT] y u.blk) ∧
      (ok = false → ∃ u, exec (.selfTestGo c k p) s = .next u ∧ u.pending = s.pending ∧
        (rg u.blk Reg.SAFE_STATUS).bit 8 = true ∧ Raised [⟨0xB9, 0, false, none⟩] y u.blk ∧
        Keeps [.raised] [Reg.SAFE_STATUS] y u.blk)) ∧
    (∀ k p pass, k = (rg x Reg.SAFE_STEST_STAT).fld 23 20 → p = (rg x Reg.SAFE_STEST_STAT).fld 7 2 →
      ((rg x Reg.SAFE_STEST_STAT).fld 1 0 = 1 →
        ∃ u, exec (.selfTestDone c pass) s = .next u ∧ u.pending = s.pending ∧
          (rg u.blk Reg.SAFE_STEST_STAT).fld 1 0 = (if pass = true then 2 else 3) ∧
          Raised [⟨0xB7, k * 64 + p, false, none⟩] x u.blk ∧
          (pass = true → Keeps [.raised] [Reg.SAFE_STEST_STAT] x u.blk) ∧
          (pass = false → (unitOf u.blk k p).st = 3 ∧ Keeps [.cfg, .raised] [Reg.SAFE_STEST_STAT, Reg.TLR_ID p] x u.blk)) ∧
      ((rg x Reg.SAFE_STEST_STAT).fld 1 0 ≠ 1 →
        ∃ u, exec (.selfTestDone c pass) s = .next u ∧ u.pending = s.pending ∧ Keeps [] [] x u.blk))

/-- DBG_REC_CTRL.EN from 0 to 1, with domain 141 ON, latches the masks and makes the queue one START record with the
determinism CRC and MIDRUN; while that domain is not ON the EN written is ignored. EN from 1 to 0 adds a STOP record. A LOST
record carries the number dropped and its event follows. DBG_RPL_CTRL.EN of 1 is accepted only with TB_CTRL.EN and the
recorder's EN 0 and a START record with MIDRUN 0 at offset 0, else it sets CFG_ERR. EN of 0 ends replay. In replay, past the
PAD records, in the cycle that the next record names: one that is absent is FAIL with its event, and one whose cycle is past too; a LATE, DIGEST, SHEAF or LOST
record only moves the read offset; a HOST record of a whole command-ring word writes it; STOP is DONE. Before that
cycle nothing happens; at the ring's end replay is DONE. (That a write is applied after the commands of its cycle, and when the
model's recorder and replay act within a cycle, is log entry 52.) (From spec/20_determinism_and_replay.md R472,
spec/20_determinism_and_replay.md R473, spec/20_determinism_and_replay.md R474, spec/20_determinism_and_replay.md R475,
spec/20_determinism_and_replay.md R476, spec/22_power_clocks_reset.md R508.) -/
def Obligations.RecordingStartsStopsAndReplays : Prop :=
  ∀ (c : Nat) (s : State) (x y : Block) (mark : Block → Nat → Word → Word → List Byte), x = s.asFound c → y = s.asWritten c →
    mark = (fun z sub a b => wordBytes [wd (6 * 2 ^ 28 + sub * 2 ^ 24), wd z.pwr.ccy, wd (z.pwr.ccy / 2 ^ 32), wd z.tb.frontier,
      wd (z.tb.frontier / 2 ^ 32 % 4096), a, b, 0#32]) →
    (∀ w, recOn y = false → w.bit 31 = true →
      (domSt y 141 = 0 → ∃ u, exec (.recStart c w) s = .next u ∧ u.pending = s.pending ∧
        rg u.blk Reg.DBG_REC_CTRL = w &&& 0x8FF0000F#32 ∧ u.blk.dbg.mask = w.fld 3 0 ∧ u.blk.dbg.cam = w.fld 27 20 ∧
        u.blk.dbg.midrun = tbEn y ∧ u.blk.dbg.queue = [mark y 0 (rg y Reg.DBG_DSET_CRC) (wd (b2n (tbEn y)))] ∧
        Keeps [.dbg] [Reg.DBG_REC_CTRL] y u.blk) ∧
      (domSt y 141 ≠ 0 → ∃ u, exec (.recStart c w) s = .next u ∧ u.pending = s.pending ∧ recOn u.blk = false ∧
        Keeps [] [Reg.DBG_REC_CTRL] y u.blk)) ∧
    (∀ w, recOn y = true → w.bit 31 = false → recBytes y + 32 ≤ 65536 →
      ∃ u, exec (.recStop c w) s = .next u ∧ u.pending = s.pending ∧ rg u.blk Reg.DBG_REC_CTRL = w &&& 0x8FF0000F#32 ∧
        u.blk.dbg = { y.dbg with queue := y.dbg.queue ++ [mark y 2 0#32 0#32] } ∧ Keeps [.dbg] [Reg.DBG_REC_CTRL] y u.blk) ∧
    (recOn x = true → 0 < x.dbg.lost → recBytes x + 32 ≤ 65536 →
      ∃ u, exec (.recLostWrite c) s = .next u ∧ u.pending = s.pending ∧
        u.blk.dbg = { x.dbg with lost := 0, queue := x.dbg.queue ++ [mark x 3 (wd x.dbg.lost) 0#32] } ∧
        Raised [⟨0xC0, min 4095 x.dbg.lost, false, none⟩] x u.blk ∧ Keeps [.dbg, .raised] [] x u.blk) ∧
    (recOn x = false ∨ x.dbg.lost = 0 ∨ 65536 < recBytes x + 32 →
      ∃ u, exec (.recLostWrite c) s = .next u ∧ u.pending = s.pending ∧ Keeps [] [] x u.blk) ∧
    (∀ w, w.bit 0 = true → domSt y 141 = 0 →
      ((rg y Reg.TB_CTRL).bit 0 = false → recOn y = false → (recWord y 0 0).fld 31 28 = 6 → (recWord y 0 0).fld 27 24 = 0 →
        (recWord y 0 6).bit 0 = false → ∃ u, exec (.replayStart c w) s = .next u ∧ u.pending = s.pending ∧
          replayOn u.blk = true ∧ (rg u.blk Reg.DBG_RPL_STATUS).fld 1 0 = 1 ∧ u.blk.dbg.rdOff = 0 ∧
          Keeps [.dbg] [Reg.DBG_RPL_CTRL, Reg.DBG_RPL_STATUS] y u.blk) ∧
      ((rg y Reg.TB_CTRL).bit 0 = true ∨ recOn y = true ∨ (recWord y 0 0).fld 31 28 ≠ 6 ∨ (recWord y 0 6).bit 0 = true →
        ∃ u, exec (.replayStart c w) s = .next u ∧ u.pending = s.pending ∧ (rg u.blk Reg.DBG_RPL_STATUS).bit 3 = true ∧
          Keeps [] [Reg.DBG_RPL_STATUS] y u.blk)) ∧
    (∀ w : Word, w.bit 0 = false → ∃ u, exec (.replayStart c w) s = .next u ∧ u.pending = s.pending ∧ replayOn u.blk = false ∧
      (rg u.blk Reg.DBG_RPL_STATUS).fld 1 0 = 0 ∧ Keeps [.dbg] [Reg.DBG_RPL_CTRL, Reg.DBG_RPL_STATUS] y u.blk) ∧
    (∀ ok, (rg x Reg.DBG_RPL_STATUS).fld 1 0 ≠ 1 →
      ∃ u, exec (.replayRecordApply c ok) s = .next u ∧ u.pending = s.pending ∧ Keeps [] [] x u.blk) ∧
    (∀ o e, x.pwr.fresh = false → (rg x Reg.DBG_RPL_STATUS).fld 1 0 = 1 → o = skipPad x (recSize x / 32) x.dbg.rdOff →
      e = (if recSize x ≤ o + recLen x o then 2 else 1) →
      (∀ ok, recSize x ≤ o → ∃ u, exec (.replayRecordApply c ok) s = .next u ∧ u.pending = s.pending ∧
        (rg u.blk Reg.DBG_RPL_STATUS).fld 1 0 = 2 ∧ Keeps [] [Reg.DBG_RPL_STATUS] x u.blk) ∧
      (∀ ok, o < recSize x → x.pwr.ccy < recCcy x o →
        ∃ u, exec (.replayRecordApply c ok) s = .next u ∧ u.pending = s.pending ∧ Keeps [] [] x u.blk) ∧
      (∀ ok, o < recSize x → recCcy x o < x.pwr.ccy ∨ (recCcy x o = x.pwr.ccy ∧ ok = false) →
        ∃ u, exec (.replayRecordApply c ok) s = .next u ∧ u.pending = s.pending ∧
        (rg u.blk Reg.DBG_RPL_STATUS).fld 1 0 = 3 ∧ Raised [⟨0xC2, 0, false, none⟩] x u.blk ∧
        Keeps [.raised] [Reg.DBG_RPL_STATUS] x u.blk) ∧
      (o < recSize x → recCcy x o = x.pwr.ccy → ∀ ty sub, ty = (recWord x o 0).fld 31 28 → sub = (recWord x o 0).fld 27 24 →
        (ty = 4 ∨ ty = 5 ∨ ty = 6 → ∃ u, exec (.replayRecordApply c true) s = .next u ∧ u.pending = s.pending ∧
          u.blk.dbg = { x.dbg with rdOff := o + recLen x o } ∧
          (rg u.blk Reg.DBG_RPL_STATUS).fld 1 0 = (if ty = 6 ∧ sub = 2 then 2 else e) ∧
          Keeps [.dbg] [Reg.DBG_RPL_STATUS] x u.blk) ∧
        (∀ off, ty = 2 → sub = 1 → recOn y = false → y.pwr.fresh = false → (rg y Reg.DBG_RPL_STATUS).fld 1 0 = 1 → recSize y = recSize x →
           (recWord x o 4).fld 31 27 = 30 → off = (recWord x o 5).toNat →
          0x100000 ≤ off → off < 0x200000 → off % 4 = 0 →
          ∃ u, exec (.replayRecordApply c true) s = .next u ∧ u.pending = s.pending ∧
            Wrote off (leBytes 4 (recWord x o 6).toNat) y.mems.win u.blk.mems.win ∧
            u.blk.dbg = { y.dbg with rdOff := o + recLen x o } ∧ (rg u.blk Reg.DBG_RPL_STATUS).fld 1 0 = e ∧
            Keeps [.win, .dbg] [Reg.DBG_RPL_STATUS] y u.blk)))

/-- A refresh of a channel moves to its next bank and counts every request that it delays, also as a timing choice. A hot
component sets MEM_STATUS.HOT, with the event only when HOT was 0; MEM_COOL clears it. A clean read of a unit that is not
poisoned changes nothing; a corrected word counts, shows its place and queues the write-back; a CRC error, an uncorrectable
word and a poisoned unit count and raise MEM_UE, a CRC error counting as such too. A write whose first EDC result is good
changes nothing, one rewritten counts, one that fails again poisons its unit with its event. A write-back leaves the queue.
(From spec/21_gddr6_memory.md R482, spec/21_gddr6_memory.md R483, spec/21_gddr6_memory.md R484, spec/21_gddr6_memory.md R485,
spec/21_gddr6_memory.md R492.) -/
def Obligations.Gddr6ErrorsAreCounted : Prop :=
  ∀ (c a : Nat) (s : State) (x : Block), x = s.asFound c →
    (∀ ch delayed, ch < 16 → ∃ u, exec (.gddr6Refresh c ch delayed) s = .next u ∧ u.pending = s.pending ∧
      (∀ k, spGet (fun _ => 0) u.blk.mem.refresh k =
        if k = ch then (spGet (fun _ => 0) x.mem.refresh ch + 1) % 16 else spGet (fun _ => 0) x.mem.refresh k) ∧
      { u.blk.mem with refresh := [] } = { x.mem with refresh := [] } ∧
      rg u.blk Reg.MEM_CNT_REF_DELAY = rg x Reg.MEM_CNT_REF_DELAY + wd delayed.length ∧
      rg u.blk Reg.DBG_NONDET_COUNT = rg x Reg.DBG_NONDET_COUNT + wd delayed.length ∧
      Keeps [.mem, .dbg] [Reg.MEM_CNT_REF_DELAY, Reg.DBG_NONDET_COUNT, Reg.DBG_NONDET_SRC, Reg.DBG_REC_CNT_LOST] x u.blk) ∧
    (∀ k, k < 8 → ∃ u, exec (.memHot c k) s = .next u ∧ u.pending = s.pending ∧ (rg u.blk Reg.MEM_STATUS).bit 3 = true ∧
      k ∈ u.blk.mem.hot ∧ Raised (if (rg x Reg.MEM_STATUS).bit 3 then [] else [⟨0xCE, k, false, none⟩]) x u.blk ∧
      Keeps [.mem, .raised] [Reg.MEM_STATUS] x u.blk) ∧
    (∃ u, exec (.memCool c) s = .next u ∧ u.pending = s.pending ∧ (rg u.blk Reg.MEM_STATUS).bit 3 = false ∧
      u.blk.mem.hot = [] ∧ Keeps [.mem] [Reg.MEM_STATUS] x u.blk) ∧
    (x.mem.poison.contains (a / 64) = false →
      (∃ u, exec (.memReadDone c a .clean) s = .next u ∧ u.pending = s.pending ∧ Keeps [] [] x u.blk) ∧
      (∃ u, exec (.memReadDone c a .corrected) s = .next u ∧ u.pending = s.pending ∧
        rg u.blk Reg.MEM_CNT_CE = rg x Reg.MEM_CNT_CE + 1#32 ∧ rg u.blk Reg.MEM_ECC_LAST = wd (gdLoc a) ∧
        (rg u.blk Reg.MEM_STATUS).bit 0 = true ∧ a / 64 ∈ u.blk.mem.wback ∧
        Raised (if x.once.contains (0xC8, 0) then [] else [⟨0xC8, gdCtrl a, false, none⟩]) x u.blk ∧
        Keeps [.mem, .raised] [Reg.MEM_CNT_CE, Reg.MEM_ECC_LAST, Reg.MEM_STATUS] x u.blk)) ∧
    (∀ e, x.mem.poison.contains (a / 64) = true ∨ e = .uncorrectable ∨ e = .crc →
      ∃ u, exec (.memReadDone c a e) s = .next u ∧ u.pending = s.pending ∧
        rg u.blk Reg.MEM_CNT_UE = rg x Reg.MEM_CNT_UE + 1#32 ∧ rg u.blk Reg.MEM_ECC_LAST = wd (2 ^ 31 + gdLoc a) ∧
        (rg u.blk Reg.MEM_STATUS).bit 1 = true ∧ Raised [⟨0xC9, gdCtrl a, false, none⟩] x u.blk ∧
        rg u.blk Reg.MEM_CNT_RCRC = rg x Reg.MEM_CNT_RCRC + wd (b2n (e == .crc)) ∧
        Keeps [.raised] [Reg.MEM_CNT_UE, Reg.MEM_CNT_RCRC, Reg.MEM_ECC_LAST, Reg.MEM_STATUS] x u.blk) ∧
    (∀ b, ∃ u, exec (.memWriteEdc c a true b) s = .next u ∧ u.pending = s.pending ∧ Keeps [] [] x u.blk) ∧
    (∀ b, ∃ u, exec (.memWriteEdc c a false b) s = .next u ∧ u.pending = s.pending ∧
      rg u.blk Reg.MEM_CNT_WCRC = rg x Reg.MEM_CNT_WCRC + 1#32 ∧ Keeps [.mem, .raised] [Reg.MEM_CNT_WCRC] x u.blk ∧
      (b = true → u.blk.mem = x.mem) ∧ (b = false → a / 64 ∈ u.blk.mem.poison) ∧
      Raised (if b = true then [] else [⟨0xCA, gdCtrl a, false, none⟩]) x u.blk) ∧
    (∃ u, exec (.memCeWriteback c a) s = .next u ∧ u.pending = s.pending ∧
      (∀ k, k ∈ u.blk.mem.wback ↔ k ∈ x.mem.wback ∧ k ≠ a / 64) ∧ Keeps [.mem] [] x u.blk)

/-- For a region below 15: a 1 written while it is ON makes it PENDING; with no write to it reserved it becomes OFF; a 0
written while it is PENDING makes it ON at once, while it is OFF makes it FILLING; the end of the fill makes every byte of the
region 0, no other byte changed, and the region ON, or PENDING where a 1 has been written meanwhile (log entry 31). Each
change to OFF or ON raises MEM_PD, and the other regions stand. A 1 for region 15 only sets CFG_ERR. MEM_PT_INV drops the
entries of its context, or all with ALL, from every tiller's translation cache and reads BUSY until the invalidation is
complete; a unit of a PAGED transfer of such a context that is on its way keeps the entries of its pages, and nothing else of
a tiller changes (when they go is log entry 31). (From spec/21_gddr6_memory.md R489, spec/21_gddr6_memory.md R490, spec/21_gddr6_memory.md R491,
spec/21_gddr6_memory.md R492.) -/
def Obligations.RegionsPowerDownAndPagesAreForgotten : Prop :=
  ∀ (c r : Nat) (w : Word) (s : State) (x y : Block), x = s.asFound c → y = s.asWritten c →
    (r < 15 →
      (regionSt y r = 0 → ∃ u, exec (.regionOffRequest c r) s = .next u ∧ u.pending = s.pending ∧ regionSt u.blk r = 1 ∧
        (rg u.blk Reg.MEM_PD_CTRL).bit r = true ∧ (∀ q, q < 16 → q ≠ r → regionSt u.blk q = regionSt y q) ∧
        Keeps [] [Reg.MEM_PD_CTRL, Reg.MEM_PD_STAT] y u.blk) ∧
      (regionSt x r = 1 → regionDrained x r = true →
        ∃ u, exec (.regionOff c r) s = .next u ∧ u.pending = s.pending ∧ regionSt u.blk r = 2 ∧
        (∀ q, q < 16 → q ≠ r → regionSt u.blk q = regionSt x q) ∧ Raised [⟨0xCB, r, false, none⟩] x u.blk ∧
        Keeps [.raised] [Reg.MEM_PD_STAT] x u.blk) ∧
      (regionSt x r ≠ 1 ∨ regionDrained x r = false →
        ∃ u, exec (.regionOff c r) s = .next u ∧ u.pending = s.pending ∧ Keeps [] [] x u.blk) ∧
      (regionSt y r = 1 ∨ regionSt y r = 2 → ∃ u, exec (.regionOnRequest c r) s = .next u ∧ u.pending = s.pending ∧
        regionSt u.blk r = (if regionSt y r = 1 then 0 else 3) ∧ (rg u.blk Reg.MEM_PD_CTRL).bit r = false ∧
        (∀ q, q < 16 → q ≠ r → regionSt u.blk q = regionSt y q) ∧
        Raised (if regionSt y r = 1 then [⟨0xCB, r, false, none⟩] else []) y u.blk ∧
        Keeps [.raised] [Reg.MEM_PD_CTRL, Reg.MEM_PD_STAT] y u.blk) ∧
      (regionSt x r = 3 → ∃ u, exec (.regionFillDone c r) s = .next u ∧ u.pending = s.pending ∧
        regionSt u.blk r = (if (rg x Reg.MEM_PD_CTRL).bit r then 1 else 0) ∧
        (∀ q, q < 16 → q ≠ r → regionSt u.blk q = regionSt x q) ∧
        (∀ j, rdByte u.blk.mems.gddr j = if j / 2 ^ 30 = r then 0#8 else rdByte x.mems.gddr j) ∧
        Raised [⟨0xCB, r, false, none⟩] x u.blk ∧ Keeps [.gddr, .mem, .raised] [Reg.MEM_PD_STAT] x u.blk) ∧
      (regionSt x r ≠ 3 → ∃ u, exec (.regionFillDone c r) s = .next u ∧ u.pending = s.pending ∧ Keeps [] [] x u.blk)) ∧
    (∃ u, exec (.regionOffRequest c 15) s = .next u ∧ u.pending = s.pending ∧ (rg u.blk Reg.MEM_STATUS).bit 2 = true ∧
      Raised [⟨0xCD, 0, false, none⟩] y u.blk ∧ Keeps [.raised] [Reg.MEM_STATUS] y u.blk) ∧
    (∃ u, exec (.ptInvalidate c w) s = .next u ∧ u.pending = s.pending ∧ (rg u.blk Reg.MEM_PT_INV).bit 31 = true ∧
      (∀ t, tl u.blk t = { tl y t with
        tlb := (tl y t).tlb.filter (fun e => !w.bit 8 && decide (e.ctx ≠ w.fld 3 0)),
        slots := (tl y t).slots.map (fun e => (e.1,
          if e.2.state = .active ∧ farSpace e.2 = 3 ∧ (w.bit 8 = true ∨ e.2.ctx = w.fld 3 0) then
            { e.2 with asked := e.2.asked.map (pinUnit y t e.2.ctx) }
          else e.2)) }) ∧
      Keeps [.tlr] [Reg.MEM_PT_INV] y u.blk) ∧
    (∃ u, exec (.ptInvalidateDone c) s = .next u ∧ u.pending = s.pending ∧ (rg u.blk Reg.MEM_PT_INV).bit 31 = false ∧
      Keeps [] [Reg.MEM_PT_INV] x u.blk)
end

