-- ==== Sys2Proof/Laws/State.lean ====
section
/-! SUPPORT. What each update of the block leaves alone: one lemma for each update and each field, true by unfolding, so that no
later proof unfolds a record update. The updates of a field, a counter, some bits and an event are spelled over `setRg` and
`raiseS`. -/

namespace Sys2Proof.Machine

/-! ## Updates spelled over others -/

theorem setF_eq (b : Block) (a hi lo v : Nat) : setF b a hi lo v = setRg b a ((rg b a).setFld hi lo v) := rfl
theorem bump_eq (b : Block) (a n : Nat) : bump b a n = setRg b a (rg b a + wd n) := rfl
theorem clrRg_eq (b : Block) (a m : Nat) : clrRg b a m = setRg b a (rg b a &&& ~~~ (wd m)) := rfl
theorem orRg_eq (b : Block) (a m : Nat) :
    orRg b a m = setRg { b with now := { b.now with bits := b.now.bits ++ [(a, m)] } } a (rg b a ||| wd m) := rfl
theorem raise_eq (b : Block) (c a : Nat) : raise b c a = raiseS b c a false := rfl

/-! ## `setRg` -/

@[simp] theorem setRg_mems (b : Block) (a : Nat) (w : Word) : (setRg b a w).mems = b.mems := rfl
@[simp] theorem setRg_pwr (b : Block) (a : Nat) (w : Word) : (setRg b a w).pwr = b.pwr := rfl
@[simp] theorem setRg_tb (b : Block) (a : Nat) (w : Word) : (setRg b a w).tb = b.tb := rfl
@[simp] theorem setRg_trigs (b : Block) (a : Nat) (w : Word) : (setRg b a w).trigs = b.trigs := rfl
@[simp] theorem setRg_seq (b : Block) (a : Nat) (w : Word) : (setRg b a w).seq = b.seq := rfl
@[simp] theorem setRg_sched (b : Block) (a : Nat) (w : Word) : (setRg b a w).sched = b.sched := rfl
@[simp] theorem setRg_ports (b : Block) (a : Nat) (w : Word) : (setRg b a w).ports = b.ports := rfl
@[simp] theorem setRg_lanes (b : Block) (a : Nat) (w : Word) : (setRg b a w).lanes = b.lanes := rfl
@[simp] theorem setRg_pyr (b : Block) (a : Nat) (w : Word) : (setRg b a w).pyr = b.pyr := rfl
@[simp] theorem setRg_tuft (b : Block) (a : Nat) (w : Word) : (setRg b a w).tuft = b.tuft := rfl
@[simp] theorem setRg_stereo (b : Block) (a : Nat) (w : Word) : (setRg b a w).stereo = b.stereo := rfl
@[simp] theorem setRg_flow (b : Block) (a : Nat) (w : Word) : (setRg b a w).flow = b.flow := rfl
@[simp] theorem setRg_flags (b : Block) (a : Nat) (w : Word) : (setRg b a w).flags = b.flags := rfl
@[simp] theorem setRg_tlr (b : Block) (a : Nat) (w : Word) : (setRg b a w).tlr = b.tlr := rfl
@[simp] theorem setRg_chains (b : Block) (a : Nat) (w : Word) : (setRg b a w).chains = b.chains := rfl
@[simp] theorem setRg_lists (b : Block) (a : Nat) (w : Word) : (setRg b a w).lists = b.lists := rfl
@[simp] theorem setRg_pqs (b : Block) (a : Nat) (w : Word) : (setRg b a w).pqs = b.pqs := rfl
@[simp] theorem setRg_issueN (b : Block) (a : Nat) (w : Word) : (setRg b a w).issueN = b.issueN := rfl
@[simp] theorem setRg_sync (b : Block) (a : Nat) (w : Word) : (setRg b a w).sync = b.sync := rfl
@[simp] theorem setRg_host (b : Block) (a : Nat) (w : Word) : (setRg b a w).host = b.host := rfl
@[simp] theorem setRg_links (b : Block) (a : Nat) (w : Word) : (setRg b a w).links = b.links := rfl
@[simp] theorem setRg_cfg (b : Block) (a : Nat) (w : Word) : (setRg b a w).cfg = b.cfg := rfl
@[simp] theorem setRg_safe (b : Block) (a : Nat) (w : Word) : (setRg b a w).safe = b.safe := rfl
@[simp] theorem setRg_dbg (b : Block) (a : Nat) (w : Word) : (setRg b a w).dbg = b.dbg := rfl
@[simp] theorem setRg_mem (b : Block) (a : Nat) (w : Word) : (setRg b a w).mem = b.mem := rfl
@[simp] theorem setRg_arb (b : Block) (a : Nat) (w : Word) : (setRg b a w).arb = b.arb := rfl
@[simp] theorem setRg_raised (b : Block) (a : Nat) (w : Word) : (setRg b a w).raised = b.raised := rfl
@[simp] theorem setRg_once (b : Block) (a : Nat) (w : Word) : (setRg b a w).once = b.once := rfl
@[simp] theorem setRg_now (b : Block) (a : Nat) (w : Word) : (setRg b a w).now = b.now := rfl
@[simp] theorem setRg_held (b : Block) (a : Nat) (w : Word) : (setRg b a w).held = b.held := rfl
@[simp] theorem setRg_retry (b : Block) (a : Nat) (w : Word) : (setRg b a w).retry = b.retry := rfl
@[simp] theorem setRg_ovwr (b : Block) (a : Nat) (w : Word) : (setRg b a w).ovwr = b.ovwr := rfl
@[simp] theorem setRg_regs_force (b : Block) (a : Nat) (w : Word) : (setRg b a w).regs.force = b.regs.force := rfl
@[simp] theorem setRg_regs_prev (b : Block) (a : Nat) (w : Word) : (setRg b a w).regs.prev = b.regs.prev := rfl
@[simp] theorem setRg_regs_prev2 (b : Block) (a : Nat) (w : Word) : (setRg b a w).regs.prev2 = b.regs.prev2 := rfl
@[simp] theorem setRg_regs_forceAt (b : Block) (a : Nat) (w : Word) : (setRg b a w).regs.forceAt = b.regs.forceAt := rfl
@[simp] theorem setRg_regs_prevAt (b : Block) (a : Nat) (w : Word) : (setRg b a w).regs.prevAt = b.regs.prevAt := rfl
@[simp] theorem setRg_regs_mirror (b : Block) (a : Nat) (w : Word) : (setRg b a w).regs.mirror = b.regs.mirror := rfl
@[simp] theorem setRg_regs_snap (b : Block) (a : Nat) (w : Word) : (setRg b a w).regs.snap = b.regs.snap := rfl
@[simp] theorem setRg_regs_wrote (b : Block) (a : Nat) (w : Word) : (setRg b a w).regs.wrote = b.regs.wrote := rfl

/-! ## `setFrc` -/

@[simp] theorem setFrc_mems (b : Block) (a : Nat) (w : Word) : (setFrc b a w).mems = b.mems := rfl
@[simp] theorem setFrc_pwr (b : Block) (a : Nat) (w : Word) : (setFrc b a w).pwr = b.pwr := rfl
@[simp] theorem setFrc_tb (b : Block) (a : Nat) (w : Word) : (setFrc b a w).tb = b.tb := rfl
@[simp] theorem setFrc_trigs (b : Block) (a : Nat) (w : Word) : (setFrc b a w).trigs = b.trigs := rfl
@[simp] theorem setFrc_seq (b : Block) (a : Nat) (w : Word) : (setFrc b a w).seq = b.seq := rfl
@[simp] theorem setFrc_sched (b : Block) (a : Nat) (w : Word) : (setFrc b a w).sched = b.sched := rfl
@[simp] theorem setFrc_ports (b : Block) (a : Nat) (w : Word) : (setFrc b a w).ports = b.ports := rfl
@[simp] theorem setFrc_lanes (b : Block) (a : Nat) (w : Word) : (setFrc b a w).lanes = b.lanes := rfl
@[simp] theorem setFrc_pyr (b : Block) (a : Nat) (w : Word) : (setFrc b a w).pyr = b.pyr := rfl
@[simp] theorem setFrc_tuft (b : Block) (a : Nat) (w : Word) : (setFrc b a w).tuft = b.tuft := rfl
@[simp] theorem setFrc_stereo (b : Block) (a : Nat) (w : Word) : (setFrc b a w).stereo = b.stereo := rfl
@[simp] theorem setFrc_flow (b : Block) (a : Nat) (w : Word) : (setFrc b a w).flow = b.flow := rfl
@[simp] theorem setFrc_flags (b : Block) (a : Nat) (w : Word) : (setFrc b a w).flags = b.flags := rfl
@[simp] theorem setFrc_tlr (b : Block) (a : Nat) (w : Word) : (setFrc b a w).tlr = b.tlr := rfl
@[simp] theorem setFrc_chains (b : Block) (a : Nat) (w : Word) : (setFrc b a w).chains = b.chains := rfl
@[simp] theorem setFrc_lists (b : Block) (a : Nat) (w : Word) : (setFrc b a w).lists = b.lists := rfl
@[simp] theorem setFrc_pqs (b : Block) (a : Nat) (w : Word) : (setFrc b a w).pqs = b.pqs := rfl
@[simp] theorem setFrc_issueN (b : Block) (a : Nat) (w : Word) : (setFrc b a w).issueN = b.issueN := rfl
@[simp] theorem setFrc_sync (b : Block) (a : Nat) (w : Word) : (setFrc b a w).sync = b.sync := rfl
@[simp] theorem setFrc_host (b : Block) (a : Nat) (w : Word) : (setFrc b a w).host = b.host := rfl
@[simp] theorem setFrc_links (b : Block) (a : Nat) (w : Word) : (setFrc b a w).links = b.links := rfl
@[simp] theorem setFrc_cfg (b : Block) (a : Nat) (w : Word) : (setFrc b a w).cfg = b.cfg := rfl
@[simp] theorem setFrc_safe (b : Block) (a : Nat) (w : Word) : (setFrc b a w).safe = b.safe := rfl
@[simp] theorem setFrc_dbg (b : Block) (a : Nat) (w : Word) : (setFrc b a w).dbg = b.dbg := rfl
@[simp] theorem setFrc_mem (b : Block) (a : Nat) (w : Word) : (setFrc b a w).mem = b.mem := rfl
@[simp] theorem setFrc_arb (b : Block) (a : Nat) (w : Word) : (setFrc b a w).arb = b.arb := rfl
@[simp] theorem setFrc_raised (b : Block) (a : Nat) (w : Word) : (setFrc b a w).raised = b.raised := rfl
@[simp] theorem setFrc_once (b : Block) (a : Nat) (w : Word) : (setFrc b a w).once = b.once := rfl
@[simp] theorem setFrc_now (b : Block) (a : Nat) (w : Word) : (setFrc b a w).now = b.now := rfl
@[simp] theorem setFrc_held (b : Block) (a : Nat) (w : Word) : (setFrc b a w).held = b.held := rfl
@[simp] theorem setFrc_retry (b : Block) (a : Nat) (w : Word) : (setFrc b a w).retry = b.retry := rfl
@[simp] theorem setFrc_ovwr (b : Block) (a : Nat) (w : Word) : (setFrc b a w).ovwr = b.ovwr := rfl
@[simp] theorem setFrc_regs_cur (b : Block) (a : Nat) (w : Word) : (setFrc b a w).regs.cur = b.regs.cur := rfl
@[simp] theorem setFrc_regs_prev (b : Block) (a : Nat) (w : Word) : (setFrc b a w).regs.prev = b.regs.prev := rfl
@[simp] theorem setFrc_regs_prev2 (b : Block) (a : Nat) (w : Word) : (setFrc b a w).regs.prev2 = b.regs.prev2 := rfl
@[simp] theorem setFrc_regs_forceAt (b : Block) (a : Nat) (w : Word) : (setFrc b a w).regs.forceAt = b.regs.forceAt := rfl
@[simp] theorem setFrc_regs_prevAt (b : Block) (a : Nat) (w : Word) : (setFrc b a w).regs.prevAt = b.regs.prevAt := rfl
@[simp] theorem setFrc_regs_mirror (b : Block) (a : Nat) (w : Word) : (setFrc b a w).regs.mirror = b.regs.mirror := rfl
@[simp] theorem setFrc_regs_snap (b : Block) (a : Nat) (w : Word) : (setFrc b a w).regs.snap = b.regs.snap := rfl
@[simp] theorem setFrc_regs_wrote (b : Block) (a : Nat) (w : Word) : (setFrc b a w).regs.wrote = b.regs.wrote := rfl

/-! ## `setGen` -/

@[simp] theorem setGen_mems (b : Block) (a : Nat) (w : Word) : (setGen b a w).mems = b.mems := rfl
@[simp] theorem setGen_pwr (b : Block) (a : Nat) (w : Word) : (setGen b a w).pwr = b.pwr := rfl
@[simp] theorem setGen_tb (b : Block) (a : Nat) (w : Word) : (setGen b a w).tb = b.tb := rfl
@[simp] theorem setGen_trigs (b : Block) (a : Nat) (w : Word) : (setGen b a w).trigs = b.trigs := rfl
@[simp] theorem setGen_seq (b : Block) (a : Nat) (w : Word) : (setGen b a w).seq = b.seq := rfl
@[simp] theorem setGen_sched (b : Block) (a : Nat) (w : Word) : (setGen b a w).sched = b.sched := rfl
@[simp] theorem setGen_ports (b : Block) (a : Nat) (w : Word) : (setGen b a w).ports = b.ports := rfl
@[simp] theorem setGen_lanes (b : Block) (a : Nat) (w : Word) : (setGen b a w).lanes = b.lanes := rfl
@[simp] theorem setGen_pyr (b : Block) (a : Nat) (w : Word) : (setGen b a w).pyr = b.pyr := rfl
@[simp] theorem setGen_tuft (b : Block) (a : Nat) (w : Word) : (setGen b a w).tuft = b.tuft := rfl
@[simp] theorem setGen_stereo (b : Block) (a : Nat) (w : Word) : (setGen b a w).stereo = b.stereo := rfl
@[simp] theorem setGen_flow (b : Block) (a : Nat) (w : Word) : (setGen b a w).flow = b.flow := rfl
@[simp] theorem setGen_flags (b : Block) (a : Nat) (w : Word) : (setGen b a w).flags = b.flags := rfl
@[simp] theorem setGen_tlr (b : Block) (a : Nat) (w : Word) : (setGen b a w).tlr = b.tlr := rfl
@[simp] theorem setGen_chains (b : Block) (a : Nat) (w : Word) : (setGen b a w).chains = b.chains := rfl
@[simp] theorem setGen_lists (b : Block) (a : Nat) (w : Word) : (setGen b a w).lists = b.lists := rfl
@[simp] theorem setGen_pqs (b : Block) (a : Nat) (w : Word) : (setGen b a w).pqs = b.pqs := rfl
@[simp] theorem setGen_issueN (b : Block) (a : Nat) (w : Word) : (setGen b a w).issueN = b.issueN := rfl
@[simp] theorem setGen_sync (b : Block) (a : Nat) (w : Word) : (setGen b a w).sync = b.sync := rfl
@[simp] theorem setGen_host (b : Block) (a : Nat) (w : Word) : (setGen b a w).host = b.host := rfl
@[simp] theorem setGen_links (b : Block) (a : Nat) (w : Word) : (setGen b a w).links = b.links := rfl
@[simp] theorem setGen_cfg (b : Block) (a : Nat) (w : Word) : (setGen b a w).cfg = b.cfg := rfl
@[simp] theorem setGen_safe (b : Block) (a : Nat) (w : Word) : (setGen b a w).safe = b.safe := rfl
@[simp] theorem setGen_dbg (b : Block) (a : Nat) (w : Word) : (setGen b a w).dbg = b.dbg := rfl
@[simp] theorem setGen_mem (b : Block) (a : Nat) (w : Word) : (setGen b a w).mem = b.mem := rfl
@[simp] theorem setGen_arb (b : Block) (a : Nat) (w : Word) : (setGen b a w).arb = b.arb := rfl
@[simp] theorem setGen_raised (b : Block) (a : Nat) (w : Word) : (setGen b a w).raised = b.raised := rfl
@[simp] theorem setGen_once (b : Block) (a : Nat) (w : Word) : (setGen b a w).once = b.once := rfl
@[simp] theorem setGen_now (b : Block) (a : Nat) (w : Word) : (setGen b a w).now = b.now := rfl
@[simp] theorem setGen_held (b : Block) (a : Nat) (w : Word) : (setGen b a w).held = b.held := rfl
@[simp] theorem setGen_retry (b : Block) (a : Nat) (w : Word) : (setGen b a w).retry = b.retry := rfl
@[simp] theorem setGen_ovwr (b : Block) (a : Nat) (w : Word) : (setGen b a w).ovwr = b.ovwr := rfl
@[simp] theorem setGen_regs_cur (b : Block) (a : Nat) (w : Word) : (setGen b a w).regs.cur = b.regs.cur := rfl
@[simp] theorem setGen_regs_mirror (b : Block) (a : Nat) (w : Word) : (setGen b a w).regs.mirror = b.regs.mirror := rfl
@[simp] theorem setGen_regs_snap (b : Block) (a : Nat) (w : Word) : (setGen b a w).regs.snap = b.regs.snap := rfl
@[simp] theorem setGen_regs_wrote (b : Block) (a : Nat) (w : Word) : (setGen b a w).regs.wrote = b.regs.wrote := rfl

/-! ## `raiseS` -/

@[simp] theorem raiseS_regs (b : Block) (c a : Nat) (v : Bool) : (raiseS b c a v).regs = b.regs := rfl
@[simp] theorem raiseS_mems (b : Block) (c a : Nat) (v : Bool) : (raiseS b c a v).mems = b.mems := rfl
@[simp] theorem raiseS_pwr (b : Block) (c a : Nat) (v : Bool) : (raiseS b c a v).pwr = b.pwr := rfl
@[simp] theorem raiseS_tb (b : Block) (c a : Nat) (v : Bool) : (raiseS b c a v).tb = b.tb := rfl
@[simp] theorem raiseS_trigs (b : Block) (c a : Nat) (v : Bool) : (raiseS b c a v).trigs = b.trigs := rfl
@[simp] theorem raiseS_seq (b : Block) (c a : Nat) (v : Bool) : (raiseS b c a v).seq = b.seq := rfl
@[simp] theorem raiseS_sched (b : Block) (c a : Nat) (v : Bool) : (raiseS b c a v).sched = b.sched := rfl
@[simp] theorem raiseS_ports (b : Block) (c a : Nat) (v : Bool) : (raiseS b c a v).ports = b.ports := rfl
@[simp] theorem raiseS_lanes (b : Block) (c a : Nat) (v : Bool) : (raiseS b c a v).lanes = b.lanes := rfl
@[simp] theorem raiseS_pyr (b : Block) (c a : Nat) (v : Bool) : (raiseS b c a v).pyr = b.pyr := rfl
@[simp] theorem raiseS_tuft (b : Block) (c a : Nat) (v : Bool) : (raiseS b c a v).tuft = b.tuft := rfl
@[simp] theorem raiseS_stereo (b : Block) (c a : Nat) (v : Bool) : (raiseS b c a v).stereo = b.stereo := rfl
@[simp] theorem raiseS_flow (b : Block) (c a : Nat) (v : Bool) : (raiseS b c a v).flow = b.flow := rfl
@[simp] theorem raiseS_flags (b : Block) (c a : Nat) (v : Bool) : (raiseS b c a v).flags = b.flags := rfl
@[simp] theorem raiseS_tlr (b : Block) (c a : Nat) (v : Bool) : (raiseS b c a v).tlr = b.tlr := rfl
@[simp] theorem raiseS_chains (b : Block) (c a : Nat) (v : Bool) : (raiseS b c a v).chains = b.chains := rfl
@[simp] theorem raiseS_lists (b : Block) (c a : Nat) (v : Bool) : (raiseS b c a v).lists = b.lists := rfl
@[simp] theorem raiseS_pqs (b : Block) (c a : Nat) (v : Bool) : (raiseS b c a v).pqs = b.pqs := rfl
@[simp] theorem raiseS_issueN (b : Block) (c a : Nat) (v : Bool) : (raiseS b c a v).issueN = b.issueN := rfl
@[simp] theorem raiseS_sync (b : Block) (c a : Nat) (v : Bool) : (raiseS b c a v).sync = b.sync := rfl
@[simp] theorem raiseS_host (b : Block) (c a : Nat) (v : Bool) : (raiseS b c a v).host = b.host := rfl
@[simp] theorem raiseS_links (b : Block) (c a : Nat) (v : Bool) : (raiseS b c a v).links = b.links := rfl
@[simp] theorem raiseS_cfg (b : Block) (c a : Nat) (v : Bool) : (raiseS b c a v).cfg = b.cfg := rfl
@[simp] theorem raiseS_safe (b : Block) (c a : Nat) (v : Bool) : (raiseS b c a v).safe = b.safe := rfl
@[simp] theorem raiseS_dbg (b : Block) (c a : Nat) (v : Bool) : (raiseS b c a v).dbg = b.dbg := rfl
@[simp] theorem raiseS_mem (b : Block) (c a : Nat) (v : Bool) : (raiseS b c a v).mem = b.mem := rfl
@[simp] theorem raiseS_arb (b : Block) (c a : Nat) (v : Bool) : (raiseS b c a v).arb = b.arb := rfl
@[simp] theorem raiseS_once (b : Block) (c a : Nat) (v : Bool) : (raiseS b c a v).once = b.once := rfl
@[simp] theorem raiseS_now (b : Block) (c a : Nat) (v : Bool) : (raiseS b c a v).now = b.now := rfl
@[simp] theorem raiseS_held (b : Block) (c a : Nat) (v : Bool) : (raiseS b c a v).held = b.held := rfl
@[simp] theorem raiseS_retry (b : Block) (c a : Nat) (v : Bool) : (raiseS b c a v).retry = b.retry := rfl
@[simp] theorem raiseS_ovwr (b : Block) (c a : Nat) (v : Bool) : (raiseS b c a v).ovwr = b.ovwr := rfl

/-! ## `safeReq` -/

@[simp] theorem safeReq_regs (b : Block) (c a : Nat) : (safeReq b c a).regs = b.regs := rfl
@[simp] theorem safeReq_mems (b : Block) (c a : Nat) : (safeReq b c a).mems = b.mems := rfl
@[simp] theorem safeReq_pwr (b : Block) (c a : Nat) : (safeReq b c a).pwr = b.pwr := rfl
@[simp] theorem safeReq_tb (b : Block) (c a : Nat) : (safeReq b c a).tb = b.tb := rfl
@[simp] theorem safeReq_trigs (b : Block) (c a : Nat) : (safeReq b c a).trigs = b.trigs := rfl
@[simp] theorem safeReq_seq (b : Block) (c a : Nat) : (safeReq b c a).seq = b.seq := rfl
@[simp] theorem safeReq_sched (b : Block) (c a : Nat) : (safeReq b c a).sched = b.sched := rfl
@[simp] theorem safeReq_ports (b : Block) (c a : Nat) : (safeReq b c a).ports = b.ports := rfl
@[simp] theorem safeReq_lanes (b : Block) (c a : Nat) : (safeReq b c a).lanes = b.lanes := rfl
@[simp] theorem safeReq_pyr (b : Block) (c a : Nat) : (safeReq b c a).pyr = b.pyr := rfl
@[simp] theorem safeReq_tuft (b : Block) (c a : Nat) : (safeReq b c a).tuft = b.tuft := rfl
@[simp] theorem safeReq_stereo (b : Block) (c a : Nat) : (safeReq b c a).stereo = b.stereo := rfl
@[simp] theorem safeReq_flow (b : Block) (c a : Nat) : (safeReq b c a).flow = b.flow := rfl
@[simp] theorem safeReq_flags (b : Block) (c a : Nat) : (safeReq b c a).flags = b.flags := rfl
@[simp] theorem safeReq_tlr (b : Block) (c a : Nat) : (safeReq b c a).tlr = b.tlr := rfl
@[simp] theorem safeReq_chains (b : Block) (c a : Nat) : (safeReq b c a).chains = b.chains := rfl
@[simp] theorem safeReq_lists (b : Block) (c a : Nat) : (safeReq b c a).lists = b.lists := rfl
@[simp] theorem safeReq_pqs (b : Block) (c a : Nat) : (safeReq b c a).pqs = b.pqs := rfl
@[simp] theorem safeReq_issueN (b : Block) (c a : Nat) : (safeReq b c a).issueN = b.issueN := rfl
@[simp] theorem safeReq_sync (b : Block) (c a : Nat) : (safeReq b c a).sync = b.sync := rfl
@[simp] theorem safeReq_host (b : Block) (c a : Nat) : (safeReq b c a).host = b.host := rfl
@[simp] theorem safeReq_links (b : Block) (c a : Nat) : (safeReq b c a).links = b.links := rfl
@[simp] theorem safeReq_cfg (b : Block) (c a : Nat) : (safeReq b c a).cfg = b.cfg := rfl
@[simp] theorem safeReq_dbg (b : Block) (c a : Nat) : (safeReq b c a).dbg = b.dbg := rfl
@[simp] theorem safeReq_mem (b : Block) (c a : Nat) : (safeReq b c a).mem = b.mem := rfl
@[simp] theorem safeReq_arb (b : Block) (c a : Nat) : (safeReq b c a).arb = b.arb := rfl
@[simp] theorem safeReq_raised (b : Block) (c a : Nat) : (safeReq b c a).raised = b.raised := rfl
@[simp] theorem safeReq_once (b : Block) (c a : Nat) : (safeReq b c a).once = b.once := rfl
@[simp] theorem safeReq_now (b : Block) (c a : Nat) : (safeReq b c a).now = b.now := rfl
@[simp] theorem safeReq_held (b : Block) (c a : Nat) : (safeReq b c a).held = b.held := rfl
@[simp] theorem safeReq_retry (b : Block) (c a : Nat) : (safeReq b c a).retry = b.retry := rfl
@[simp] theorem safeReq_ovwr (b : Block) (c a : Nat) : (safeReq b c a).ovwr = b.ovwr := rfl
@[simp] theorem safeReq_safe_since (b : Block) (c a : Nat) : (safeReq b c a).safe.since = b.safe.since := rfl
@[simp] theorem safeReq_safe_tillC (b : Block) (c a : Nat) : (safeReq b c a).safe.tillC = b.safe.tillC := rfl
@[simp] theorem safeReq_safe_wdog (b : Block) (c a : Nat) : (safeReq b c a).safe.wdog = b.safe.wdog := rfl
@[simp] theorem safeReq_safe_cond (b : Block) (c a : Nat) : (safeReq b c a).safe.cond = b.safe.cond := rfl
@[simp] theorem safeReq_safe_clkSeen (b : Block) (c a : Nat) : (safeReq b c a).safe.clkSeen = b.safe.clkSeen := rfl
@[simp] theorem safeReq_safe_greq (b : Block) (c a : Nat) : (safeReq b c a).safe.greq = b.safe.greq := rfl
@[simp] theorem safeReq_safe_greqRow (b : Block) (c a : Nat) : (safeReq b c a).safe.greqRow = b.safe.greqRow := rfl

/-! ## `safeCond` -/

@[simp] theorem safeCond_regs (b : Block) (c i : Nat) (v : Bool) : (safeCond b c i v).regs = b.regs := rfl
@[simp] theorem safeCond_mems (b : Block) (c i : Nat) (v : Bool) : (safeCond b c i v).mems = b.mems := rfl
@[simp] theorem safeCond_pwr (b : Block) (c i : Nat) (v : Bool) : (safeCond b c i v).pwr = b.pwr := rfl
@[simp] theorem safeCond_tb (b : Block) (c i : Nat) (v : Bool) : (safeCond b c i v).tb = b.tb := rfl
@[simp] theorem safeCond_trigs (b : Block) (c i : Nat) (v : Bool) : (safeCond b c i v).trigs = b.trigs := rfl
@[simp] theorem safeCond_seq (b : Block) (c i : Nat) (v : Bool) : (safeCond b c i v).seq = b.seq := rfl
@[simp] theorem safeCond_sched (b : Block) (c i : Nat) (v : Bool) : (safeCond b c i v).sched = b.sched := rfl
@[simp] theorem safeCond_ports (b : Block) (c i : Nat) (v : Bool) : (safeCond b c i v).ports = b.ports := rfl
@[simp] theorem safeCond_lanes (b : Block) (c i : Nat) (v : Bool) : (safeCond b c i v).lanes = b.lanes := rfl
@[simp] theorem safeCond_pyr (b : Block) (c i : Nat) (v : Bool) : (safeCond b c i v).pyr = b.pyr := rfl
@[simp] theorem safeCond_tuft (b : Block) (c i : Nat) (v : Bool) : (safeCond b c i v).tuft = b.tuft := rfl
@[simp] theorem safeCond_stereo (b : Block) (c i : Nat) (v : Bool) : (safeCond b c i v).stereo = b.stereo := rfl
@[simp] theorem safeCond_flow (b : Block) (c i : Nat) (v : Bool) : (safeCond b c i v).flow = b.flow := rfl
@[simp] theorem safeCond_flags (b : Block) (c i : Nat) (v : Bool) : (safeCond b c i v).flags = b.flags := rfl
@[simp] theorem safeCond_tlr (b : Block) (c i : Nat) (v : Bool) : (safeCond b c i v).tlr = b.tlr := rfl
@[simp] theorem safeCond_chains (b : Block) (c i : Nat) (v : Bool) : (safeCond b c i v).chains = b.chains := rfl
@[simp] theorem safeCond_lists (b : Block) (c i : Nat) (v : Bool) : (safeCond b c i v).lists = b.lists := rfl
@[simp] theorem safeCond_pqs (b : Block) (c i : Nat) (v : Bool) : (safeCond b c i v).pqs = b.pqs := rfl
@[simp] theorem safeCond_issueN (b : Block) (c i : Nat) (v : Bool) : (safeCond b c i v).issueN = b.issueN := rfl
@[simp] theorem safeCond_sync (b : Block) (c i : Nat) (v : Bool) : (safeCond b c i v).sync = b.sync := rfl
@[simp] theorem safeCond_host (b : Block) (c i : Nat) (v : Bool) : (safeCond b c i v).host = b.host := rfl
@[simp] theorem safeCond_links (b : Block) (c i : Nat) (v : Bool) : (safeCond b c i v).links = b.links := rfl
@[simp] theorem safeCond_cfg (b : Block) (c i : Nat) (v : Bool) : (safeCond b c i v).cfg = b.cfg := rfl
@[simp] theorem safeCond_dbg (b : Block) (c i : Nat) (v : Bool) : (safeCond b c i v).dbg = b.dbg := rfl
@[simp] theorem safeCond_mem (b : Block) (c i : Nat) (v : Bool) : (safeCond b c i v).mem = b.mem := rfl
@[simp] theorem safeCond_arb (b : Block) (c i : Nat) (v : Bool) : (safeCond b c i v).arb = b.arb := rfl
@[simp] theorem safeCond_raised (b : Block) (c i : Nat) (v : Bool) : (safeCond b c i v).raised = b.raised := rfl
@[simp] theorem safeCond_once (b : Block) (c i : Nat) (v : Bool) : (safeCond b c i v).once = b.once := rfl
@[simp] theorem safeCond_now (b : Block) (c i : Nat) (v : Bool) : (safeCond b c i v).now = b.now := rfl
@[simp] theorem safeCond_held (b : Block) (c i : Nat) (v : Bool) : (safeCond b c i v).held = b.held := rfl
@[simp] theorem safeCond_retry (b : Block) (c i : Nat) (v : Bool) : (safeCond b c i v).retry = b.retry := rfl
@[simp] theorem safeCond_ovwr (b : Block) (c i : Nat) (v : Bool) : (safeCond b c i v).ovwr = b.ovwr := rfl
@[simp] theorem safeCond_safe_req (b : Block) (c i : Nat) (v : Bool) : (safeCond b c i v).safe.req = b.safe.req := rfl
@[simp] theorem safeCond_safe_since (b : Block) (c i : Nat) (v : Bool) : (safeCond b c i v).safe.since = b.safe.since := rfl
@[simp] theorem safeCond_safe_tillC (b : Block) (c i : Nat) (v : Bool) : (safeCond b c i v).safe.tillC = b.safe.tillC := rfl
@[simp] theorem safeCond_safe_wdog (b : Block) (c i : Nat) (v : Bool) : (safeCond b c i v).safe.wdog = b.safe.wdog := rfl
@[simp] theorem safeCond_safe_clkSeen (b : Block) (c i : Nat) (v : Bool) : (safeCond b c i v).safe.clkSeen = b.safe.clkSeen := rfl
@[simp] theorem safeCond_safe_greq (b : Block) (c i : Nat) (v : Bool) : (safeCond b c i v).safe.greq = b.safe.greq := rfl
@[simp] theorem safeCond_safe_greqRow (b : Block) (c i : Nat) (v : Bool) : (safeCond b c i v).safe.greqRow = b.safe.greqRow := rfl

/-! ## `gdWr` -/

@[simp] theorem gdWr_regs (b : Block) (a : Nat) (l : List Byte) : (gdWr b a l).regs = b.regs := rfl
@[simp] theorem gdWr_pwr (b : Block) (a : Nat) (l : List Byte) : (gdWr b a l).pwr = b.pwr := rfl
@[simp] theorem gdWr_tb (b : Block) (a : Nat) (l : List Byte) : (gdWr b a l).tb = b.tb := rfl
@[simp] theorem gdWr_trigs (b : Block) (a : Nat) (l : List Byte) : (gdWr b a l).trigs = b.trigs := rfl
@[simp] theorem gdWr_seq (b : Block) (a : Nat) (l : List Byte) : (gdWr b a l).seq = b.seq := rfl
@[simp] theorem gdWr_sched (b : Block) (a : Nat) (l : List Byte) : (gdWr b a l).sched = b.sched := rfl
@[simp] theorem gdWr_ports (b : Block) (a : Nat) (l : List Byte) : (gdWr b a l).ports = b.ports := rfl
@[simp] theorem gdWr_lanes (b : Block) (a : Nat) (l : List Byte) : (gdWr b a l).lanes = b.lanes := rfl
@[simp] theorem gdWr_pyr (b : Block) (a : Nat) (l : List Byte) : (gdWr b a l).pyr = b.pyr := rfl
@[simp] theorem gdWr_tuft (b : Block) (a : Nat) (l : List Byte) : (gdWr b a l).tuft = b.tuft := rfl
@[simp] theorem gdWr_stereo (b : Block) (a : Nat) (l : List Byte) : (gdWr b a l).stereo = b.stereo := rfl
@[simp] theorem gdWr_flow (b : Block) (a : Nat) (l : List Byte) : (gdWr b a l).flow = b.flow := rfl
@[simp] theorem gdWr_flags (b : Block) (a : Nat) (l : List Byte) : (gdWr b a l).flags = b.flags := rfl
@[simp] theorem gdWr_tlr (b : Block) (a : Nat) (l : List Byte) : (gdWr b a l).tlr = b.tlr := rfl
@[simp] theorem gdWr_chains (b : Block) (a : Nat) (l : List Byte) : (gdWr b a l).chains = b.chains := rfl
@[simp] theorem gdWr_lists (b : Block) (a : Nat) (l : List Byte) : (gdWr b a l).lists = b.lists := rfl
@[simp] theorem gdWr_pqs (b : Block) (a : Nat) (l : List Byte) : (gdWr b a l).pqs = b.pqs := rfl
@[simp] theorem gdWr_issueN (b : Block) (a : Nat) (l : List Byte) : (gdWr b a l).issueN = b.issueN := rfl
@[simp] theorem gdWr_sync (b : Block) (a : Nat) (l : List Byte) : (gdWr b a l).sync = b.sync := rfl
@[simp] theorem gdWr_host (b : Block) (a : Nat) (l : List Byte) : (gdWr b a l).host = b.host := rfl
@[simp] theorem gdWr_links (b : Block) (a : Nat) (l : List Byte) : (gdWr b a l).links = b.links := rfl
@[simp] theorem gdWr_cfg (b : Block) (a : Nat) (l : List Byte) : (gdWr b a l).cfg = b.cfg := rfl
@[simp] theorem gdWr_safe (b : Block) (a : Nat) (l : List Byte) : (gdWr b a l).safe = b.safe := rfl
@[simp] theorem gdWr_dbg (b : Block) (a : Nat) (l : List Byte) : (gdWr b a l).dbg = b.dbg := rfl
@[simp] theorem gdWr_mem (b : Block) (a : Nat) (l : List Byte) : (gdWr b a l).mem = b.mem := rfl
@[simp] theorem gdWr_arb (b : Block) (a : Nat) (l : List Byte) : (gdWr b a l).arb = b.arb := rfl
@[simp] theorem gdWr_raised (b : Block) (a : Nat) (l : List Byte) : (gdWr b a l).raised = b.raised := rfl
@[simp] theorem gdWr_once (b : Block) (a : Nat) (l : List Byte) : (gdWr b a l).once = b.once := rfl
@[simp] theorem gdWr_now (b : Block) (a : Nat) (l : List Byte) : (gdWr b a l).now = b.now := rfl
@[simp] theorem gdWr_held (b : Block) (a : Nat) (l : List Byte) : (gdWr b a l).held = b.held := rfl
@[simp] theorem gdWr_retry (b : Block) (a : Nat) (l : List Byte) : (gdWr b a l).retry = b.retry := rfl
@[simp] theorem gdWr_ovwr (b : Block) (a : Nat) (l : List Byte) : (gdWr b a l).ovwr = b.ovwr := rfl
@[simp] theorem gdWr_mems_gran (b : Block) (a : Nat) (l : List Byte) : (gdWr b a l).mems.gran = b.mems.gran := rfl
@[simp] theorem gdWr_mems_spad (b : Block) (a : Nat) (l : List Byte) : (gdWr b a l).mems.spad = b.mems.spad := rfl
@[simp] theorem gdWr_mems_imem (b : Block) (a : Nat) (l : List Byte) : (gdWr b a l).mems.imem = b.mems.imem := rfl
@[simp] theorem gdWr_mems_win (b : Block) (a : Nat) (l : List Byte) : (gdWr b a l).mems.win = b.mems.win := rfl
@[simp] theorem gdWr_mems_image (b : Block) (a : Nat) (l : List Byte) : (gdWr b a l).mems.image = b.mems.image := rfl
@[simp] theorem gdWr_mems_cal (b : Block) (a : Nat) (l : List Byte) : (gdWr b a l).mems.cal = b.mems.cal := rfl
@[simp] theorem gdWr_mems_mesh (b : Block) (a : Nat) (l : List Byte) : (gdWr b a l).mems.mesh = b.mems.mesh := rfl

/-! ## `grWr` -/

@[simp] theorem grWr_regs (b : Block) (a : Nat) (l : List Byte) : (grWr b a l).regs = b.regs := rfl
@[simp] theorem grWr_pwr (b : Block) (a : Nat) (l : List Byte) : (grWr b a l).pwr = b.pwr := rfl
@[simp] theorem grWr_tb (b : Block) (a : Nat) (l : List Byte) : (grWr b a l).tb = b.tb := rfl
@[simp] theorem grWr_trigs (b : Block) (a : Nat) (l : List Byte) : (grWr b a l).trigs = b.trigs := rfl
@[simp] theorem grWr_seq (b : Block) (a : Nat) (l : List Byte) : (grWr b a l).seq = b.seq := rfl
@[simp] theorem grWr_sched (b : Block) (a : Nat) (l : List Byte) : (grWr b a l).sched = b.sched := rfl
@[simp] theorem grWr_ports (b : Block) (a : Nat) (l : List Byte) : (grWr b a l).ports = b.ports := rfl
@[simp] theorem grWr_lanes (b : Block) (a : Nat) (l : List Byte) : (grWr b a l).lanes = b.lanes := rfl
@[simp] theorem grWr_pyr (b : Block) (a : Nat) (l : List Byte) : (grWr b a l).pyr = b.pyr := rfl
@[simp] theorem grWr_tuft (b : Block) (a : Nat) (l : List Byte) : (grWr b a l).tuft = b.tuft := rfl
@[simp] theorem grWr_stereo (b : Block) (a : Nat) (l : List Byte) : (grWr b a l).stereo = b.stereo := rfl
@[simp] theorem grWr_flow (b : Block) (a : Nat) (l : List Byte) : (grWr b a l).flow = b.flow := rfl
@[simp] theorem grWr_flags (b : Block) (a : Nat) (l : List Byte) : (grWr b a l).flags = b.flags := rfl
@[simp] theorem grWr_tlr (b : Block) (a : Nat) (l : List Byte) : (grWr b a l).tlr = b.tlr := rfl
@[simp] theorem grWr_chains (b : Block) (a : Nat) (l : List Byte) : (grWr b a l).chains = b.chains := rfl
@[simp] theorem grWr_lists (b : Block) (a : Nat) (l : List Byte) : (grWr b a l).lists = b.lists := rfl
@[simp] theorem grWr_pqs (b : Block) (a : Nat) (l : List Byte) : (grWr b a l).pqs = b.pqs := rfl
@[simp] theorem grWr_issueN (b : Block) (a : Nat) (l : List Byte) : (grWr b a l).issueN = b.issueN := rfl
@[simp] theorem grWr_sync (b : Block) (a : Nat) (l : List Byte) : (grWr b a l).sync = b.sync := rfl
@[simp] theorem grWr_host (b : Block) (a : Nat) (l : List Byte) : (grWr b a l).host = b.host := rfl
@[simp] theorem grWr_links (b : Block) (a : Nat) (l : List Byte) : (grWr b a l).links = b.links := rfl
@[simp] theorem grWr_cfg (b : Block) (a : Nat) (l : List Byte) : (grWr b a l).cfg = b.cfg := rfl
@[simp] theorem grWr_safe (b : Block) (a : Nat) (l : List Byte) : (grWr b a l).safe = b.safe := rfl
@[simp] theorem grWr_dbg (b : Block) (a : Nat) (l : List Byte) : (grWr b a l).dbg = b.dbg := rfl
@[simp] theorem grWr_arb (b : Block) (a : Nat) (l : List Byte) : (grWr b a l).arb = b.arb := rfl
@[simp] theorem grWr_raised (b : Block) (a : Nat) (l : List Byte) : (grWr b a l).raised = b.raised := rfl
@[simp] theorem grWr_once (b : Block) (a : Nat) (l : List Byte) : (grWr b a l).once = b.once := rfl
@[simp] theorem grWr_now (b : Block) (a : Nat) (l : List Byte) : (grWr b a l).now = b.now := rfl
@[simp] theorem grWr_held (b : Block) (a : Nat) (l : List Byte) : (grWr b a l).held = b.held := rfl
@[simp] theorem grWr_retry (b : Block) (a : Nat) (l : List Byte) : (grWr b a l).retry = b.retry := rfl
@[simp] theorem grWr_ovwr (b : Block) (a : Nat) (l : List Byte) : (grWr b a l).ovwr = b.ovwr := rfl
@[simp] theorem grWr_mems_gddr (b : Block) (a : Nat) (l : List Byte) : (grWr b a l).mems.gddr = b.mems.gddr := rfl
@[simp] theorem grWr_mems_spad (b : Block) (a : Nat) (l : List Byte) : (grWr b a l).mems.spad = b.mems.spad := rfl
@[simp] theorem grWr_mems_imem (b : Block) (a : Nat) (l : List Byte) : (grWr b a l).mems.imem = b.mems.imem := rfl
@[simp] theorem grWr_mems_win (b : Block) (a : Nat) (l : List Byte) : (grWr b a l).mems.win = b.mems.win := rfl
@[simp] theorem grWr_mems_image (b : Block) (a : Nat) (l : List Byte) : (grWr b a l).mems.image = b.mems.image := rfl
@[simp] theorem grWr_mems_cal (b : Block) (a : Nat) (l : List Byte) : (grWr b a l).mems.cal = b.mems.cal := rfl
@[simp] theorem grWr_mems_mesh (b : Block) (a : Nat) (l : List Byte) : (grWr b a l).mems.mesh = b.mems.mesh := rfl
@[simp] theorem grWr_mem_poison (b : Block) (a : Nat) (l : List Byte) : (grWr b a l).mem.poison = b.mem.poison := rfl
@[simp] theorem grWr_mem_wback (b : Block) (a : Nat) (l : List Byte) : (grWr b a l).mem.wback = b.mem.wback := rfl
@[simp] theorem grWr_mem_refresh (b : Block) (a : Nat) (l : List Byte) : (grWr b a l).mem.refresh = b.mem.refresh := rfl
@[simp] theorem grWr_mem_hot (b : Block) (a : Nat) (l : List Byte) : (grWr b a l).mem.hot = b.mem.hot := rfl

/-! ## `spWr` -/

@[simp] theorem spWr_regs (b : Block) (t a : Nat) (l : List Byte) : (spWr b t a l).regs = b.regs := rfl
@[simp] theorem spWr_pwr (b : Block) (t a : Nat) (l : List Byte) : (spWr b t a l).pwr = b.pwr := rfl
@[simp] theorem spWr_tb (b : Block) (t a : Nat) (l : List Byte) : (spWr b t a l).tb = b.tb := rfl
@[simp] theorem spWr_trigs (b : Block) (t a : Nat) (l : List Byte) : (spWr b t a l).trigs = b.trigs := rfl
@[simp] theorem spWr_seq (b : Block) (t a : Nat) (l : List Byte) : (spWr b t a l).seq = b.seq := rfl
@[simp] theorem spWr_sched (b : Block) (t a : Nat) (l : List Byte) : (spWr b t a l).sched = b.sched := rfl
@[simp] theorem spWr_ports (b : Block) (t a : Nat) (l : List Byte) : (spWr b t a l).ports = b.ports := rfl
@[simp] theorem spWr_lanes (b : Block) (t a : Nat) (l : List Byte) : (spWr b t a l).lanes = b.lanes := rfl
@[simp] theorem spWr_pyr (b : Block) (t a : Nat) (l : List Byte) : (spWr b t a l).pyr = b.pyr := rfl
@[simp] theorem spWr_tuft (b : Block) (t a : Nat) (l : List Byte) : (spWr b t a l).tuft = b.tuft := rfl
@[simp] theorem spWr_stereo (b : Block) (t a : Nat) (l : List Byte) : (spWr b t a l).stereo = b.stereo := rfl
@[simp] theorem spWr_flow (b : Block) (t a : Nat) (l : List Byte) : (spWr b t a l).flow = b.flow := rfl
@[simp] theorem spWr_flags (b : Block) (t a : Nat) (l : List Byte) : (spWr b t a l).flags = b.flags := rfl
@[simp] theorem spWr_tlr (b : Block) (t a : Nat) (l : List Byte) : (spWr b t a l).tlr = b.tlr := rfl
@[simp] theorem spWr_chains (b : Block) (t a : Nat) (l : List Byte) : (spWr b t a l).chains = b.chains := rfl
@[simp] theorem spWr_lists (b : Block) (t a : Nat) (l : List Byte) : (spWr b t a l).lists = b.lists := rfl
@[simp] theorem spWr_pqs (b : Block) (t a : Nat) (l : List Byte) : (spWr b t a l).pqs = b.pqs := rfl
@[simp] theorem spWr_issueN (b : Block) (t a : Nat) (l : List Byte) : (spWr b t a l).issueN = b.issueN := rfl
@[simp] theorem spWr_sync (b : Block) (t a : Nat) (l : List Byte) : (spWr b t a l).sync = b.sync := rfl
@[simp] theorem spWr_host (b : Block) (t a : Nat) (l : List Byte) : (spWr b t a l).host = b.host := rfl
@[simp] theorem spWr_links (b : Block) (t a : Nat) (l : List Byte) : (spWr b t a l).links = b.links := rfl
@[simp] theorem spWr_cfg (b : Block) (t a : Nat) (l : List Byte) : (spWr b t a l).cfg = b.cfg := rfl
@[simp] theorem spWr_safe (b : Block) (t a : Nat) (l : List Byte) : (spWr b t a l).safe = b.safe := rfl
@[simp] theorem spWr_dbg (b : Block) (t a : Nat) (l : List Byte) : (spWr b t a l).dbg = b.dbg := rfl
@[simp] theorem spWr_mem (b : Block) (t a : Nat) (l : List Byte) : (spWr b t a l).mem = b.mem := rfl
@[simp] theorem spWr_arb (b : Block) (t a : Nat) (l : List Byte) : (spWr b t a l).arb = b.arb := rfl
@[simp] theorem spWr_raised (b : Block) (t a : Nat) (l : List Byte) : (spWr b t a l).raised = b.raised := rfl
@[simp] theorem spWr_once (b : Block) (t a : Nat) (l : List Byte) : (spWr b t a l).once = b.once := rfl
@[simp] theorem spWr_now (b : Block) (t a : Nat) (l : List Byte) : (spWr b t a l).now = b.now := rfl
@[simp] theorem spWr_held (b : Block) (t a : Nat) (l : List Byte) : (spWr b t a l).held = b.held := rfl
@[simp] theorem spWr_retry (b : Block) (t a : Nat) (l : List Byte) : (spWr b t a l).retry = b.retry := rfl
@[simp] theorem spWr_ovwr (b : Block) (t a : Nat) (l : List Byte) : (spWr b t a l).ovwr = b.ovwr := rfl
@[simp] theorem spWr_mems_gddr (b : Block) (t a : Nat) (l : List Byte) : (spWr b t a l).mems.gddr = b.mems.gddr := rfl
@[simp] theorem spWr_mems_gran (b : Block) (t a : Nat) (l : List Byte) : (spWr b t a l).mems.gran = b.mems.gran := rfl
@[simp] theorem spWr_mems_imem (b : Block) (t a : Nat) (l : List Byte) : (spWr b t a l).mems.imem = b.mems.imem := rfl
@[simp] theorem spWr_mems_win (b : Block) (t a : Nat) (l : List Byte) : (spWr b t a l).mems.win = b.mems.win := rfl
@[simp] theorem spWr_mems_image (b : Block) (t a : Nat) (l : List Byte) : (spWr b t a l).mems.image = b.mems.image := rfl
@[simp] theorem spWr_mems_cal (b : Block) (t a : Nat) (l : List Byte) : (spWr b t a l).mems.cal = b.mems.cal := rfl
@[simp] theorem spWr_mems_mesh (b : Block) (t a : Nat) (l : List Byte) : (spWr b t a l).mems.mesh = b.mems.mesh := rfl

/-! ## `wiWr` -/

@[simp] theorem wiWr_regs (b : Block) (a : Nat) (w : Word) : (wiWr b a w).regs = b.regs := rfl
@[simp] theorem wiWr_pwr (b : Block) (a : Nat) (w : Word) : (wiWr b a w).pwr = b.pwr := rfl
@[simp] theorem wiWr_tb (b : Block) (a : Nat) (w : Word) : (wiWr b a w).tb = b.tb := rfl
@[simp] theorem wiWr_trigs (b : Block) (a : Nat) (w : Word) : (wiWr b a w).trigs = b.trigs := rfl
@[simp] theorem wiWr_seq (b : Block) (a : Nat) (w : Word) : (wiWr b a w).seq = b.seq := rfl
@[simp] theorem wiWr_sched (b : Block) (a : Nat) (w : Word) : (wiWr b a w).sched = b.sched := rfl
@[simp] theorem wiWr_ports (b : Block) (a : Nat) (w : Word) : (wiWr b a w).ports = b.ports := rfl
@[simp] theorem wiWr_lanes (b : Block) (a : Nat) (w : Word) : (wiWr b a w).lanes = b.lanes := rfl
@[simp] theorem wiWr_pyr (b : Block) (a : Nat) (w : Word) : (wiWr b a w).pyr = b.pyr := rfl
@[simp] theorem wiWr_tuft (b : Block) (a : Nat) (w : Word) : (wiWr b a w).tuft = b.tuft := rfl
@[simp] theorem wiWr_stereo (b : Block) (a : Nat) (w : Word) : (wiWr b a w).stereo = b.stereo := rfl
@[simp] theorem wiWr_flow (b : Block) (a : Nat) (w : Word) : (wiWr b a w).flow = b.flow := rfl
@[simp] theorem wiWr_flags (b : Block) (a : Nat) (w : Word) : (wiWr b a w).flags = b.flags := rfl
@[simp] theorem wiWr_tlr (b : Block) (a : Nat) (w : Word) : (wiWr b a w).tlr = b.tlr := rfl
@[simp] theorem wiWr_chains (b : Block) (a : Nat) (w : Word) : (wiWr b a w).chains = b.chains := rfl
@[simp] theorem wiWr_lists (b : Block) (a : Nat) (w : Word) : (wiWr b a w).lists = b.lists := rfl
@[simp] theorem wiWr_pqs (b : Block) (a : Nat) (w : Word) : (wiWr b a w).pqs = b.pqs := rfl
@[simp] theorem wiWr_issueN (b : Block) (a : Nat) (w : Word) : (wiWr b a w).issueN = b.issueN := rfl
@[simp] theorem wiWr_sync (b : Block) (a : Nat) (w : Word) : (wiWr b a w).sync = b.sync := rfl
@[simp] theorem wiWr_host (b : Block) (a : Nat) (w : Word) : (wiWr b a w).host = b.host := rfl
@[simp] theorem wiWr_links (b : Block) (a : Nat) (w : Word) : (wiWr b a w).links = b.links := rfl
@[simp] theorem wiWr_cfg (b : Block) (a : Nat) (w : Word) : (wiWr b a w).cfg = b.cfg := rfl
@[simp] theorem wiWr_safe (b : Block) (a : Nat) (w : Word) : (wiWr b a w).safe = b.safe := rfl
@[simp] theorem wiWr_dbg (b : Block) (a : Nat) (w : Word) : (wiWr b a w).dbg = b.dbg := rfl
@[simp] theorem wiWr_mem (b : Block) (a : Nat) (w : Word) : (wiWr b a w).mem = b.mem := rfl
@[simp] theorem wiWr_arb (b : Block) (a : Nat) (w : Word) : (wiWr b a w).arb = b.arb := rfl
@[simp] theorem wiWr_raised (b : Block) (a : Nat) (w : Word) : (wiWr b a w).raised = b.raised := rfl
@[simp] theorem wiWr_once (b : Block) (a : Nat) (w : Word) : (wiWr b a w).once = b.once := rfl
@[simp] theorem wiWr_now (b : Block) (a : Nat) (w : Word) : (wiWr b a w).now = b.now := rfl
@[simp] theorem wiWr_held (b : Block) (a : Nat) (w : Word) : (wiWr b a w).held = b.held := rfl
@[simp] theorem wiWr_retry (b : Block) (a : Nat) (w : Word) : (wiWr b a w).retry = b.retry := rfl
@[simp] theorem wiWr_ovwr (b : Block) (a : Nat) (w : Word) : (wiWr b a w).ovwr = b.ovwr := rfl
@[simp] theorem wiWr_mems_gddr (b : Block) (a : Nat) (w : Word) : (wiWr b a w).mems.gddr = b.mems.gddr := rfl
@[simp] theorem wiWr_mems_gran (b : Block) (a : Nat) (w : Word) : (wiWr b a w).mems.gran = b.mems.gran := rfl
@[simp] theorem wiWr_mems_spad (b : Block) (a : Nat) (w : Word) : (wiWr b a w).mems.spad = b.mems.spad := rfl
@[simp] theorem wiWr_mems_imem (b : Block) (a : Nat) (w : Word) : (wiWr b a w).mems.imem = b.mems.imem := rfl
@[simp] theorem wiWr_mems_image (b : Block) (a : Nat) (w : Word) : (wiWr b a w).mems.image = b.mems.image := rfl
@[simp] theorem wiWr_mems_cal (b : Block) (a : Nat) (w : Word) : (wiWr b a w).mems.cal = b.mems.cal := rfl
@[simp] theorem wiWr_mems_mesh (b : Block) (a : Nat) (w : Word) : (wiWr b a w).mems.mesh = b.mems.mesh := rfl

/-! ## `setTl` -/

@[simp] theorem setTl_regs (b : Block) (t : Nat) (x : Tiller) : (setTl b t x).regs = b.regs := rfl
@[simp] theorem setTl_mems (b : Block) (t : Nat) (x : Tiller) : (setTl b t x).mems = b.mems := rfl
@[simp] theorem setTl_pwr (b : Block) (t : Nat) (x : Tiller) : (setTl b t x).pwr = b.pwr := rfl
@[simp] theorem setTl_tb (b : Block) (t : Nat) (x : Tiller) : (setTl b t x).tb = b.tb := rfl
@[simp] theorem setTl_trigs (b : Block) (t : Nat) (x : Tiller) : (setTl b t x).trigs = b.trigs := rfl
@[simp] theorem setTl_seq (b : Block) (t : Nat) (x : Tiller) : (setTl b t x).seq = b.seq := rfl
@[simp] theorem setTl_sched (b : Block) (t : Nat) (x : Tiller) : (setTl b t x).sched = b.sched := rfl
@[simp] theorem setTl_ports (b : Block) (t : Nat) (x : Tiller) : (setTl b t x).ports = b.ports := rfl
@[simp] theorem setTl_lanes (b : Block) (t : Nat) (x : Tiller) : (setTl b t x).lanes = b.lanes := rfl
@[simp] theorem setTl_pyr (b : Block) (t : Nat) (x : Tiller) : (setTl b t x).pyr = b.pyr := rfl
@[simp] theorem setTl_tuft (b : Block) (t : Nat) (x : Tiller) : (setTl b t x).tuft = b.tuft := rfl
@[simp] theorem setTl_stereo (b : Block) (t : Nat) (x : Tiller) : (setTl b t x).stereo = b.stereo := rfl
@[simp] theorem setTl_flow (b : Block) (t : Nat) (x : Tiller) : (setTl b t x).flow = b.flow := rfl
@[simp] theorem setTl_flags (b : Block) (t : Nat) (x : Tiller) : (setTl b t x).flags = b.flags := rfl
@[simp] theorem setTl_chains (b : Block) (t : Nat) (x : Tiller) : (setTl b t x).chains = b.chains := rfl
@[simp] theorem setTl_lists (b : Block) (t : Nat) (x : Tiller) : (setTl b t x).lists = b.lists := rfl
@[simp] theorem setTl_pqs (b : Block) (t : Nat) (x : Tiller) : (setTl b t x).pqs = b.pqs := rfl
@[simp] theorem setTl_issueN (b : Block) (t : Nat) (x : Tiller) : (setTl b t x).issueN = b.issueN := rfl
@[simp] theorem setTl_sync (b : Block) (t : Nat) (x : Tiller) : (setTl b t x).sync = b.sync := rfl
@[simp] theorem setTl_host (b : Block) (t : Nat) (x : Tiller) : (setTl b t x).host = b.host := rfl
@[simp] theorem setTl_links (b : Block) (t : Nat) (x : Tiller) : (setTl b t x).links = b.links := rfl
@[simp] theorem setTl_cfg (b : Block) (t : Nat) (x : Tiller) : (setTl b t x).cfg = b.cfg := rfl
@[simp] theorem setTl_safe (b : Block) (t : Nat) (x : Tiller) : (setTl b t x).safe = b.safe := rfl
@[simp] theorem setTl_dbg (b : Block) (t : Nat) (x : Tiller) : (setTl b t x).dbg = b.dbg := rfl
@[simp] theorem setTl_mem (b : Block) (t : Nat) (x : Tiller) : (setTl b t x).mem = b.mem := rfl
@[simp] theorem setTl_arb (b : Block) (t : Nat) (x : Tiller) : (setTl b t x).arb = b.arb := rfl
@[simp] theorem setTl_raised (b : Block) (t : Nat) (x : Tiller) : (setTl b t x).raised = b.raised := rfl
@[simp] theorem setTl_once (b : Block) (t : Nat) (x : Tiller) : (setTl b t x).once = b.once := rfl
@[simp] theorem setTl_now (b : Block) (t : Nat) (x : Tiller) : (setTl b t x).now = b.now := rfl
@[simp] theorem setTl_held (b : Block) (t : Nat) (x : Tiller) : (setTl b t x).held = b.held := rfl
@[simp] theorem setTl_retry (b : Block) (t : Nat) (x : Tiller) : (setTl b t x).retry = b.retry := rfl
@[simp] theorem setTl_ovwr (b : Block) (t : Nat) (x : Tiller) : (setTl b t x).ovwr = b.ovwr := rfl

/-! ## `setCell` -/

@[simp] theorem setCell_regs (b : Block) (k : Nat) (x : Cell) : (setCell b k x).regs = b.regs := rfl
@[simp] theorem setCell_mems (b : Block) (k : Nat) (x : Cell) : (setCell b k x).mems = b.mems := rfl
@[simp] theorem setCell_pwr (b : Block) (k : Nat) (x : Cell) : (setCell b k x).pwr = b.pwr := rfl
@[simp] theorem setCell_tb (b : Block) (k : Nat) (x : Cell) : (setCell b k x).tb = b.tb := rfl
@[simp] theorem setCell_trigs (b : Block) (k : Nat) (x : Cell) : (setCell b k x).trigs = b.trigs := rfl
@[simp] theorem setCell_seq (b : Block) (k : Nat) (x : Cell) : (setCell b k x).seq = b.seq := rfl
@[simp] theorem setCell_sched (b : Block) (k : Nat) (x : Cell) : (setCell b k x).sched = b.sched := rfl
@[simp] theorem setCell_ports (b : Block) (k : Nat) (x : Cell) : (setCell b k x).ports = b.ports := rfl
@[simp] theorem setCell_lanes (b : Block) (k : Nat) (x : Cell) : (setCell b k x).lanes = b.lanes := rfl
@[simp] theorem setCell_pyr (b : Block) (k : Nat) (x : Cell) : (setCell b k x).pyr = b.pyr := rfl
@[simp] theorem setCell_tuft (b : Block) (k : Nat) (x : Cell) : (setCell b k x).tuft = b.tuft := rfl
@[simp] theorem setCell_stereo (b : Block) (k : Nat) (x : Cell) : (setCell b k x).stereo = b.stereo := rfl
@[simp] theorem setCell_flow (b : Block) (k : Nat) (x : Cell) : (setCell b k x).flow = b.flow := rfl
@[simp] theorem setCell_flags (b : Block) (k : Nat) (x : Cell) : (setCell b k x).flags = b.flags := rfl
@[simp] theorem setCell_tlr (b : Block) (k : Nat) (x : Cell) : (setCell b k x).tlr = b.tlr := rfl
@[simp] theorem setCell_chains (b : Block) (k : Nat) (x : Cell) : (setCell b k x).chains = b.chains := rfl
@[simp] theorem setCell_lists (b : Block) (k : Nat) (x : Cell) : (setCell b k x).lists = b.lists := rfl
@[simp] theorem setCell_pqs (b : Block) (k : Nat) (x : Cell) : (setCell b k x).pqs = b.pqs := rfl
@[simp] theorem setCell_issueN (b : Block) (k : Nat) (x : Cell) : (setCell b k x).issueN = b.issueN := rfl
@[simp] theorem setCell_host (b : Block) (k : Nat) (x : Cell) : (setCell b k x).host = b.host := rfl
@[simp] theorem setCell_links (b : Block) (k : Nat) (x : Cell) : (setCell b k x).links = b.links := rfl
@[simp] theorem setCell_cfg (b : Block) (k : Nat) (x : Cell) : (setCell b k x).cfg = b.cfg := rfl
@[simp] theorem setCell_safe (b : Block) (k : Nat) (x : Cell) : (setCell b k x).safe = b.safe := rfl
@[simp] theorem setCell_dbg (b : Block) (k : Nat) (x : Cell) : (setCell b k x).dbg = b.dbg := rfl
@[simp] theorem setCell_mem (b : Block) (k : Nat) (x : Cell) : (setCell b k x).mem = b.mem := rfl
@[simp] theorem setCell_arb (b : Block) (k : Nat) (x : Cell) : (setCell b k x).arb = b.arb := rfl
@[simp] theorem setCell_raised (b : Block) (k : Nat) (x : Cell) : (setCell b k x).raised = b.raised := rfl
@[simp] theorem setCell_once (b : Block) (k : Nat) (x : Cell) : (setCell b k x).once = b.once := rfl
@[simp] theorem setCell_now (b : Block) (k : Nat) (x : Cell) : (setCell b k x).now = b.now := rfl
@[simp] theorem setCell_held (b : Block) (k : Nat) (x : Cell) : (setCell b k x).held = b.held := rfl
@[simp] theorem setCell_retry (b : Block) (k : Nat) (x : Cell) : (setCell b k x).retry = b.retry := rfl
@[simp] theorem setCell_ovwr (b : Block) (k : Nat) (x : Cell) : (setCell b k x).ovwr = b.ovwr := rfl
@[simp] theorem setCell_sync_vt (b : Block) (k : Nat) (x : Cell) : (setCell b k x).sync.vt = b.sync.vt := rfl
@[simp] theorem setCell_sync_run (b : Block) (k : Nat) (x : Cell) : (setCell b k x).sync.run = b.sync.run := rfl
@[simp] theorem setCell_sync_broken (b : Block) (k : Nat) (x : Cell) : (setCell b k x).sync.broken = b.sync.broken := rfl
@[simp] theorem setCell_sync_flagged (b : Block) (k : Nat) (x : Cell) : (setCell b k x).sync.flagged = b.sync.flagged := rfl

/-! ## `setPrt` -/

@[simp] theorem setPrt_regs (b : Block) (n : Nat) (x : Port) : (setPrt b n x).regs = b.regs := rfl
@[simp] theorem setPrt_mems (b : Block) (n : Nat) (x : Port) : (setPrt b n x).mems = b.mems := rfl
@[simp] theorem setPrt_pwr (b : Block) (n : Nat) (x : Port) : (setPrt b n x).pwr = b.pwr := rfl
@[simp] theorem setPrt_tb (b : Block) (n : Nat) (x : Port) : (setPrt b n x).tb = b.tb := rfl
@[simp] theorem setPrt_trigs (b : Block) (n : Nat) (x : Port) : (setPrt b n x).trigs = b.trigs := rfl
@[simp] theorem setPrt_seq (b : Block) (n : Nat) (x : Port) : (setPrt b n x).seq = b.seq := rfl
@[simp] theorem setPrt_sched (b : Block) (n : Nat) (x : Port) : (setPrt b n x).sched = b.sched := rfl
@[simp] theorem setPrt_lanes (b : Block) (n : Nat) (x : Port) : (setPrt b n x).lanes = b.lanes := rfl
@[simp] theorem setPrt_pyr (b : Block) (n : Nat) (x : Port) : (setPrt b n x).pyr = b.pyr := rfl
@[simp] theorem setPrt_tuft (b : Block) (n : Nat) (x : Port) : (setPrt b n x).tuft = b.tuft := rfl
@[simp] theorem setPrt_stereo (b : Block) (n : Nat) (x : Port) : (setPrt b n x).stereo = b.stereo := rfl
@[simp] theorem setPrt_flow (b : Block) (n : Nat) (x : Port) : (setPrt b n x).flow = b.flow := rfl
@[simp] theorem setPrt_flags (b : Block) (n : Nat) (x : Port) : (setPrt b n x).flags = b.flags := rfl
@[simp] theorem setPrt_tlr (b : Block) (n : Nat) (x : Port) : (setPrt b n x).tlr = b.tlr := rfl
@[simp] theorem setPrt_chains (b : Block) (n : Nat) (x : Port) : (setPrt b n x).chains = b.chains := rfl
@[simp] theorem setPrt_lists (b : Block) (n : Nat) (x : Port) : (setPrt b n x).lists = b.lists := rfl
@[simp] theorem setPrt_pqs (b : Block) (n : Nat) (x : Port) : (setPrt b n x).pqs = b.pqs := rfl
@[simp] theorem setPrt_issueN (b : Block) (n : Nat) (x : Port) : (setPrt b n x).issueN = b.issueN := rfl
@[simp] theorem setPrt_sync (b : Block) (n : Nat) (x : Port) : (setPrt b n x).sync = b.sync := rfl
@[simp] theorem setPrt_host (b : Block) (n : Nat) (x : Port) : (setPrt b n x).host = b.host := rfl
@[simp] theorem setPrt_links (b : Block) (n : Nat) (x : Port) : (setPrt b n x).links = b.links := rfl
@[simp] theorem setPrt_cfg (b : Block) (n : Nat) (x : Port) : (setPrt b n x).cfg = b.cfg := rfl
@[simp] theorem setPrt_safe (b : Block) (n : Nat) (x : Port) : (setPrt b n x).safe = b.safe := rfl
@[simp] theorem setPrt_dbg (b : Block) (n : Nat) (x : Port) : (setPrt b n x).dbg = b.dbg := rfl
@[simp] theorem setPrt_mem (b : Block) (n : Nat) (x : Port) : (setPrt b n x).mem = b.mem := rfl
@[simp] theorem setPrt_arb (b : Block) (n : Nat) (x : Port) : (setPrt b n x).arb = b.arb := rfl
@[simp] theorem setPrt_raised (b : Block) (n : Nat) (x : Port) : (setPrt b n x).raised = b.raised := rfl
@[simp] theorem setPrt_once (b : Block) (n : Nat) (x : Port) : (setPrt b n x).once = b.once := rfl
@[simp] theorem setPrt_now (b : Block) (n : Nat) (x : Port) : (setPrt b n x).now = b.now := rfl
@[simp] theorem setPrt_held (b : Block) (n : Nat) (x : Port) : (setPrt b n x).held = b.held := rfl
@[simp] theorem setPrt_retry (b : Block) (n : Nat) (x : Port) : (setPrt b n x).retry = b.retry := rfl
@[simp] theorem setPrt_ovwr (b : Block) (n : Nat) (x : Port) : (setPrt b n x).ovwr = b.ovwr := rfl

/-! ## `setLane` -/

@[simp] theorem setLane_regs (b : Block) (n : Nat) (x : LaneSt) : (setLane b n x).regs = b.regs := rfl
@[simp] theorem setLane_mems (b : Block) (n : Nat) (x : LaneSt) : (setLane b n x).mems = b.mems := rfl
@[simp] theorem setLane_pwr (b : Block) (n : Nat) (x : LaneSt) : (setLane b n x).pwr = b.pwr := rfl
@[simp] theorem setLane_tb (b : Block) (n : Nat) (x : LaneSt) : (setLane b n x).tb = b.tb := rfl
@[simp] theorem setLane_trigs (b : Block) (n : Nat) (x : LaneSt) : (setLane b n x).trigs = b.trigs := rfl
@[simp] theorem setLane_seq (b : Block) (n : Nat) (x : LaneSt) : (setLane b n x).seq = b.seq := rfl
@[simp] theorem setLane_sched (b : Block) (n : Nat) (x : LaneSt) : (setLane b n x).sched = b.sched := rfl
@[simp] theorem setLane_ports (b : Block) (n : Nat) (x : LaneSt) : (setLane b n x).ports = b.ports := rfl
@[simp] theorem setLane_pyr (b : Block) (n : Nat) (x : LaneSt) : (setLane b n x).pyr = b.pyr := rfl
@[simp] theorem setLane_tuft (b : Block) (n : Nat) (x : LaneSt) : (setLane b n x).tuft = b.tuft := rfl
@[simp] theorem setLane_stereo (b : Block) (n : Nat) (x : LaneSt) : (setLane b n x).stereo = b.stereo := rfl
@[simp] theorem setLane_flow (b : Block) (n : Nat) (x : LaneSt) : (setLane b n x).flow = b.flow := rfl
@[simp] theorem setLane_flags (b : Block) (n : Nat) (x : LaneSt) : (setLane b n x).flags = b.flags := rfl
@[simp] theorem setLane_tlr (b : Block) (n : Nat) (x : LaneSt) : (setLane b n x).tlr = b.tlr := rfl
@[simp] theorem setLane_chains (b : Block) (n : Nat) (x : LaneSt) : (setLane b n x).chains = b.chains := rfl
@[simp] theorem setLane_lists (b : Block) (n : Nat) (x : LaneSt) : (setLane b n x).lists = b.lists := rfl
@[simp] theorem setLane_pqs (b : Block) (n : Nat) (x : LaneSt) : (setLane b n x).pqs = b.pqs := rfl
@[simp] theorem setLane_issueN (b : Block) (n : Nat) (x : LaneSt) : (setLane b n x).issueN = b.issueN := rfl
@[simp] theorem setLane_sync (b : Block) (n : Nat) (x : LaneSt) : (setLane b n x).sync = b.sync := rfl
@[simp] theorem setLane_host (b : Block) (n : Nat) (x : LaneSt) : (setLane b n x).host = b.host := rfl
@[simp] theorem setLane_links (b : Block) (n : Nat) (x : LaneSt) : (setLane b n x).links = b.links := rfl
@[simp] theorem setLane_cfg (b : Block) (n : Nat) (x : LaneSt) : (setLane b n x).cfg = b.cfg := rfl
@[simp] theorem setLane_safe (b : Block) (n : Nat) (x : LaneSt) : (setLane b n x).safe = b.safe := rfl
@[simp] theorem setLane_dbg (b : Block) (n : Nat) (x : LaneSt) : (setLane b n x).dbg = b.dbg := rfl
@[simp] theorem setLane_mem (b : Block) (n : Nat) (x : LaneSt) : (setLane b n x).mem = b.mem := rfl
@[simp] theorem setLane_arb (b : Block) (n : Nat) (x : LaneSt) : (setLane b n x).arb = b.arb := rfl
@[simp] theorem setLane_raised (b : Block) (n : Nat) (x : LaneSt) : (setLane b n x).raised = b.raised := rfl
@[simp] theorem setLane_once (b : Block) (n : Nat) (x : LaneSt) : (setLane b n x).once = b.once := rfl
@[simp] theorem setLane_now (b : Block) (n : Nat) (x : LaneSt) : (setLane b n x).now = b.now := rfl
@[simp] theorem setLane_held (b : Block) (n : Nat) (x : LaneSt) : (setLane b n x).held = b.held := rfl
@[simp] theorem setLane_retry (b : Block) (n : Nat) (x : LaneSt) : (setLane b n x).retry = b.retry := rfl
@[simp] theorem setLane_ovwr (b : Block) (n : Nat) (x : LaneSt) : (setLane b n x).ovwr = b.ovwr := rfl

/-! ## `setUnit` -/

@[simp] theorem setUnit_regs (b : Block) (c p : Nat) (u : UnitSt) : (setUnit b c p u).regs = b.regs := rfl
@[simp] theorem setUnit_mems (b : Block) (c p : Nat) (u : UnitSt) : (setUnit b c p u).mems = b.mems := rfl
@[simp] theorem setUnit_pwr (b : Block) (c p : Nat) (u : UnitSt) : (setUnit b c p u).pwr = b.pwr := rfl
@[simp] theorem setUnit_tb (b : Block) (c p : Nat) (u : UnitSt) : (setUnit b c p u).tb = b.tb := rfl
@[simp] theorem setUnit_trigs (b : Block) (c p : Nat) (u : UnitSt) : (setUnit b c p u).trigs = b.trigs := rfl
@[simp] theorem setUnit_seq (b : Block) (c p : Nat) (u : UnitSt) : (setUnit b c p u).seq = b.seq := rfl
@[simp] theorem setUnit_sched (b : Block) (c p : Nat) (u : UnitSt) : (setUnit b c p u).sched = b.sched := rfl
@[simp] theorem setUnit_ports (b : Block) (c p : Nat) (u : UnitSt) : (setUnit b c p u).ports = b.ports := rfl
@[simp] theorem setUnit_lanes (b : Block) (c p : Nat) (u : UnitSt) : (setUnit b c p u).lanes = b.lanes := rfl
@[simp] theorem setUnit_pyr (b : Block) (c p : Nat) (u : UnitSt) : (setUnit b c p u).pyr = b.pyr := rfl
@[simp] theorem setUnit_tuft (b : Block) (c p : Nat) (u : UnitSt) : (setUnit b c p u).tuft = b.tuft := rfl
@[simp] theorem setUnit_stereo (b : Block) (c p : Nat) (u : UnitSt) : (setUnit b c p u).stereo = b.stereo := rfl
@[simp] theorem setUnit_flow (b : Block) (c p : Nat) (u : UnitSt) : (setUnit b c p u).flow = b.flow := rfl
@[simp] theorem setUnit_flags (b : Block) (c p : Nat) (u : UnitSt) : (setUnit b c p u).flags = b.flags := rfl
@[simp] theorem setUnit_tlr (b : Block) (c p : Nat) (u : UnitSt) : (setUnit b c p u).tlr = b.tlr := rfl
@[simp] theorem setUnit_chains (b : Block) (c p : Nat) (u : UnitSt) : (setUnit b c p u).chains = b.chains := rfl
@[simp] theorem setUnit_lists (b : Block) (c p : Nat) (u : UnitSt) : (setUnit b c p u).lists = b.lists := rfl
@[simp] theorem setUnit_pqs (b : Block) (c p : Nat) (u : UnitSt) : (setUnit b c p u).pqs = b.pqs := rfl
@[simp] theorem setUnit_issueN (b : Block) (c p : Nat) (u : UnitSt) : (setUnit b c p u).issueN = b.issueN := rfl
@[simp] theorem setUnit_sync (b : Block) (c p : Nat) (u : UnitSt) : (setUnit b c p u).sync = b.sync := rfl
@[simp] theorem setUnit_host (b : Block) (c p : Nat) (u : UnitSt) : (setUnit b c p u).host = b.host := rfl
@[simp] theorem setUnit_links (b : Block) (c p : Nat) (u : UnitSt) : (setUnit b c p u).links = b.links := rfl
@[simp] theorem setUnit_safe (b : Block) (c p : Nat) (u : UnitSt) : (setUnit b c p u).safe = b.safe := rfl
@[simp] theorem setUnit_dbg (b : Block) (c p : Nat) (u : UnitSt) : (setUnit b c p u).dbg = b.dbg := rfl
@[simp] theorem setUnit_mem (b : Block) (c p : Nat) (u : UnitSt) : (setUnit b c p u).mem = b.mem := rfl
@[simp] theorem setUnit_arb (b : Block) (c p : Nat) (u : UnitSt) : (setUnit b c p u).arb = b.arb := rfl
@[simp] theorem setUnit_raised (b : Block) (c p : Nat) (u : UnitSt) : (setUnit b c p u).raised = b.raised := rfl
@[simp] theorem setUnit_once (b : Block) (c p : Nat) (u : UnitSt) : (setUnit b c p u).once = b.once := rfl
@[simp] theorem setUnit_now (b : Block) (c p : Nat) (u : UnitSt) : (setUnit b c p u).now = b.now := rfl
@[simp] theorem setUnit_held (b : Block) (c p : Nat) (u : UnitSt) : (setUnit b c p u).held = b.held := rfl
@[simp] theorem setUnit_retry (b : Block) (c p : Nat) (u : UnitSt) : (setUnit b c p u).retry = b.retry := rfl
@[simp] theorem setUnit_ovwr (b : Block) (c p : Nat) (u : UnitSt) : (setUnit b c p u).ovwr = b.ovwr := rfl
@[simp] theorem setUnit_cfg_loading (b : Block) (c p : Nat) (u : UnitSt) : (setUnit b c p u).cfg.loading = b.cfg.loading := rfl
@[simp] theorem setUnit_cfg_ready (b : Block) (c p : Nat) (u : UnitSt) : (setUnit b c p u).cfg.ready = b.cfg.ready := rfl
@[simp] theorem setUnit_cfg_commit (b : Block) (c p : Nat) (u : UnitSt) : (setUnit b c p u).cfg.commit = b.cfg.commit := rfl
@[simp] theorem setUnit_cfg_envs (b : Block) (c p : Nat) (u : UnitSt) : (setUnit b c p u).cfg.envs = b.cfg.envs := rfl
@[simp] theorem setUnit_cfg_old (b : Block) (c p : Nat) (u : UnitSt) : (setUnit b c p u).cfg.old = b.cfg.old := rfl
@[simp] theorem setUnit_cfg_keyHash (b : Block) (c p : Nat) (u : UnitSt) : (setUnit b c p u).cfg.keyHash = b.cfg.keyHash := rfl
@[simp] theorem setUnit_cfg_baseHash (b : Block) (c p : Nat) (u : UnitSt) : (setUnit b c p u).cfg.baseHash = b.cfg.baseHash := rfl
@[simp] theorem setUnit_cfg_unitHash (b : Block) (c p : Nat) (u : UnitSt) : (setUnit b c p u).cfg.unitHash = b.cfg.unitHash := rfl
@[simp] theorem setUnit_cfg_partHash (b : Block) (c p : Nat) (u : UnitSt) : (setUnit b c p u).cfg.partHash = b.cfg.partHash := rfl
@[simp] theorem setUnit_cfg_idHash (b : Block) (c p : Nat) (u : UnitSt) : (setUnit b c p u).cfg.idHash = b.cfg.idHash := rfl
@[simp] theorem setUnit_cfg_nonce (b : Block) (c p : Nat) (u : UnitSt) : (setUnit b c p u).cfg.nonce = b.cfg.nonce := rfl
@[simp] theorem setUnit_cfg_epochs (b : Block) (c p : Nat) (u : UnitSt) : (setUnit b c p u).cfg.epochs = b.cfg.epochs := rfl
@[simp] theorem setUnit_cfg_waits (b : Block) (c p : Nat) (u : UnitSt) : (setUnit b c p u).cfg.waits = b.cfg.waits := rfl
@[simp] theorem setUnit_cfg_fences (b : Block) (c p : Nat) (u : UnitSt) : (setUnit b c p u).cfg.fences = b.cfg.fences := rfl
@[simp] theorem setUnit_cfg_marked (b : Block) (c p : Nat) (u : UnitSt) : (setUnit b c p u).cfg.marked = b.cfg.marked := rfl
@[simp] theorem setUnit_cfg_reload (b : Block) (c p : Nat) (u : UnitSt) : (setUnit b c p u).cfg.reload = b.cfg.reload := rfl
@[simp] theorem setUnit_cfg_imgs (b : Block) (c p : Nat) (u : UnitSt) : (setUnit b c p u).cfg.imgs = b.cfg.imgs := rfl
@[simp] theorem setUnit_cfg_gold (b : Block) (c p : Nat) (u : UnitSt) : (setUnit b c p u).cfg.gold = b.cfg.gold := rfl

/-! ## `setTrig` -/

@[simp] theorem setTrig_regs (b : Block) (n : Nat) (x : Trig) : (setTrig b n x).regs = b.regs := rfl
@[simp] theorem setTrig_mems (b : Block) (n : Nat) (x : Trig) : (setTrig b n x).mems = b.mems := rfl
@[simp] theorem setTrig_pwr (b : Block) (n : Nat) (x : Trig) : (setTrig b n x).pwr = b.pwr := rfl
@[simp] theorem setTrig_tb (b : Block) (n : Nat) (x : Trig) : (setTrig b n x).tb = b.tb := rfl
@[simp] theorem setTrig_seq (b : Block) (n : Nat) (x : Trig) : (setTrig b n x).seq = b.seq := rfl
@[simp] theorem setTrig_sched (b : Block) (n : Nat) (x : Trig) : (setTrig b n x).sched = b.sched := rfl
@[simp] theorem setTrig_ports (b : Block) (n : Nat) (x : Trig) : (setTrig b n x).ports = b.ports := rfl
@[simp] theorem setTrig_lanes (b : Block) (n : Nat) (x : Trig) : (setTrig b n x).lanes = b.lanes := rfl
@[simp] theorem setTrig_pyr (b : Block) (n : Nat) (x : Trig) : (setTrig b n x).pyr = b.pyr := rfl
@[simp] theorem setTrig_tuft (b : Block) (n : Nat) (x : Trig) : (setTrig b n x).tuft = b.tuft := rfl
@[simp] theorem setTrig_stereo (b : Block) (n : Nat) (x : Trig) : (setTrig b n x).stereo = b.stereo := rfl
@[simp] theorem setTrig_flow (b : Block) (n : Nat) (x : Trig) : (setTrig b n x).flow = b.flow := rfl
@[simp] theorem setTrig_flags (b : Block) (n : Nat) (x : Trig) : (setTrig b n x).flags = b.flags := rfl
@[simp] theorem setTrig_tlr (b : Block) (n : Nat) (x : Trig) : (setTrig b n x).tlr = b.tlr := rfl
@[simp] theorem setTrig_chains (b : Block) (n : Nat) (x : Trig) : (setTrig b n x).chains = b.chains := rfl
@[simp] theorem setTrig_lists (b : Block) (n : Nat) (x : Trig) : (setTrig b n x).lists = b.lists := rfl
@[simp] theorem setTrig_pqs (b : Block) (n : Nat) (x : Trig) : (setTrig b n x).pqs = b.pqs := rfl
@[simp] theorem setTrig_issueN (b : Block) (n : Nat) (x : Trig) : (setTrig b n x).issueN = b.issueN := rfl
@[simp] theorem setTrig_sync (b : Block) (n : Nat) (x : Trig) : (setTrig b n x).sync = b.sync := rfl
@[simp] theorem setTrig_host (b : Block) (n : Nat) (x : Trig) : (setTrig b n x).host = b.host := rfl
@[simp] theorem setTrig_links (b : Block) (n : Nat) (x : Trig) : (setTrig b n x).links = b.links := rfl
@[simp] theorem setTrig_cfg (b : Block) (n : Nat) (x : Trig) : (setTrig b n x).cfg = b.cfg := rfl
@[simp] theorem setTrig_safe (b : Block) (n : Nat) (x : Trig) : (setTrig b n x).safe = b.safe := rfl
@[simp] theorem setTrig_dbg (b : Block) (n : Nat) (x : Trig) : (setTrig b n x).dbg = b.dbg := rfl
@[simp] theorem setTrig_mem (b : Block) (n : Nat) (x : Trig) : (setTrig b n x).mem = b.mem := rfl
@[simp] theorem setTrig_arb (b : Block) (n : Nat) (x : Trig) : (setTrig b n x).arb = b.arb := rfl
@[simp] theorem setTrig_raised (b : Block) (n : Nat) (x : Trig) : (setTrig b n x).raised = b.raised := rfl
@[simp] theorem setTrig_once (b : Block) (n : Nat) (x : Trig) : (setTrig b n x).once = b.once := rfl
@[simp] theorem setTrig_now (b : Block) (n : Nat) (x : Trig) : (setTrig b n x).now = b.now := rfl
@[simp] theorem setTrig_held (b : Block) (n : Nat) (x : Trig) : (setTrig b n x).held = b.held := rfl
@[simp] theorem setTrig_retry (b : Block) (n : Nat) (x : Trig) : (setTrig b n x).retry = b.retry := rfl
@[simp] theorem setTrig_ovwr (b : Block) (n : Nat) (x : Trig) : (setTrig b n x).ovwr = b.ovwr := rfl

end Sys2Proof.Machine
end

