-- ==== Sys2Proof/Laws/Ops.lean ====
section
/-! SUPPORT. What the shared operations do, said once: sparse stores and byte memories read back what was written and keep
their canonical form; registers read back; a command answers a next state whose block is that of its effect but for what the
thresher and the pins write. -/

namespace Sys2Proof.Machine

/-! ## Sparse stores -/

section Sparse
variable {α : Type} (d : Nat → α)

theorem spGet_spErase (m : List (Nat × α)) (k j : Nat) :
    spGet d (spErase k m) j = if j = k then d k else spGet d m j := by
  induction m with
  | nil => by_cases h : j = k <;> simp [spErase, spGet, h]
  | cons e m ih =>
    obtain ⟨i, v⟩ := e
    simp only [spErase, spGet]
    by_cases hi : i = k
    · simp only [hi, if_true, ih]
      by_cases hj : j = k
      · simp [hj]
      · simp [hj, Ne.symm hj]
    · simp only [hi, if_false, spGet, ih]
      by_cases hj : j = k
      · subst hj; simp [hi]
      · simp [hj]

theorem spGet_spInsert (m : List (Nat × α)) (k j : Nat) (v : α) (h : ∀ e ∈ m, e.1 ≠ k) :
    spGet d (spInsert k v m) j = if j = k then v else spGet d m j := by
  induction m with
  | nil =>
    by_cases hj : k = j
    · simp [spInsert, spGet, hj]
    · simp [spInsert, spGet, hj, Ne.symm hj]
  | cons e m ih =>
    obtain ⟨i, w⟩ := e
    have hik : i ≠ k := h (i, w) (by simp)
    have ih := ih (fun e he => h e (by simp [he]))
    simp only [spInsert]
    split
    · simp only [spGet]
      by_cases hj : k = j
      · simp [hj]
      · simp [hj, Ne.symm hj]
    · simp only [spGet, ih]
      by_cases hj : j = k
      · subst hj; simp [hik]
      · simp [hj]

theorem mem_spErase (m : List (Nat × α)) (k : Nat) (e : Nat × α) : e ∈ spErase k m ↔ e ∈ m ∧ e.1 ≠ k := by
  induction m with
  | nil => simp [spErase]
  | cons x m ih =>
    obtain ⟨i, v⟩ := x
    simp only [spErase]
    split
    · next hi =>
      subst hi
      constructor
      · intro h; have := ih.1 h; exact ⟨by simp [this.1], this.2⟩
      · rintro ⟨h, hn⟩
        rcases List.mem_cons.1 h with h | h
        · subst h; exact absurd rfl hn
        · exact ih.2 ⟨h, hn⟩
    · next hi =>
      simp only [List.mem_cons, ih]
      constructor
      · rintro (h | h)
        · subst h; exact ⟨Or.inl rfl, hi⟩
        · exact ⟨Or.inr h.1, h.2⟩
      · rintro ⟨h | h, hn⟩
        · exact Or.inl h
        · exact Or.inr ⟨h, hn⟩

theorem mem_spInsert (m : List (Nat × α)) (k : Nat) (v : α) (e : Nat × α) :
    e ∈ spInsert k v m ↔ e = (k, v) ∨ e ∈ m := by
  induction m with
  | nil => simp [spInsert]
  | cons x m ih =>
    obtain ⟨i, w⟩ := x
    simp only [spInsert]
    split
    · simp
    · simp only [List.mem_cons, ih]
      constructor
      · rintro (h | h | h)
        · exact Or.inr (Or.inl h)
        · exact Or.inl h
        · exact Or.inr (Or.inr h)
      · rintro (h | h | h)
        · exact Or.inr (Or.inl h)
        · exact Or.inl h
        · exact Or.inr (Or.inr h)

/-- A sparse store reads back what was written, and every other key is left alone. -/
theorem spGet_spPut [DecidableEq α] (m : List (Nat × α)) (k j : Nat) (v : α) :
    spGet d (spPut d m k v) j = if j = k then v else spGet d m j := by
  unfold spPut
  split
  · next h => rw [spGet_spErase, h]
  · rw [spGet_spInsert _ _ _ _ _ (fun e he => ((mem_spErase m k e).1 he).2), spGet_spErase]
    by_cases hj : j = k <;> simp [hj]

theorem keysRising_cons (j : Nat) (v : α) (m : List (Nat × α)) :
    keysRising ((j, v) :: m) = true ↔ (∀ e ∈ m, j < e.1) ∧ keysRising m = true := by
  induction m generalizing j v with
  | nil => simp [keysRising]
  | cons x m ih =>
    obtain ⟨i, w⟩ := x
    simp only [keysRising, Bool.and_eq_true, decide_eq_true_eq, List.mem_cons, forall_eq_or_imp]
    rw [ih]
    constructor
    · rintro ⟨h, h2, h3⟩
      exact ⟨⟨h, fun e he => Nat.lt_trans h (h2 e he)⟩, h2, h3⟩
    · rintro ⟨⟨h, _⟩, h2, h3⟩
      exact ⟨h, h2, h3⟩

theorem keysRising_spErase (m : List (Nat × α)) (k : Nat) (h : keysRising m = true) : keysRising (spErase k m) = true := by
  induction m with
  | nil => rfl
  | cons x m ih =>
    obtain ⟨i, w⟩ := x
    rw [keysRising_cons] at h
    simp only [spErase]
    split
    · exact ih h.2
    · rw [keysRising_cons]
      exact ⟨fun e he => h.1 e ((mem_spErase m k e).1 he).1, ih h.2⟩

theorem keysRising_spInsert (m : List (Nat × α)) (k : Nat) (v : α) (h : keysRising m = true) (hk : ∀ e ∈ m, e.1 ≠ k) :
    keysRising (spInsert k v m) = true := by
  induction m with
  | nil => rfl
  | cons x m ih =>
    obtain ⟨i, w⟩ := x
    have h' := (keysRising_cons i w m).1 h
    simp only [spInsert]
    split
    · next hlt =>
      rw [keysRising_cons]
      refine ⟨fun e he => ?_, h⟩
      rcases List.mem_cons.1 he with he | he
      · subst he; exact hlt
      · exact Nat.lt_trans hlt (h'.1 e he)
    · next hlt =>
      rw [keysRising_cons]
      refine ⟨fun e he => ?_, ih h'.2 (fun e he => hk e (by simp [he]))⟩
      rcases (mem_spInsert m k v e).1 he with he | he
      · subst he
        have : i ≠ k := hk (i, w) (by simp)
        show i < k
        omega
      · exact h'.1 e he

/-- A write keeps the canonical form. -/
theorem spWf_spPut [DecidableEq α] (m : List (Nat × α)) (k : Nat) (v : α) (h : spWf d m = true) :
    spWf d (spPut d m k v) = true := by
  simp only [spWf, Bool.and_eq_true, List.all_eq_true, decide_eq_true_eq] at h ⊢
  have hk : ∀ e ∈ spErase k m, e.1 ≠ k := fun e he => ((mem_spErase m k e).1 he).2
  have he := keysRising_spErase m k h.1
  unfold spPut
  split
  · exact ⟨he, fun e hm => h.2 e ((mem_spErase m k e).1 hm).1⟩
  · next hv =>
    refine ⟨keysRising_spInsert _ k v he hk, fun e hm => ?_⟩
    rcases (mem_spInsert _ k v e).1 hm with hm | hm
    · subst hm; exact hv
    · exact h.2 e ((mem_spErase m k e).1 hm).1

end Sparse

/-! ## Byte memories -/

theorem rdByte_wrByte (m : List Host.Cell) (a j : Nat) (v : Byte) :
    rdByte (wrByte m a v) j = if j = a then v else rdByte m j := spGet_spPut zeroByte m a j v

/-- A write of bytes leaves every address outside them alone. -/
theorem rdByte_wrBytes_out (l : List Byte) (m : List Host.Cell) (a j : Nat) (h : j < a ∨ a + l.length ≤ j) :
    rdByte (wrBytes m a l) j = rdByte m j := by
  induction l generalizing m a with
  | nil => rfl
  | cons v l ih =>
    simp only [List.length_cons] at h
    simp only [wrBytes]
    rw [ih _ _ (by omega), rdByte_wrByte, if_neg (by omega)]

/-- A write of bytes is read back. -/
theorem rdByte_wrBytes_in (l : List Byte) (m : List Host.Cell) (a i : Nat) (h : i < l.length) :
    rdByte (wrBytes m a l) (a + i) = l[i] := by
  induction l generalizing m a i with
  | nil => simp at h
  | cons v l ih =>
    simp only [wrBytes]
    cases i with
    | zero => rw [rdByte_wrBytes_out _ _ _ _ (by omega), rdByte_wrByte]; simp
    | succ i =>
      have := ih (wrByte m a v) (a + 1) i (by simpa using h)
      rw [show a + (i + 1) = a + 1 + i by omega, this]; rfl

theorem rdBytes_eq (m : List Host.Cell) (a n : Nat) : rdBytes m a n = (List.range n).map (fun i => rdByte m (a + i)) := by
  induction n generalizing a with
  | zero => rfl
  | succ n ih =>
    simp only [rdBytes, ih, List.range_succ_eq_map, List.map_cons, List.map_map, Nat.add_zero]
    congr 1
    apply List.map_congr_left
    intro i _
    show rdByte m (a + 1 + i) = rdByte m (a + (i + 1))
    rw [Nat.add_right_comm, Nat.add_assoc]

/-- Every memory operation keeps the canonical form. -/
theorem wf_wrByte (m : List Host.Cell) (a : Nat) (v : Byte) (h : Memory.wf m = true) : Memory.wf (wrByte m a v) = true :=
  spWf_spPut zeroByte m a v h

theorem wf_wrBytes (l : List Byte) (m : List Host.Cell) (a : Nat) (h : Memory.wf m = true) :
    Memory.wf (wrBytes m a l) = true := by
  induction l generalizing m a with
  | nil => exact h
  | cons v l ih => exact ih _ _ (wf_wrByte m a v h)

theorem wf_wrWord (m : List Host.Cell) (a : Nat) (w : Word) (h : Memory.wf m = true) : Memory.wf (wrWord m a w) = true :=
  wf_wrBytes _ m a h

theorem wf_wrWords (l : List Word) (m : List Host.Cell) (a : Nat) (h : Memory.wf m = true) :
    Memory.wf (wrWords m a l) = true := by
  induction l generalizing m a with
  | nil => exact h
  | cons v l ih => exact ih _ _ (wf_wrWord m a v h)

/-- Every memory of the state after reset has the canonical form. -/
theorem wf_reset : Memory.wf State.reset.blk.mems.gddr = true ∧ Memory.wf State.reset.blk.mems.gran = true ∧
    Memory.wf State.reset.blk.mems.spad = true ∧ Memory.wf State.reset.blk.mems.imem = true ∧
    Memory.wf State.reset.blk.mems.win = true ∧ Memory.wf State.reset.blk.mems.image = true := by decide

theorem leNat_leBytes (n v : Nat) : leNat (leBytes n v) = v % 256 ^ n := by
  induction n generalizing v with
  | zero => simp [leBytes, leNat, Nat.mod_one]
  | succ n ih =>
    simp only [leBytes, leNat, ih, BitVec.toNat_ofNat, show (2 : Nat) ^ 8 = 256 from rfl]
    rw [Nat.pow_succ, Nat.mul_comm (256 ^ n) 256, Nat.mod_mul]

theorem length_leBytes (n v : Nat) : (leBytes n v).length = n := by
  induction n generalizing v with
  | zero => rfl
  | succ n ih => simp [leBytes, ih]

theorem rdBytes_wrBytes (l : List Byte) (m : List Host.Cell) (a : Nat) : rdBytes (wrBytes m a l) a l.length = l := by
  rw [rdBytes_eq]
  apply List.ext_getElem
  · simp
  · intro i h1 h2
    simp only [List.getElem_map, List.getElem_range]
    exact rdByte_wrBytes_in l m a i h2

/-- A word is read back. -/
theorem rdWord_wrWord (m : List Host.Cell) (a : Nat) (w : Word) : rdWord (wrWord m a w) a = w := by
  unfold rdWord wrWord
  have h := rdBytes_wrBytes (leBytes 4 w.toNat) m a
  rw [length_leBytes] at h
  rw [h, leNat_leBytes]
  apply BitVec.eq_of_toNat_eq
  have := w.isLt
  simp [wd]
  omega

/-- A word that does not overlap the bytes written is left alone. -/
theorem rdWord_wrBytes_out (l : List Byte) (m : List Host.Cell) (a j : Nat) (h : j + 4 ≤ a ∨ a + l.length ≤ j) :
    rdWord (wrBytes m a l) j = rdWord m j := by
  unfold rdWord
  congr 2
  rw [rdBytes_eq, rdBytes_eq]
  apply List.map_congr_left
  intro i hi
  exact rdByte_wrBytes_out l m a (j + i) (by have := List.mem_range.1 hi; omega)

theorem rdWord_wrWord_out (m : List Host.Cell) (a j : Nat) (w : Word) (h : j + 4 ≤ a ∨ a + 4 ≤ j) :
    rdWord (wrWord m a w) j = rdWord m j := by
  apply rdWord_wrBytes_out
  rw [length_leBytes]; exact h

/-! ## Registers and indexed units -/

theorem rg_congr {b b' : Block} (h : b.regs.cur = b'.regs.cur) (a : Nat) : rg b a = rg b' a := by
  unfold rg; rw [h]

/-- A register reads back what was written, and every other register is left alone. -/
@[simp] theorem rg_setRg (b : Block) (a j : Nat) (w : Word) : rg (setRg b a w) j = if j = a then w else rg b j :=
  spGet_spPut regReset b.regs.cur a j w

@[simp] theorem frc_setFrc (b : Block) (a j : Nat) (w : Word) : frc (setFrc b a w) j = if j = a then w else frc b j :=
  spGet_spPut regReset b.regs.force a j w

@[simp] theorem frc_setGen (b : Block) (a j : Nat) (w : Word) : frc (setGen b a w) j = if j = a then w else frc b j :=
  spGet_spPut regReset b.regs.force a j w

@[simp] theorem frc_setRg (b : Block) (a j : Nat) (w : Word) : frc (setRg b a w) j = frc b j := rfl
@[simp] theorem rg_setFrc (b : Block) (a j : Nat) (w : Word) : rg (setFrc b a w) j = rg b j := rfl
@[simp] theorem rg_setGen (b : Block) (a j : Nat) (w : Word) : rg (setGen b a w) j = rg b j := rfl
@[simp] theorem rg_raiseS (b : Block) (c a j : Nat) (v : Bool) : rg (raiseS b c a v) j = rg b j := rfl
@[simp] theorem rg_safeReq (b : Block) (c a j : Nat) : rg (safeReq b c a) j = rg b j := rfl
@[simp] theorem rg_safeCond (b : Block) (c i j : Nat) (v : Bool) : rg (safeCond b c i v) j = rg b j := rfl
@[simp] theorem rg_gdWr (b : Block) (a j : Nat) (l : List Byte) : rg (gdWr b a l) j = rg b j := rfl
@[simp] theorem rg_grWr (b : Block) (a j : Nat) (l : List Byte) : rg (grWr b a l) j = rg b j := rfl
@[simp] theorem rg_spWr (b : Block) (t a j : Nat) (l : List Byte) : rg (spWr b t a l) j = rg b j := rfl
@[simp] theorem rg_wiWr (b : Block) (a j : Nat) (w : Word) : rg (wiWr b a w) j = rg b j := rfl
@[simp] theorem rg_setTl (b : Block) (t j : Nat) (x : Tiller) : rg (setTl b t x) j = rg b j := rfl
@[simp] theorem rg_setCell (b : Block) (k j : Nat) (x : Cell) : rg (setCell b k x) j = rg b j := rfl
@[simp] theorem rg_setPrt (b : Block) (n j : Nat) (x : Port) : rg (setPrt b n x) j = rg b j := rfl
@[simp] theorem rg_setLane (b : Block) (n j : Nat) (x : LaneSt) : rg (setLane b n x) j = rg b j := rfl
@[simp] theorem rg_setUnit (b : Block) (c p j : Nat) (u : UnitSt) : rg (setUnit b c p u) j = rg b j := rfl
@[simp] theorem rg_setTrig (b : Block) (n j : Nat) (x : Trig) : rg (setTrig b n x) j = rg b j := rfl

/-- The register at `a` of a set of registers. -/
def Regs.reg (r : Regs) (a : Nat) : Word := spGet regReset r.cur a

/-- The registers of a block that is written out field by field, as updates of its other fields leave it. -/
@[simp] theorem rg_mk (r : Regs) (x1 : Mems) (x2 : Pwr) (x3 : Tb) (x4 : List (Nat × Trig)) (x5 : Seq) (x6 : Sched) (x7 :
    List (Nat × Port)) (x8 : List (Nat × LaneSt)) (x9 : List (Nat × PyrSt)) (x10 : List (Nat × TuftSt)) (x11 : List (Nat ×
    StereoSt)) (x12 : List (Nat × FlowAcc)) (x13 : List (Nat × Bool)) (x14 : List (Nat × Tiller)) (x15 : List Chain) (x16 :
    List (Nat × List Posted)) (x17 : List (Nat × PQueue)) (x18 : Nat) (x19 : SyncSt) (x20 : HostSt) (x21 : Links) (x22 :
    CfgSt) (x23 : SafeSt) (x24 : DbgSt) (x25 : MemSt) (x26 : List (Nat × (Nat × Nat))) (x27 : List Ev) (x28 : List (Nat ×
    Nat)) (x29 : Now) (x30 : List (Nat × Instr)) (x31 : Bool) (x32 : Option Nat) (a : Nat) :
    rg ⟨r, x1, x2, x3, x4, x5, x6, x7, x8, x9, x10, x11, x12, x13, x14, x15, x16, x17, x18, x19, x20, x21, x22, x23,
      x24, x25, x26, x27, x28, x29, x30, x31, x32⟩ a = r.reg a := rfl

@[simp] theorem reg_regs (b : Block) (a : Nat) : b.regs.reg a = rg b a := rfl

theorem rg_setF (b : Block) (a hi lo v j : Nat) :
    rg (setF b a hi lo v) j = if j = a then (rg b a).setFld hi lo v else rg b j := by rw [setF_eq, rg_setRg]

theorem rg_bump (b : Block) (a n j : Nat) : rg (bump b a n) j = if j = a then rg b a + wd n else rg b j := by
  rw [bump_eq, rg_setRg]

theorem rg_clrRg (b : Block) (a m j : Nat) : rg (clrRg b a m) j = if j = a then rg b a &&& ~~~ (wd m) else rg b j := by
  rw [clrRg_eq, rg_setRg]

theorem rg_orRg (b : Block) (a m j : Nat) : rg (orRg b a m) j = if j = a then rg b a ||| wd m else rg b j := by
  rw [orRg_eq, rg_setRg]; rfl

@[simp] theorem tl_setTl (b : Block) (t j : Nat) (x : Tiller) : tl (setTl b t x) j = if j = t then x else tl b j :=
  spGet_spPut _ b.tlr t j x

@[simp] theorem tl_setRg (b : Block) (a j : Nat) (w : Word) : tl (setRg b a w) j = tl b j := rfl

@[simp] theorem cell_setCell (b : Block) (k j : Nat) (x : Cell) : cell (setCell b k x) j = if j = k then x else cell b j :=
  spGet_spPut _ b.sync.cells k j x

@[simp] theorem cell_setRg (b : Block) (a j : Nat) (w : Word) : cell (setRg b a w) j = cell b j := rfl

@[simp] theorem prt_setPrt (b : Block) (n j : Nat) (x : Port) : prt (setPrt b n x) j = if j = n then x else prt b j :=
  spGet_spPut _ b.ports n j x

@[simp] theorem trigOf_setTrig (b : Block) (n j : Nat) (x : Trig) : trigOf (setTrig b n x) j = if j = n then x else trigOf b j :=
  spGet_spPut _ b.trigs n j x

@[simp] theorem trigOf_setRg (b : Block) (a j : Nat) (w : Word) : trigOf (setRg b a w) j = trigOf b j := rfl

/-- A unit of the spare map is read back where class and number are the same. -/
theorem unitOf_setUnit (b : Block) (c p k n : Nat) (u : UnitSt) :
    unitOf (setUnit b c p u) k n = if k * 64 + n = c * 64 + p then u else unitOf b k n :=
  spGet_spPut _ b.cfg.units (c * 64 + p) (k * 64 + n) u

@[simp] theorem unitOf_setRg (b : Block) (a k n : Nat) (w : Word) : unitOf (setRg b a w) k n = unitOf b k n := rfl

@[simp] theorem prt_setRg (b : Block) (a j : Nat) (w : Word) : prt (setRg b a w) j = prt b j := rfl

/-! ## The fields of a word -/

theorem testBit_wd (n i : Nat) : (wd n).toNat.testBit i = (decide (i < 32) && n.testBit i) := by
  simp only [wd, BitVec.toNat_ofNat, Nat.testBit_mod_two_pow]

theorem bit_or (x y : Word) (i : Nat) : Word.bit (x ||| y) i = (Word.bit x i || Word.bit y i) := by
  simp [Word.bit, Nat.testBit_or]

theorem bit_and (x y : Word) (i : Nat) : Word.bit (x &&& y) i = (Word.bit x i && Word.bit y i) := by
  simp [Word.bit, Nat.testBit_and]

/-- A field that is written is read back. -/
theorem fld_setFld (w : Word) (hi lo v : Nat) (h : lo ≤ hi) (h2 : hi < 32) :
    Word.fld (Word.setFld w hi lo v) hi lo = v % 2 ^ (hi + 1 - lo) := by
  have hk : 0 < 2 ^ (hi + 1 - lo) := Nat.two_pow_pos _
  have hl : 0 < 2 ^ lo := Nat.two_pow_pos _
  simp only [Word.fld, Word.setFld, bitsOf, wd, BitVec.toNat_ofNat]
  generalize hw : w.toNat = x
  have hx : x / 2 ^ lo % 2 ^ (hi + 1 - lo) * 2 ^ lo ≤ x :=
    Nat.le_trans (Nat.mul_le_mul_right _ (Nat.mod_le _ _)) (Nat.div_mul_le_self x _)
  have hsplit : x - x / 2 ^ lo % 2 ^ (hi + 1 - lo) * 2 ^ lo
      = x % 2 ^ lo + x / 2 ^ lo / 2 ^ (hi + 1 - lo) * 2 ^ (hi + 1 - lo) * 2 ^ lo := by
    have h1 := Nat.div_add_mod x (2 ^ lo)
    have h3 := Nat.div_add_mod (x / 2 ^ lo) (2 ^ (hi + 1 - lo))
    generalize x / 2 ^ lo / 2 ^ (hi + 1 - lo) = q at *
    generalize x / 2 ^ lo % 2 ^ (hi + 1 - lo) = r at *
    generalize x % 2 ^ lo = s at *
    rw [← h3] at h1
    have h4 : 2 ^ lo * (2 ^ (hi + 1 - lo) * q + r) = q * 2 ^ (hi + 1 - lo) * 2 ^ lo + r * 2 ^ lo := by grind
    omega
  rw [hsplit]
  generalize x / 2 ^ lo / 2 ^ (hi + 1 - lo) = q
  have hs : x % 2 ^ lo < 2 ^ lo := Nat.mod_lt _ hl
  generalize x % 2 ^ lo = s at *
  have h32 : 2 ^ 32 = 2 ^ lo * (2 ^ (hi + 1 - lo) * 2 ^ (31 - hi)) := by
    rw [← Nat.pow_add, ← Nat.pow_add]; congr 1; omega
  rw [show s + q * 2 ^ (hi + 1 - lo) * 2 ^ lo + v % 2 ^ (hi + 1 - lo) * 2 ^ lo
      = s + 2 ^ lo * (q * 2 ^ (hi + 1 - lo) + v % 2 ^ (hi + 1 - lo)) by grind, h32, Nat.mod_mul_right_div_self,
    Nat.add_mul_div_left _ _ hl, Nat.div_eq_of_lt hs, Nat.zero_add, Nat.mod_mul_right_mod, Nat.mul_add_mod_self_right,
    Nat.mod_mod]

/-- A field in bits: what `setFld` leaves in each bit. -/
theorem testBit_setFld (w : Word) (hi lo v i : Nat) (h : lo ≤ hi) (h2 : hi < 32) :
    (Word.setFld w hi lo v).toNat.testBit i =
      if lo ≤ i ∧ i ≤ hi then v.testBit (i - lo) else w.toNat.testBit i := by
  have hx := w.isLt
  simp only [Word.setFld, bitsOf, wd, BitVec.toNat_ofNat]
  generalize w.toNat = x at *
  have hl : 0 < 2 ^ lo := Nat.two_pow_pos _
  have hk : 0 < 2 ^ (hi + 1 - lo) := Nat.two_pow_pos _
  have e1 : x - x / 2 ^ lo % 2 ^ (hi + 1 - lo) * 2 ^ lo + v % 2 ^ (hi + 1 - lo) * 2 ^ lo
      = 2 ^ (hi + 1) * (x / 2 ^ (hi + 1)) + (2 ^ lo * (v % 2 ^ (hi + 1 - lo)) + x % 2 ^ lo) := by
    have h1 := Nat.div_add_mod x (2 ^ lo)
    have h3 := Nat.div_add_mod (x / 2 ^ lo) (2 ^ (hi + 1 - lo))
    have h5 : x / 2 ^ lo / 2 ^ (hi + 1 - lo) = x / 2 ^ (hi + 1) := by
      rw [Nat.div_div_eq_div_mul, ← Nat.pow_add]; congr 2; omega
    have h6 : 2 ^ (hi + 1) = 2 ^ lo * 2 ^ (hi + 1 - lo) := by rw [← Nat.pow_add]; congr 1; omega
    rw [h5] at h3
    rw [h6]
    rw [h6] at h3
    generalize x / (2 ^ lo * 2 ^ (hi + 1 - lo)) = q at *
    generalize hr : x / 2 ^ lo % 2 ^ (hi + 1 - lo) = r at *
    generalize hs : x % 2 ^ lo = s at *
    rw [← h3] at h1
    have h4 : 2 ^ lo * (2 ^ (hi + 1 - lo) * q + r) = 2 ^ lo * 2 ^ (hi + 1 - lo) * q + r * 2 ^ lo := by grind
    have h7 : v % 2 ^ (hi + 1 - lo) * 2 ^ lo = 2 ^ lo * (v % 2 ^ (hi + 1 - lo)) := Nat.mul_comm _ _
    omega
  have hs : x % 2 ^ lo < 2 ^ lo := Nat.mod_lt _ hl
  have hv : v % 2 ^ (hi + 1 - lo) < 2 ^ (hi + 1 - lo) := Nat.mod_lt _ hk
  have hlt : 2 ^ lo * (v % 2 ^ (hi + 1 - lo)) + x % 2 ^ lo < 2 ^ (hi + 1) := by
    have h6 : 2 ^ (hi + 1) = 2 ^ lo * 2 ^ (hi + 1 - lo) := by rw [← Nat.pow_add]; congr 1; omega
    rw [h6]
    calc _ < 2 ^ lo * (v % 2 ^ (hi + 1 - lo)) + 2 ^ lo := by omega
      _ = 2 ^ lo * (v % 2 ^ (hi + 1 - lo) + 1) := by grind
      _ ≤ _ := Nat.mul_le_mul_left _ hv
  rw [e1, Nat.testBit_mod_two_pow, Nat.testBit_two_pow_mul_add _ hlt, Nat.testBit_two_pow_mul_add _ hs]
  simp only [Nat.testBit_mod_two_pow, Nat.testBit_div_two_pow]
  by_cases hA : i < hi + 1
  · by_cases hB : i < lo
    · simp [hA, hB, show ¬ lo ≤ i by omega, show i < 32 by omega]
    · simp [hA, hB, show lo ≤ i by omega, show i ≤ hi by omega, show i < 32 by omega, show i - lo < hi + 1 - lo by omega]
  · simp only [hA, if_false, show ¬ (lo ≤ i ∧ i ≤ hi) by omega, show i - (hi + 1) + (hi + 1) = i by omega]
    by_cases h32 : i < 32
    · simp [h32]
    · have := Nat.testBit_lt_two_pow (Nat.lt_of_lt_of_le hx (Nat.pow_le_pow_right (n := 2) (by decide) (Nat.le_of_not_lt h32)))
      simp [this]

/-- Words that agree in the bits of a field agree in the field. -/
theorem fld_eq_apart (w w' : Word) (hi lo : Nat) (h : ∀ i, lo ≤ i → i ≤ hi → w.toNat.testBit i = w'.toNat.testBit i) :
    Word.fld w hi lo = Word.fld w' hi lo := by
  simp only [Word.fld, bitsOf]
  apply Nat.eq_of_testBit_eq
  intro i
  simp only [Nat.testBit_mod_two_pow, Nat.testBit_div_two_pow]
  by_cases hi' : i < hi + 1 - lo
  · simp only [hi', decide_true, Bool.true_and]
    exact h _ (by omega) (by omega)
  · simp [hi']

/-- A field that lies apart from the one written is left alone. -/
theorem fld_setFld_apart (w : Word) (hi lo v hi' lo' : Nat) (h : lo ≤ hi) (h2 : hi < 32) (ha : hi' < lo ∨ hi < lo') :
    Word.fld (Word.setFld w hi lo v) hi' lo' = Word.fld w hi' lo' :=
  fld_eq_apart _ _ _ _ fun i h3 h4 => by rw [testBit_setFld w hi lo v i h h2, if_neg (by omega)]

/-! ## The thresher and the pins -/

theorem rg_raiseOnce (b : Block) (c i a j : Nat) : rg (raiseOnce b c i a) j = rg b j := by
  unfold raiseOnce; split <;> rfl

/-- A block that differs at most in its registers, in HOST_ATTN_STATUS and the two of the lost records, in the events that
wait and in the book-keeping of the cycle. -/
theorem takeRaised_eq (p : Published) (b : Block) : ∃ (o : Option Nat) (k : Nat),
    (takeRaised p b).2 = (if k = 0 then { b with raised := [], ovwr := o }
      else orRg (bump { b with raised := [], ovwr := o } Reg.LNK_CNT_EVT_LOST k) Reg.LNK_STATUS 0x10000) :=
  ⟨_, _, rfl⟩

theorem rg_takeRaised (p : Published) (b : Block) (a : Nat) (h : a ∉ settleRegs) : rg (takeRaised p b).2 a = rg b a := by
  simp only [settleRegs, List.mem_cons, List.not_mem_nil, or_false, not_or] at h
  obtain ⟨o, k, h2⟩ := takeRaised_eq p b
  rw [h2]
  split
  · rfl
  · rw [rg_orRg, if_neg h.2.2, rg_bump, if_neg h.2.1]; rfl

theorem rg_pins (p : Published) (b : Block) (a : Nat) (h : a ≠ Reg.HOST_ATTN_STATUS) : rg (pins p b).2 a = rg b a := by
  unfold pins
  rw [rg_setRg, if_neg h]

theorem same_pins (p : Published) (b : Block) (q : Part) : q.same b (pins p b).2 := by
  cases q <;> first | exact ⟨rfl, rfl⟩ | rfl | exact fun _ => rfl

theorem mem_upFrom (a n i : Nat) : i ∈ upFrom a n ↔ a ≤ i ∧ i < a + n := by
  induction n generalizing a with
  | zero => simp only [upFrom, List.not_mem_nil, false_iff]; omega
  | succ n ih => simp only [upFrom, List.mem_cons, ih]; omega

theorem rrAttn_congr {b b' : Block} (h : ∀ a, a ∉ settleRegs → rg b' a = rg b a) : rrAttn b' = rrAttn b := by
  have k : ∀ a, 0xD00C ≤ a → a < 0xD800 → rg b' a = rg b a := fun a h1 h2 => h a (by
    simp only [settleRegs, List.mem_cons, List.not_mem_nil, or_false, not_or, Reg.HOST_ATTN_STATUS, Reg.LNK_CNT_EVT_LOST,
      Reg.LNK_STATUS]
    omega)
  have e : ∀ r ∈ upFrom 0 16, rg b' (Reg.HOST_RR_WM r) = rg b (Reg.HOST_RR_WM r) ∧
      rg b' (Reg.HOST_RR_SEQ r) = rg b (Reg.HOST_RR_SEQ r) ∧ rg b' (Reg.HOST_RR_RD r) = rg b (Reg.HOST_RR_RD r) := by
    intro r hr
    have := (mem_upFrom 0 16 r).1 hr
    refine ⟨k _ ?_ ?_, k _ ?_ ?_, k _ ?_ ?_⟩ <;> simp only [Reg.HOST_RR_WM, Reg.HOST_RR_SEQ, Reg.HOST_RR_RD] <;> omega
  unfold rrAttn
  rw [Bool.eq_iff_iff, List.any_eq_true, List.any_eq_true]
  constructor
  · rintro ⟨r, hr, h⟩; obtain ⟨h1, h2, h3⟩ := e r hr; rw [h1, h2, h3] at h; exact ⟨r, hr, h⟩
  · rintro ⟨r, hr, h⟩; obtain ⟨h1, h2, h3⟩ := e r hr; rw [← h1, ← h2, ← h3] at h; exact ⟨r, hr, h⟩

theorem attnWord_setRg (b : Block) (n : Nat) :
    attnWord (setRg b Reg.HOST_ATTN_STATUS (attnWord b n)) n = attnWord b n := by
  have h : attnBits (setRg b Reg.HOST_ATTN_STATUS (attnWord b n)) n = attnBits b n := by
    unfold attnBits safeState
    rw [rrAttn_congr (b := b), rg_setRg, rg_setRg, if_neg (by decide), if_neg (by decide)]
    · intro a ha
      simp only [settleRegs, List.mem_cons, List.not_mem_nil, or_false, not_or] at ha
      rw [rg_setRg, if_neg ha.1]
  have hb : wd (attnBits b n) &&& 0xEC#32 = 0#32 := by
    unfold attnBits
    cases decide (wd n ≠ rg b Reg.HOST_EVT_RD) <;> cases rrAttn b <;> cases decide (safeState b = 2) <;> decide
  unfold attnWord
  unfold attnWord at h
  rw [h]
  simp only [rg_setRg, if_true]
  generalize wd (attnBits b n) = x at hb
  generalize rg b Reg.HOST_ATTN_STATUS = y
  have : ((y &&& 0xEC#32 ||| x) &&& 0xEC#32) = y &&& 0xEC#32 := by
    rw [BitVec.and_comm, BitVec.and_or_distrib_left, BitVec.and_comm 0xEC#32 x, hb, BitVec.or_zero,
      BitVec.and_comm, BitVec.and_assoc, BitVec.and_self]
  rw [this]

/-- What `pins` leaves: HOST_ATTN_STATUS and the pins follow. -/
theorem pins_follow (p : Published) (b : Block) :
    rg (pins p b).2 Reg.HOST_ATTN_STATUS = attnWord (pins p b).2 (pins p b).1.seq ∧
    (pins p b).1.attnN = attnPin (pins p b).2 ∧ (pins p b).1.safeN = safePin (pins p b).2 ∧
    (pins p b).1.balls = ballsOf (pins p b).2 := by
  refine ⟨?_, rfl, rfl, rfl⟩
  unfold pins; simp only
  rw [attnWord_setRg, rg_setRg, if_pos rfl]

/-- The always-on part, field by field. -/
theorem same_pwr {b b' : Block} (h : Part.same b b' .pwr) : b'.pwr.ccy = b.pwr.ccy ∧ b'.pwr.core = b.pwr.core ∧
    b'.pwr.held = b.pwr.held ∧ b'.pwr.port = b.pwr.port ∧ b'.pwr.devid = b.pwr.devid ∧ b'.pwr.suspect = b.pwr.suspect ∧
    b'.pwr.dipReq = b.pwr.dipReq ∧ b'.pwr.dipTicks = b.pwr.dipTicks ∧ b'.pwr.dipC = b.pwr.dipC ∧
    b'.pwr.dipEndC = b.pwr.dipEndC ∧ b'.pwr.wakeQ = b.pwr.wakeQ ∧ b'.pwr.offLater = b.pwr.offLater ∧
    b'.pwr.fillC = b.pwr.fillC ∧ b'.pwr.straps = b.pwr.straps ∧ b'.pwr.low = b.pwr.low :=
  have k : b'.pwr.unmarked = b.pwr.unmarked := h
  ⟨(congrArg Pwr.ccy k :), (congrArg Pwr.core k :), (congrArg Pwr.held k :), (congrArg Pwr.port k :), (congrArg Pwr.devid k :),
   (congrArg Pwr.suspect k :), (congrArg Pwr.dipReq k :), (congrArg Pwr.dipTicks k :), (congrArg Pwr.dipC k :),
   (congrArg Pwr.dipEndC k :), (congrArg Pwr.wakeQ k :), (congrArg Pwr.offLater k :), (congrArg Pwr.fillC k :),
   (congrArg Pwr.straps k :), (congrArg Pwr.low k :)⟩

/-! ## A command -/

/-- Registers after a command, outside what the thresher and the pins write. -/
theorem rg_leave (p : Published) (b : Block) (a : Nat) (h : a ∉ settleRegs) : rg (leave p b).2 a = rg b a := by
  have h1 : a ≠ Reg.HOST_ATTN_STATUS := by
    simp only [settleRegs, List.mem_cons, List.not_mem_nil, or_false, not_or] at h; exact h.1
  unfold leave
  split
  · rw [rg_pins _ _ _ h1]; rfl
  · split
    · rw [rg_pins _ _ _ h1]; rfl
    · rw [rg_pins _ _ _ h1]; exact rg_takeRaised p b a h

/-- So are all parts of the block. -/
theorem same_leave (p : Published) (b : Block) (q : Part) : q.same b (leave p b).2 := by
  unfold leave
  split
  · have h := same_pins Published.init { b with pwr := { b.pwr with fresh := false } } q
    cases q <;> exact h
  · split
    · have h := same_pins p { b with retry := !b.held.isEmpty } q
      cases q <;> exact h
    · next hc =>
      obtain ⟨o, k, h2⟩ := takeRaised_eq p b
      simp only [h2]
      split <;> cases q <;> first | exact ⟨rfl, rfl⟩ | rfl | exact fun hn => absurd hn hc

/-- The block after a command is that of its effect, but for the registers that the thresher and the pins write. -/
theorem rg_runBlk (c : Nat) (f : Published → Block → Block) (p : Published) (b : Block) (a : Nat) (h : a ∉ settleRegs) :
    rg (runBlk c f p b).2 a = rg (f (found c p b).1 (found c p b).2) a := rg_leave _ _ a h

theorem same_runBlk (c : Nat) (f : Published → Block → Block) (p : Published) (b : Block) (q : Part) :
    q.same (f (found c p b).1 (found c p b).2) (runBlk c f p b).2 := same_leave _ _ q

/-- A command answers a next state; the queue stands, and so does everything but the effect. -/
theorem run_spec (c : Nat) (f : Block → Block) (s : State) : ∃ t, run c f s = .next t ∧ t.pending = s.pending ∧
    (∀ q : Part, q.same (f (s.asFound c)) t.blk) ∧ (∀ a, a ∉ settleRegs → rg t.blk a = rg (f (s.asFound c)) a) :=
  ⟨_, rfl, rfl, same_runBlk c (fun _ => f) s.pub s.blk, rg_runBlk c (fun _ => f) s.pub s.blk⟩

/-- The same of a command that stands for a host write to a register. -/
theorem runWrite_spec (c : Nat) (f : Block → Block) (s : State) : ∃ t, runWrite c f s = .next t ∧ t.pending = s.pending ∧
    (∀ q : Part, q.same (f (s.asWritten c)) t.blk) ∧ (∀ a, a ∉ settleRegs → rg t.blk a = rg (f (s.asWritten c)) a) :=
  run_spec c (fun b => f (commandsFirst b)) s

theorem runPub_spec (c : Nat) (f : Published → Block → Block) (s : State) : ∃ t, runPub c f s = .next t ∧
    t.pending = s.pending ∧ (∀ q : Part, q.same (f (s.shown c) (s.asFound c)) t.blk) ∧
    (∀ a, a ∉ settleRegs → rg t.blk a = rg (f (s.shown c) (s.asFound c)) a) :=
  ⟨_, rfl, rfl, same_runBlk c f s.pub s.blk, rg_runBlk c f s.pub s.blk⟩

theorem same_trans {b1 b2 b3 : Block} (q : Part) (hc : b3.pwr.core = true → b2.pwr.core = true) (h : q.same b1 b2)
    (k : q.same b2 b3) : q.same b1 b3 := by
  cases q <;> simp only [Part.same] at * <;>
    first | exact k.trans h | exact ⟨k.1.trans h.1, k.2.trans h.2⟩ | exact fun hn => (k hn).trans (h (hc hn))

/-- Events that a command raises wait for the end of the cycle. -/
theorem raised_of_effect {l : List Ev} {b b1 b2 : Block} (h : ∀ q : Part, q.same b1 b2) (hr : Raised l b b1) :
    Raised l b b2 := fun hn =>
  have hc := (same_pwr (h .pwr)).2.1
  (h .raised hn).trans (hr (hc ▸ hn))

/-- The frame of a command is that of its effect. -/
theorem keeps_of_effect {ps : List Part} {rs : List Nat} {b b1 b2 : Block} (h : ∀ q : Part, q.same b1 b2)
    (k : ∀ a, a ∉ settleRegs → rg b2 a = rg b1 a) (hp : ∀ q : Part, q ∉ ps → q.same b b1)
    (hr : ∀ a, a ∉ rs → rg b1 a = rg b a) : Keeps ps rs b b2 :=
  ⟨fun q hq => same_trans q (fun hn => (same_pwr (h .pwr)).2.1 ▸ hn) (hp q hq) (h q), fun a ha hs => (k a hs).trans (hr a ha)⟩

/-! ## Instructions of a tiller -/

theorem issue_of_can {b : Block} {t pc : Nat} (h : CanIssue b t pc) (f : Block → Block) : issue b t pc f = f b := by
  unfold issue
  rw [if_pos h.1, if_neg (Nat.not_le.2 h.2.1)]

theorem fenced_of_none {b : Block} {t : Nat} (h : fencedT b t = none) (f : Block → Block) : fenced t f b = f b := by
  unfold fenced
  rw [h]

theorem setX_eq (b : Block) (t i : Nat) (w : Word) : setX b t i w = setTl b t ((tl b t).wrX i w) := rfl

/-- A core register reads back what was written, and every other one stands. -/
theorem xReg_wrX (x : Tiller) (i j : Nat) (w : Word) :
    xReg (x.wrX i w) j = if j % 32 = i % 32 then w else xReg x j := spGet_spPut _ x.x (i % 32) (j % 32) w

/-- Writing one tiller leaves the others alone. -/
theorem tlrIs_of_same {t : Nat} {y : Tiller} {b b' : Block} (h : Part.same (setTl b t y) b' .tlr) : TlrIs t y b b' := by
  intro u
  have k : b'.tlr = (setTl b t y).tlr := h
  have e : tl b' u = tl (setTl b t y) u := by unfold tl; rw [k]
  rw [e, tl_setTl]

/-- Bytes that a unit of the part writes by itself reach GDDR6 whole, or nothing does. -/
theorem gdPut_spec (b : Block) (a : Nat) (l : List Byte) :
    gdPut b a l = (gdStore b a l, true) ∨ gdPut b a l = (b, false) := by
  unfold gdPut; split
  · exact .inr rfl
  · exact .inl rfl

@[simp] theorem rg_gdStore (b : Block) (a j : Nat) (l : List Byte) : rg (gdStore b a l) j = rg b j := rfl

/-- The straps that are sampled. -/
theorem sampleStraps_spec (n : Nat) (b : Block) : (sampleStraps n b).pwr = { b.pwr with devid := n % 64, straps := n % 64 } ∧
    ∀ j, j ≠ Reg.LNK_SYS → rg (sampleStraps n b) j = rg b j :=
  ⟨rfl, fun j h => by unfold sampleStraps; exact (rg_setRg _ _ j _).trans (if_neg h)⟩

/-- What a write of bytes leaves. -/
theorem wrote_wrBytes (m : List Host.Cell) (a : Nat) (l : List Byte) : Wrote a l m (wrBytes m a l) := by
  intro j
  split
  · next h =>
    obtain ⟨i, rfl⟩ : ∃ i, j = a + i := ⟨j - a, by omega⟩
    have hi : i < l.length := by omega
    rw [rdByte_wrBytes_in l m a i hi, Nat.add_sub_cancel_left, List.getD_eq_getElem?_getD, List.getElem?_eq_getElem hi]
    rfl
  · next h => exact rdByte_wrBytes_out l m a j (by omega)

end Sys2Proof.Machine
end

