-- ==== Sys2Proof/WellFormed.lean ====
section
/-! DEFINITION. Which commands are well formed: every operand lies in the range that the specification gives the thing it
names (a port, a tiller, a register, a line number). The meanings are total: they do not need it. -/

namespace Sys2Proof

open Machine

/-- An operand below its bound. -/
def below (n k : Nat) : Bool := decide (n < k)

/-- Physical units of a class (R421): 36 tillers, five flow engines, nine of each other class. -/
def classUnits (cls : Nat) : Nat := if cls = 0 then 36 else if cls = 5 then 5 else 9

/-- Registers of a vector instruction (R213): V0 to V31, x0 to x31; format codes of R206. -/
def VInsn.ok : VInsn → Bool
  | .fp _ vd va vb => below vd 32 && below va 32 && below vb 32
  | .fma vd va vb vc => below vd 32 && below va 32 && below vb 32 && below vc 32
  | .abs vd va => below vd 32 && below va 32
  | .neg vd va => below vd 32 && below va 32
  | .int _ _ vd va vb => below vd 32 && below va 32 && below vb 32
  | .cmp _ vd va vb => below vd 32 && below va 32 && below vb 32
  | .sel vd va vb vc => below vd 32 && below va 32 && below vb 32 && below vc 32
  | .cvt src dst vd va => below src 16 && below dst 16 && below vd 32 && below va 32
  | .red _ vd va => below vd 32 && below va 32
  | .sfu _ vd va => below vd 32 && below va 32
  | .ld vd x => below vd 32 && below x 32
  | .st vs x => below vs 32 && below x 32
  | .acc vd x => below vd 32 && below x 32
  | .mask x => below x 32

/-- A load or store of 1, 2 or 4 bytes (R254, R256). -/
def MemOp.ok : MemOp → Bool
  | .load size _ xd xa _ => [1, 2, 4].contains size && below xd 32 && below xa 32
  | .store size xs xa _ => [1, 2, 4].contains size && below xs 32 && below xa 32

/-- What queues have passed on: of the four links and the sixteen panicles (R407). -/
def Machine.Drained.ok (g : Drained) : Bool := g.links.all (fun e => below e.1 4) && g.pans.all (fun e => below e.1 16)

/-- The checks of a command. -/
def Instr.wellFormed : Instr → Bool
  | .porst _ => true
  | .supplyReset _ fall => below fall.rail 8 && below fall.straps 64
  | .warmReset _ w => below w.straps 64
  | .debugReset at_ => below at_.straps 64
  | .alignmentPulse _ => true
  | .pllLockLoss _ pll => below pll 7
  | .bootDone _ _ _ _ step => (match step with | .stage n _ => decide (1 ≤ n ∧ n ≤ 5) | .ended _ => true)
  | .dipStart _ => true
  | .dipEnd _ => true
  | .suspectIntervalEnd _ => true
  | .brownoutTmax _ => true
  | .vcoreMeasure _ mv => below mv 4096
  | .clkFreqMeasure _ q f => below q 10 && below f 65536
  | .encoderCount _ _ _ => true
  | .zEdge _ _ _ => true
  | .ltrigEdge _ => true
  | .stop _ => true
  | .encLoss _ pair => below pair 3
  | .tbEnable _ _ => true
  | .tbDisable _ _ => true
  | .tbDirChange _ _ => true
  | .tbSrcChange _ _ => true
  | .lineTick _ => true
  | .triggerFire _ n => below n 8
  | .slotOpen _ stage => below stage 4096
  | .slotClose _ stage line => below stage 4096 && below line (2 ^ 44)
  | .stageHung _ stage line => below stage 4096 && below line (2 ^ 44)
  | .stageComplete _ stage line errs => below stage 4096 && below line (2 ^ 44) && errs.all (fun e => below e.1 (2 ^ 26))
  | .stereoPhaseADone _ stage line errs => below stage 4096 && below line (2 ^ 44) && errs.all (fun e => below e.1 (2 ^ 26))
  | .laneStatsDone _ n => below n 8
  | .commandScan _ => true
  | .cmdNop _ => true
  | .cmdWrite32 _ => true
  | .cmdSignal _ => true
  | .cmdMark _ => true
  | .cmdGoldenReq _ => true
  | .seqEnable _ _ => true
  | .seqHalt _ _ => true
  | .dupMismatch _ => true
  | .tblEccError _ copy _ => below copy 2
  | .ingDup _ item => (decide (item = 0) || (decide (0x10 ≤ item) && below item 0x18) || (decide (0x20 ≤ item) && below item 0x28))
  | .lineStart _ n _ => below n 8
  | .lineEnd _ ⟨n, _⟩ => below n 8
  | .windowOpen _ n => below n 8
  | .startDeadline _ n => below n 8
  | .endDeadline _ n => below n 8
  | .fvalFall _ n => below n 8
  | .cpClkLoss _ n => below n 8
  | .cpClkBack _ n => below n 8
  | .headWriteDone _ n => below n 8
  | .headNack _ n => below n 8
  | .feTblDataWrite _ n _ => below n 8
  | .feTblDataRead _ n => below n 8
  | .wpMeshDataWrite _ _ => true
  | .wpMeshDataRead _ => true
  | .ftPatDataRead _ => true
  | .grnFlagDataRead _ => true
  | .syncVtDataRead _ => true
  | .tslot _ t pc xd => below t 36 && below pc (2 ^ 16) && below xd 32
  | .tpull _ t pc ⟨xs, errs⟩ => below t 36 && below pc (2 ^ 16) && below xs 32 && errs.all (fun e => below e.1 (2 ^ 21))
  | .taskGrant _ => true
  | .tdone _ t pc => below t 36 && below pc (2 ^ 16)
  | .taskComplete _ t => below t 36
  | .tabort _ t pc => below t 36 && below pc (2 ^ 16)
  | .mma _ t pc ⟨xs, errs⟩ => below t 36 && below pc (2 ^ 16) && below xs 32 && errs.all (fun e => below e.1 (2 ^ 21))
  | .arrayOpComplete _ ⟨t, errs⟩ => below t 36 && errs.all (fun e => below e.1 (2 ^ 21))
  | .mwait _ t pc => below t 36 && below pc (2 ^ 16)
  | .vectorBundle _ t pc ⟨insns, errs⟩ => below t 36 && below pc (2 ^ 16) && (decide (insns.length ≤ 4) && insns.all VInsn.ok) && errs.all (fun e => below e.1 (2 ^ 21))
  | .coreLoadStore _ t pc op errs => below t 36 && below pc (2 ^ 16) && op.ok && errs.all (fun e => below e.1 (2 ^ 34))
  | .trw _ t pc vs width _ => below t 36 && below pc (2 ^ 16) && below vs 32 && below width 3
  | .trr _ t pc vd width => below t 36 && below pc (2 ^ 16) && below vd 32 && below width 3
  | .hdrmrg _ t pc xd xs1 ⟨xs2, errs⟩ => below t 36 && below pc (2 ^ 16) && below xd 32 && below xs1 32 && below xs2 32 && errs.all (fun e => below e.1 (2 ^ 21))
  | .wchain _ t pc ⟨xs, errs⟩ => below t 36 && below pc (2 ^ 16) && below xs 32 && errs.all (fun e => below e.1 (2 ^ 21))
  | .wchainComplete _ t => below t 36
  | .patch _ t pc ⟨xs, errs⟩ => below t 36 && below pc (2 ^ 16) && below xs 32 && errs.all (fun e => below e.1 (2 ^ 21))
  | .ssig _ t pc xd xv xs => below t 36 && below pc (2 ^ 16) && below xd 32 && below xv 32 && below xs 32
  | .scons _ t pc xd xv xs => below t 36 && below pc (2 ^ 16) && below xd 32 && below xv 32 && below xs 32
  | .swait _ t pc xd xv xs mode => below t 36 && below pc (2 ^ 16) && below xd 32 && below xv 32 && below xs 32 && below mode 4
  | .sbar _ t pc xd xv => below t 36 && below pc (2 ^ 16) && below xd 32 && below xv 32
  | .sread _ t pc xd xv sel => below t 36 && below pc (2 ^ 16) && below xd 32 && below xv 32 && below sel 4
  | .waitRelease _ t => below t 36
  | .ftest _ t pc xd xs => below t 36 && below pc (2 ^ 16) && below xd 32 && below xs 32
  | .fwait _ t pc xs => below t 36 && below pc (2 ^ 16) && below xs 32
  | .fclr _ t pc xs => below t 36 && below pc (2 ^ 16) && below xs 32
  | .fset _ t pc xs => below t 36 && below pc (2 ^ 16) && below xs 32
  | .sarm _ t pc xd ⟨xs, errs⟩ slot => below t 36 && below pc (2 ^ 16) && below xd 32 && below xs 32 && below slot 64 && errs.all (fun e => below e.1 (2 ^ 21))
  | .srearm _ t pc xd ⟨xs, errs⟩ slot => below t 36 && below pc (2 ^ 16) && below xd 32 && below xs 32 && below slot 64 && errs.all (fun e => below e.1 (2 ^ 21))
  | .squery _ t pc xd slot => below t 36 && below pc (2 ^ 16) && below xd 32 && below slot 64
  | .sresume _ t pc ch _ => below t 36 && below pc (2 ^ 16) && below ch 16
  | .sdisarm _ t pc slot => below t 36 && below pc (2 ^ 16) && below slot 64
  | .mfill _ t pc xd xn xw => below t 36 && below pc (2 ^ 16) && below xd 32 && below xn 32 && below xw 32
  | .mcopy _ t pc xd xn xs => below t 36 && below pc (2 ^ 16) && below xd 32 && below xn 32 && below xs 32
  | .fillCopyComplete _ ⟨t, errs⟩ => below t 36 && errs.all (fun e => below e.1 (2 ^ 21))
  | .dmaStart _ t slot => below t 36 && below slot 64
  | .arbGrant _ _ point => below point 81
  | .dmaUnitDone _ t slot ⟨near, far, gone⟩ data => below t 36 && below slot 64 && gone.ok && near.all (fun e => below e.1 (2 ^ 21)) && far.all (fun e => below e.1 (2 ^ 34)) && (decide (data.length ≤ 64))
  | .dmaComplete _ t slot => below t 36 && below slot 64
  | .dmaResumeWrite _ t _ => below t 36
  | .scrubWrite _ t a => below t 37 && below a (2 ^ 26)
  | .cacheResize _ t => below t 36
  | .cacheResizeDone _ t => below t 36
  | .glumeRequest _ ⟨_, errs⟩ => errs.all (fun e => below e.1 (2 ^ 21))
  | .syncCellApply _ => true
  | .syncCellLoad _ => true
  | .contextReset _ ctx => below ctx 16
  | .syncEccError _ cell => below cell 4096
  | .dspClrWait _ list => below list 64
  | .dspClrHwm _ list => below list 64
  | .hostRead _ a => below a.off (2 ^ 33)
  | .hostWrite _ a _ => below a.off (2 ^ 33)
  | .hostMaskedWrite _ off _ mask => below off (2 ^ 33) && below mask 16
  | .modeRegisterWrite _ ch mr v => below ch 2 && below mr 64 && below v 256
  | .modeRegisterRead _ ch mr => below ch 2 && below mr 64
  | .hostRefresh _ ch => below ch 2
  | .selfRefreshEntry _ ch => below ch 2
  | .selfRefreshExit _ ch => below ch 2
  | .powerDownEntry _ ch => below ch 2
  | .powerDownExit _ ch => below ch 2
  | .zqCalibration _ ch => below ch 2
  | .commandBusTraining _ ch => below ch 2
  | .wck2ckLevelling _ ch => below ch 2
  | .readDqCalibration _ ch => below ch 2
  | .writeFifo _ ch _ => below ch 2
  | .hostResetN _ => true
  | .mirrorUpdate _ off => below off (2 ^ 20)
  | .crTailWrite _ ring _ => below ring 16
  | .syncApertureWrite _ off _ => below off (2 ^ 33)
  | .broadcastWrite _ off _ => below off (2 ^ 33)
  | .deviceWindowWrite _ off _ => below off (2 ^ 33)
  | .remoteRead _ _ => true
  | .remoteReadDone _ _ _ => true
  | .frameMap _ f => below f 64
  | .frameMapZero _ f => below f 64
  | .frameFlush _ f => below f 64
  | .frameUnmap _ f => below f 64
  | .frameOpDone _ f errs => below f 64 && errs.all (fun e => below e.1 (2 ^ 34))
  | .linkUp _ l dev _ => below l 4 && below dev 64
  | .linkDown _ ⟨l, _⟩ => below l 4
  | .linkRetrain _ _ => true
  | .linkPacketArrival _ ⟨l, _⟩ _ ⟨_, gone, errs⟩ => below l 4 && gone.ok && errs.all (fun e => below e.1 (2 ^ 21))
  | .linkRetry _ l _ _ => below l 4
  | .unreachNotice _ dev _ => below dev 64
  | .resultRecordArrival _ ring words => below ring 16 && decide (8 ≤ words.length)
  | .eventForwardArrival _ words => decide (words.length = 4)
  | .evtLostForward _ => true
  | .safeRecordArrival _ words => decide (8 ≤ words.length)
  | .paniclePacket _ ⟨_, errs⟩ gone => gone.ok && errs.all (fun e => below e.1 (2 ^ 21))
  | .cfgLoad _ => true
  | .loadDone _ _ errs _ => errs.all (fun e => below e.1 (2 ^ 34))
  | .cfgCommit _ => true
  | .cfgCommitNext _ => true
  | .cfgAbandon _ => true
  | .cfgAttest _ => true
  | .attestDone _ => true
  | .firmwareReloadDone _ t => below t 36
  | .unitFence _ cls slot => below cls 6 && below slot 64
  | .fenceFlush _ cls slot => below cls 6 && below slot 64
  | .unitSwap _ cls slot => below cls 6 && below slot 64
  | .unitReadmit _ cls phys => below cls 6 && below phys (classUnits cls)
  | .clearDone _ cls phys => below cls 6 && below phys (classUnits cls)
  | .safeDetect _ => true
  | .safeForce _ _ => true
  | .safeClear _ _ => true
  | .chombeMismatch _ => true
  | .coreClkLoss _ => true
  | .selfTestGo _ cls phys => below cls 6 && below phys (classUnits cls)
  | .selfTestDone _ _ => true
  | .recStart _ _ => true
  | .recStop _ _ => true
  | .recLostWrite _ => true
  | .replayStart _ _ => true
  | .replayRecordApply _ _ => true
  | .gddr6Refresh _ ch _ => below ch 16
  | .memHot _ comp => below comp 8
  | .memCool _ => true
  | .memReadDone _ a _ => below a (2 ^ 34)
  | .memWriteEdc _ a _ _ => below a (2 ^ 34)
  | .memCeWriteback _ a => below a (2 ^ 34)
  | .regionOffRequest _ r => below r 15
  | .regionOff _ r => below r 15
  | .regionOnRequest _ r => below r 15
  | .regionFillDone _ r => below r 15
  | .ptInvalidate _ _ => true
  | .ptInvalidateDone _ => true
  | .domainOffRequest _ d => below d 142
  | .domainOff _ d => below d 142
  | .domainWakeRequest _ d => below d 142
  | .domainOn _ d => below d 142
  | .bankGroupOffRequest _ t g => below t 36 && below g 4
  | .bankGroupOff _ t g => below t 36 && below g 4
  | .bankGroupWakeRequest _ t g => below t 36 && below g 4
  | .bankGroupOn _ t g => below t 36 && below g 4
  | .registerWrite _ off _ => below off (2 ^ 20)
  | .porstNRise _ devid => below devid 64
  | .hostPortReady _ => true
  | .validTransfer _ n _ => below n 8

end Sys2Proof
end

