-- ==== Sys2Proof/Tests/Slice0.lean ====
section
/-! SUPPORT. Tests: for every statement with hypotheses a state and operands that meet them; well-formed and ill-formed
commands; the specification's worked examples; single steps. -/

open Sys2Proof Sys2Proof.Machine

namespace Sys2Proof.Tests

-- one theorem at a time: the kernel evaluations would else all wait at once
set_option Elab.async false

/-! ## Builders -/

/-- A state right after reset but for the registers listed, as read and in force, and the change `f`. -/
def mk (r : List (Nat × Word)) (f : Block → Block) : State :=
  { State.reset with blk := f { Block.init with regs := { Regs.init with cur := r, force := r } } }

/-- The core clock runs and the host port is up. -/
def up (b : Block) : Block := { b with pwr := { b.pwr with core := true, port := true } }

/-- The block after a command. -/
def after (i : Instr) (s : State) : Block :=
  match exec i s with
  | .next t => t.blk
  | _ => s.blk

/-- Words, bytes and packets of zeros. -/
def w8 : List Word := List.replicate 8 0#32
def pk0 : Packet := { src := 0, dst := 0, vc := 0, nums := [(0, 1)], lost := [], relay := none, body := .rrdAns 0#32 }
/-- The queues of R407 have passed on nothing. -/
def gone0 : Drained := ⟨[], []⟩
def cs0 : CamSample := ⟨true, true, true, 0#48⟩
def con0 : Content :=
  { bad := none, system := none, envs := [], sched := none, sync := none, fw := [], param := [], calib := [], glume := [],
    arb := [], gold := none }

/-! ## What the statements assume is met: one theorem for each, every clause at a state and operands of its own -/

/-- A record waits on a member whose route to device 0 is UP. -/
def fwdS : State :=
  { mk [(Reg.LNK_SYS, 0x80000040#32), (Reg.LNK_STATUS, 2#32)]
      (fun b => up { b with pwr := { b.pwr with devid := 1 }, links := { b.links with route := [(0, 0, 0)] } }) with
    pub := { Published.init with fwdQ := [[1#32, 2#32, 3#32, 4#32]] } }

theorem witness_IdleBlockCountsACycle :
    State.reset.pending = [] ∧ State.reset.pub.fwdQ = [] ∧ State.reset.blk.pwr.core = false ∧
    (mk [] up).pending = [] ∧ (mk [] up).pub.fwdQ = [] ∧ (mk [] up).blk.pwr.core = true ∧ nextDue (mk [] up).blk = none ∧
    fwdS.pending = [] ∧ fwdS.pub.fwdQ = [[1#32, 2#32, 3#32, 4#32]] ∧ canForward fwdS.blk = true := by
  decide +kernel

/-- The outcome of a step, where it is a next state. -/
def stepped (s : State) : State :=
  match step s with
  | .next t => t
  | _ => s

theorem witness_StepKeepsPinsAndAttention : (∃ t, step State.reset = .next t) ∧
    (stepped State.reset).blk.pwr.low = none ∧ (trigOf (stepped State.reset).blk 7).cfgd = false ∧
    (stepped { State.reset with pending := [.supplyReset 9 ⟨1, 0⟩] }).blk.pwr.low = some 1 ∧
    (stepped { State.reset with pending := [.supplyReset 9 ⟨4, 0⟩] }).blk.pwr.low = some 4 :=
  ⟨⟨_, rfl⟩, by decide +kernel⟩

/-- The last sequence number, with its record at the ring's last place. -/
def lastSeq : State :=
  { State.reset with pub := { Published.init with seq := 2 ^ 32 - 1, ring := [(4094, [0#32, 0xFFFFFFFE#32, 0#32, 0#32])] } }

theorem witness_StepKeepsEventRing :
    RingPlaced State.reset ∧ RingPlaced lastSeq ∧ ∃ t, step lastSeq = .next t :=
  ⟨by unfold RingPlaced; decide, by unfold RingPlaced; decide, ⟨_, rfl⟩⟩

/-- A forwarding queue of `n` records. -/
def fwdOf (n : Nat) : Published := { Published.init with fwdQ := List.replicate n [] }

theorem witness_ThresherTakesEventsInOrder :
    ([⟨0x10, 0, false, none⟩, ⟨0x11, 0, false, none⟩] : List Ev).length ≤ 4096 ∧ lastSeq.pub.seq < 2 ^ 32 ∧
    ([⟨0x10, 0, false, none⟩, ⟨0x11, 0, false, none⟩] : List Ev)[1]? = some ⟨0x11, 0, false, none⟩ ∧
    (63 : Nat) ≠ 0 ∧ (0xA0 : Nat) ≠ 0xA6 ∧ (fwdOf 255).fwdQ.length < 256 ∧ 256 ≤ (fwdOf 256).fwdQ.length := by decide +kernel

/-- A LIVE counter at cell 4095, and a signal on its way to it. -/
def sigS (k : Int) : State :=
  mk [] (fun b => up { b with
    now := { Now.init with ops := [⟨7, 1, 0, 5, 0, 4095, .signal k⟩] },
    sync := { b.sync with cells := [(4095, ⟨.counter, .live, 0, false, false, 0, 4, 0⟩)] } })

/-- An APPLY of a LIVE counter that holds 9, and a tiller's signal of -7, of which the signal came first. -/
def putSig (k : Nat) : Block :=
  { Block.init with now := { Now.init with
      ops := [⟨5, 3, 0, 2, 0, k, .signal (-7)⟩, ⟨2, 0, 0, 5, 0, k, .put ⟨.counter, .live, 0, false, false, 0, 9, 0⟩⟩] } }

theorem witness_CycleEndsInTheOrderOfItsSteps :
    (sigS 1).blk.pwr.ccy < 9 ∧
    ([⟨7, 1, 0, 5, 0, 4095, .signal 1⟩, ⟨3, 7, 0, 0, 7, 4095, .signal 2⟩] : List CellOp).Perm
      [⟨3, 7, 0, 0, 7, 4095, .signal 2⟩, ⟨7, 1, 0, 5, 0, 4095, .signal 1⟩] ∧
    opLt ⟨3, 7, 0, 0, 7, 4095, .signal 2⟩ ⟨7, 1, 0, 5, 0, 4095, .signal 1⟩ = true ∧
    (sigS (-4)).blk.now.ops = [⟨7, 1, 0, 5, 0, 4095, .signal (-4)⟩] ∧ (cell (sigS (-4)).blk 4095).state = .live ∧
    (cell (sigS (-4)).blk 4095).kind = .counter ∧ 0 ≤ ((cell (sigS (-4)).blk 4095).val : Int) + -4 ∧
    (sigS 1).blk.now.ops.Perm [⟨7, 1, 0, 5, 0, 4095, .signal 1⟩] ∧
    ([⟨3, 7, 0, 0, 7, 4095, .signal 2⟩, ⟨7, 1, 0, 5, 0, 4095, .signal 1⟩] : List CellOp).Pairwise
      (fun o o' => o.step < o'.step ∨ (o.step = o'.step ∧ (o.k1 < o'.k1 ∨ (o.k1 = o'.k1 ∧ o.k2 < o'.k2)))) ∧
    cellOk (windowCell (mk [] up).blk) = true ∧
    (putSig 5).now.ops = [⟨5, 3, 0, 2, 0, 5, .signal (-7)⟩, ⟨2, 0, 0, 5, 0, 5, .put ⟨.counter, .live, 0, false, false, 0, 9, 0⟩⟩] ∧
    0 ≤ ((9 : Nat) : Int) + -7 := by
  refine ⟨?_, List.Perm.swap .., ?_, ?_, ?_, ?_, ?_, List.Perm.refl _, ?_, ?_, ?_, ?_⟩ <;> decide +kernel

theorem witness_ResetsLeaveTheResetValues : (0 : Nat) < 8 ∧ (7 : Nat) < 8 ∧ State.reset.blk.pwr.held = false ∧
    (mk [] (fun b => { b with pwr := { b.pwr with held := true } })).blk.pwr.held = true ∧
    Word.bit 0x5A000001#32 0 = true ∧ Word.fld 0x5A000001#32 31 24 = 0x5A ∧
    ¬(Word.bit 0x5A000000#32 0 = true ∧ Word.fld 0x5A000000#32 31 24 = 0x5A) ∧
    ¬(Word.bit 0x5B000001#32 0 = true ∧ Word.fld 0x5B000001#32 31 24 = 0x5A) := by decide

theorem witness_ClocksStartAndStop : (4 : Nat) < 5 ∧
    (rg ((mk [(Reg.CLK_STATUS, 0#32)] id).asFound 9) Reg.CLK_STATUS).bit 7 = false ∧
    ((mk [(Reg.CLK_STATUS, 0#32)] id).asFound 9).pwr.held = false ∧
    (rg ((mk [(Reg.CLK_STATUS, 0xBF#32)] up).asFound 9) Reg.CLK_STATUS).bit 7 = true ∧
    ((mk [] (fun b => { b with pwr := { b.pwr with held := true } })).asFound 9).pwr.held = true := by decide +kernel

/-- A directory whose one entry is a base of no length: boot enters stages 1 and 2, and stops for want of a unit record. -/
def flash2 : List Byte := wordBytes [0x564B4644#32, 1#32, 0#32, 0#32, 0#32, 0xA005EEE7#32]

/-- PWR_BOOT at a stage. -/
def bootS (st : Nat) : Block := (mk [(Reg.PWR_BOOT, wd (st * 2 ^ 28))] up).asFound 9

theorem witness_BootEndsOrStops :
    (bootS 0).pwr.core = true ∧ (rg (bootS 0) Reg.PWR_BOOT).fld 31 28 = 0 ∧ directory [] = none ∧
    (rg (bootS 1) Reg.PWR_BOOT).fld 31 28 < 2 ∧ 2 ≤ bootReach (bootRun flash2 [] con0 none (bootS 1)) ∧
    2 ≤ (rg (bootS 2) Reg.PWR_BOOT).fld 31 28 ∧ bootReach (bootRun flash2 [] con0 none (bootS 2)) < 3 ∧
    bootReach (bootRun [] [] con0 none (bootS 0)) < 1 ∧
    6 ≤ (rg (bootS 6) Reg.PWR_BOOT).fld 31 28 ∧ (bootS 7).pwr.core = true := by decide +kernel

/-- A dip as PWR_STATUS shows it, within the suspect interval or not, with SEQ_CTRL.EN and a T_MAX of 1 microsecond. -/
def dipS (dip : Word) (susp : Bool) : State :=
  mk [(Reg.PWR_STATUS, dip), (Reg.SEQ_CTRL, 1#32), (Reg.PWR_DIP_CFG, 1#32)]
    (fun b => up { b with pwr := { b.pwr with suspect := susp } })

theorem witness_SupplyDips :
    inDip ((dipS 0#32 false).asFound 9) = false ∧ ((dipS 0#32 false).asFound 9).pwr.suspect = false ∧
    inDip ((dipS 0#32 true).asFound 9) = false ∧ ((dipS 0#32 true).asFound 9).pwr.suspect = true ∧
    inDip ((dipS 1#32 true).asFound 9) = true ∧ ((dipS 1#32 true).asFound 9).pwr.dipReq = false ∧
    ((dipS 0#32 true).asFound 64).pwr.dipEndC + 64 ≤ ((dipS 0#32 true).asFound 64).pwr.ccy ∧
    ((dipS 0#32 true).asFound 63).pwr.ccy < ((dipS 0#32 true).asFound 63).pwr.dipEndC + 64 ∧
    (∀ x ∈ [(dipS 1#32 true).asFound 1250], (rg x Reg.SEQ_CTRL).bit 0 = true ∧
      x.pwr.dipC + 1250 * (rg x Reg.PWR_DIP_CFG).fld 15 0 ≤ x.pwr.ccy) ∧
    (∀ x ∈ [(dipS 1#32 true).asFound 1249], x.pwr.ccy < x.pwr.dipC + 1250 * (rg x Reg.PWR_DIP_CFG).fld 15 0) ∧
    (9 : Nat) < 10 := by decide +kernel

/-- Domain `d` in state `v`, with a place among those being woken. -/
def domS (d v : Nat) : State :=
  mk [(Reg.PWR_DOM_STATE (d / 16), wd (v * 4 ^ (d % 16))), (Reg.DBG_REC_CTRL, 0xF#32), (Reg.DBG_RPL_CTRL, 0#32)]
    (fun b => { b with pwr := { b.pwr with wakeQ := [d] } })

/-- Bank group `g` of tiller `t` in state `v`, its domain in state `d`. -/
def grpS (t g v d : Nat) : State :=
  mk [(Reg.PWR_SPAD t, wd (v * 4 ^ g * 256)), (Reg.PWR_DOM_STATE (spadDom t / 16), wd (d * 4 ^ (spadDom t % 16)))] up

theorem witness_PowerDomainsAndBankGroups :
    ∀ F ∈ [State.asFound, State.asWritten],
    (∀ d ∈ [0, 99, 141], d < 142 ∧
      domSt (F (domS d 0) 9) d = 0 ∧ domSt (F (domS d 1) 9) d = 1 ∧ domCond (F (domS d 1) 9) d = true ∧
      domSt (F (domS d 2) 9) d = 2 ∧ domSt (F (domS d 3) 9) d = 3 ∧
      d ∈ (F (domS d 3) 9).pwr.wakeQ ∧ d ∉ (F (domS d 3) 9).pwr.offLater) ∧
    (∀ p ∈ [(0, 0), (35, 3)], p.1 < 36 ∧ p.2 < 4 ∧
      grpSt (F (grpS p.1 p.2 0 0) 9) p.1 p.2 = 0 ∧ grpSt (F (grpS p.1 p.2 1 0) 9) p.1 p.2 = 1 ∧
      grpDrained (F (grpS p.1 p.2 1 0) 9) p.1 p.2 = true ∧
      grpSt (F (grpS p.1 p.2 2 0) 9) p.1 p.2 = 2 ∧ domSt (F (grpS p.1 p.2 2 0) 9) (spadDom p.1) = 0 ∧
      grpSt (F (grpS p.1 p.2 2 2) 9) p.1 p.2 = 2 ∧ domSt (F (grpS p.1 p.2 2 2) 9) (spadDom p.1) = 2 ∧
      grpSt (F (grpS p.1 p.2 3 0) 8192) p.1 p.2 = 3 ∧ domSt (F (grpS p.1 p.2 3 0) 8192) (spadDom p.1) = 0 ∧
      (rg (F (grpS p.1 p.2 3 0) 8192) (Reg.PWR_SPAD p.1)).bit p.2 = false ∧
      spGet (fun _ => 0) (F (grpS p.1 p.2 3 0) 8192).pwr.fillC (p.1 * 4 + p.2) + 8192
        ≤ (F (grpS p.1 p.2 3 0) 8192).pwr.ccy) := by decide +kernel

/-- A timebase: TB_CTRL (the glitch filter at `filt`), STATE, line 5 as the frontier, the position at `pos`. -/
def tbS (ctrl st : Word) (f : Tb → Tb) : State :=
  mk [(Reg.TB_CTRL, ctrl), (Reg.TB_STATUS, st), (Reg.TB_STOP_TIME, 1#32), (Reg.DBG_RPL_CTRL, 0#32), (Reg.TB_MISS, 0x1#32)]
    (fun b => up { b with tb := f { b.tb with frontier := 5, pos := 80 } })

theorem witness_QuadratureErrorAppliesNoCount :
    replayOn ((tbS 0x71#32 2#32 id).asFound 9) = false ∧ (rg ((tbS 0x71#32 2#32 id).asFound 9) Reg.TB_CTRL).bit 1 = false ∧
    (rg ((tbS 0x71#32 2#32 id).asFound 9) Reg.TB_CTRL).fld 6 4 + 1 ≤ 8 ∧
    true ≠ ((tbS 0x71#32 2#32 id).asFound 9).tb.a ∧ true ≠ ((tbS 0x71#32 2#32 id).asFound 9).tb.b := by decide +kernel

/-- The same with the levels of Z and LTRIG as last filtered. -/
def lvS (ctrl st : Word) (z lt : Bool) : Block := (tbS ctrl st (fun t => { t with z := z, lt := lt })).asFound 9

theorem witness_CountsMoveThePosition :
    replayOn (lvS 0x71#32 2#32 true true) = false ∧ 7 < (rg (lvS 0x71#32 2#32 true true) Reg.TB_CTRL).fld 6 4 + 1 ∧
    (lvS 0x71#32 2#32 true true).tb.z = true ∧ (lvS 0x71#32 2#32 true true).tb.lt = true ∧
    (rg (lvS 0x71#32 2#32 true true) Reg.TB_CTRL).fld 6 4 + 1 ≤ 8 ∧
    (∀ x ∈ [lvS 1#32 2#32 false false, lvS 5#32 1#32 false false], replayOn x = false ∧ tbEn x = true ∧
      (tbState x = 1 ∨ tbState x = 2) ∧ (rg x Reg.TB_CTRL).bit 1 = false ∧ (rg x Reg.TB_CTRL).fld 6 4 + 1 ≤ 1 ∧
      (∀ l ∈ [(true, false), (false, true)], (l.1 != x.tb.a) = (l.2 == x.tb.b))) ∧
    (true = true ↔ (((false, false), (true, false)) ∈ [((false, false), (true, false)), ((true, false), (true, true)),
      ((true, true), (false, true)), ((false, true), (false, false))] ↔
        (rg (lvS 1#32 2#32 false false) Reg.TB_CTRL).bit 2 = false)) ∧
    (false = true ↔ (((false, false), (true, false)) ∈ [((false, false), (true, false)), ((true, false), (true, true)),
      ((true, true), (false, true)), ((false, true), (false, false))] ↔
        (rg (lvS 5#32 1#32 false false) Reg.TB_CTRL).bit 2 = false)) ∧
    (∀ x ∈ [lvS 3#32 1#32 false true, lvS 0x73#32 1#32 false false], (rg x Reg.TB_CTRL).bit 1 = true ∧ tbState x = 1 ∧
      replayOn x = false ∧ tbEn x = true ∧ (rg x Reg.TB_CTRL).fld 6 4 + 1 ≤ 8 ∧
      ((rg x Reg.TB_CTRL).fld 6 4 + 1 ≤ 7 ∨ x.tb.lt = false)) ∧
    ((lvS 0x71#32 2#32 false false).tb.z = false ∧ (rg (lvS 0x71#32 2#32 false false) Reg.TB_CTRL).bit 1 = false) := by
  and_intros <;> decide +kernel

/-- The position `n` lines beyond the frontier soon after a tick, with the tick held or not. -/
def holdT (n : Nat) (held : Option Nat) : Block :=
  let b := (tbS 1#32 1#32 (fun t => { t with pos := (5 + n) * 16, lastArr := some 100, holdTb := held })).blk
  { b with pwr := { b.pwr with ccy := 1500 } }

theorem witness_HeldTicksAreIssuedAndMissedLinesCounted :
    (∀ n ∈ [1, 2, 3, 2 ^ 43 - 1], mayTick (holdT n none) = true ∧
      lineGt (posLine (holdT n none)) (holdT n none).tb.frontier = true ∧
      spaced (holdT n none) 20 = false ∧ (holdT n none).tb.holdTb = none ∧
      (holdT n (some 216)).tb.holdTb = some 216 ∧ tbBegin (216 + 1) ≤ (holdT n (some 216)).pwr.ccy ∧
      lineSub (posLine (holdT n (some 216))) (lineAdd (holdT n (some 216)).tb.frontier 1) = n - 1) ∧
    (rg (holdT 2 (some 216)) Reg.TB_MISS).fld 15 8 + 1 = (rg (holdT 2 (some 216)) Reg.TB_MISS).fld 7 0 := by decide +kernel

theorem witness_TimebaseStopsIsLostAndIsControlled :
    ∀ F ∈ [State.asFound, State.asWritten],
    (rg (F (tbS 0#32 0#32 id) 9) Reg.TB_CTRL).bit 0 = false ∧ tbState (F (tbS 0#32 0#32 id) 9) = 0 ∧
    (rg (F (tbS 1#32 1#32 id) 9) Reg.TB_CTRL).bit 0 = true ∧
    Word.bit 5#32 2 ≠ (rg (F (tbS 1#32 1#32 id) 9) Reg.TB_CTRL).bit 2 ∧
    Word.bit 5#32 1 = (rg (F (tbS 1#32 1#32 id) 9) Reg.TB_CTRL).bit 1 ∧
    Word.bit 5#32 0 = (rg (F (tbS 1#32 1#32 id) 9) Reg.TB_CTRL).bit 0 ∧
    tbState (F (tbS 1#32 2#32 id) 9) = 2 ∧
    Word.bit 3#32 1 ≠ (rg (F (tbS 1#32 1#32 id) 9) Reg.TB_CTRL).bit 1 ∧
    Word.bit 3#32 0 = (rg (F (tbS 1#32 1#32 id) 9) Reg.TB_CTRL).bit 0 ∧
    Word.bit 2#32 1 ≠ (rg (F (tbS 0#32 0#32 id) 9) Reg.TB_CTRL).bit 1 ∧
    Word.bit 2#32 0 = (rg (F (tbS 0#32 0#32 id) 9) Reg.TB_CTRL).bit 0 ∧
    tbState (F (tbS 1#32 1#32 id) 1250) = 1 ∧
    (F (tbS 1#32 1#32 id) 1250).tb.lastCount + (rg (F (tbS 1#32 1#32 id) 1250) Reg.TB_STOP_TIME).fld 23 0 * 1250
      ≤ (F (tbS 1#32 1#32 id) 1250).pwr.ccy ∧
    (F (tbS 1#32 1#32 id) 1249).pwr.ccy
      < (F (tbS 1#32 1#32 id) 1249).tb.lastCount + (rg (F (tbS 1#32 1#32 id) 1249) Reg.TB_STOP_TIME).fld 23 0 * 1250 ∧
    replayOn (F (tbS 1#32 1#32 id) 9) = false ∧ tbEn (F (tbS 1#32 1#32 id) 9) = true ∧
    tbState (F (tbS 1#32 1#32 id) 9) ≠ 3 ∧ tbState (F (tbS 3#32 2#32 id) 9) ≠ 3 ∧
    (if (rg (F (tbS 1#32 1#32 id) 9) Reg.TB_CTRL).bit 1 then (1 : Nat) = 2 else (1 : Nat) < 2) ∧
    ¬(if (rg (F (tbS 1#32 1#32 id) 9) Reg.TB_CTRL).bit 1 then (2 : Nat) = 2 else (2 : Nat) < 2) ∧
    (if (rg (F (tbS 3#32 2#32 id) 9) Reg.TB_CTRL).bit 1 then (2 : Nat) = 2 else (2 : Nat) < 2) := by decide +kernel

/-- A tick on its way that arrives in cycle 40, with the rachis LOADED and enabled, or not. -/
def tickS (ctrl : Word) (i : Flight) : State :=
  mk [(Reg.TB_CTRL, 1#32), (Reg.TB_STATUS, 1#32), (Reg.SEQ_CTRL, ctrl), (Reg.SEQ_STATUS, 1#32)]
    (fun b => up { b with tb := { b.tb with frontier := i.line, pos := i.line * 16, flight := some i } })

theorem witness_TickArrivesAndOpensTheRow :
    ∀ i ∈ ([⟨6, [], 0, false, false, 40⟩, ⟨7, [6], 15, true, false, 40⟩, ⟨1024, [], 0, false, true, 40⟩] : List Flight),
    ∀ n ∈ [0, 1],
    ((tickS (wd n) i).asFound 40).seq.arrived = none ∧ ((tickS (wd n) i).asFound 40).pwr.fresh = false ∧
    ((tickS (wd n) i).asFound 40).pwr.core = true ∧ ((tickS (wd n) i).asFound 40).tb.flight = some i ∧
    i.arrive = ((tickS (wd n) i).asFound 40).pwr.ccy ∧ i.arrive ≠ ((tickS (wd n) i).asFound 39).pwr.ccy ∧
    ((tickS (wd n) i).asFound 40).seq.pend = [] ∧ ((tickS (wd n) i).asFound 40).seq.skipped = [] ∧
    (i.bound = false ∨ i.bound = true) ∧ rowsOpen ((tickS (wd n) i).asFound 40) = decide (n = 1) := by decide +kernel

/-- Set 0 of the warp engine, first word `ctl`; the sets written in the sheaf that ends. -/
def boundS (wrote : List Nat) (ctl : Word) : Block :=
  (mk [(0x4000, ctl)] (fun b => { b with regs := { b.regs with wrote := wrote } })).blk

/-- Registers as written, nothing in force. -/
def writtenS (l : List (Nat × Word)) : Block := { Block.init with regs := { Regs.init with cur := l } }

/-- The window of a port and its other checks, as R82 states them. -/
def winOk (b : Block) (n : Nat) : Prop :=
  (rg b (Reg.FE_PORT_CFG n)).fld 4 3 ≠ 3 ∧ (rg b (Reg.FE_PORT_CFG n)).fld 11 10 ≠ 3 ∧ (rg b (Reg.FE_PORT_LEN n)).fld 14 0 % 4 = 0 ∧
  4 ≤ (rg b (Reg.FE_PORT_LEN n)).fld 14 0 ∧ (rg b (Reg.FE_PORT_LEN n)).fld 14 0 ≤ 16384 ∧
  (rg b (Reg.FE_PORT_WIN n)).fld 11 0 ≤ (rg b (Reg.FE_PORT_WIN n)).fld 27 16 ∧
  (rg b (Reg.FE_PORT_WIN n)).fld 27 16 < (rg b (Reg.FE_PORT_WIN_END n)).fld 11 0 ∧
  (rg b (Reg.FE_PORT_WIN n)).fld 27 16 < (rg b (Reg.FE_PORT_WIN n)).fld 11 0 + 1250

theorem witness_ShadowedFieldsLatchAtTheBoundary :
    isSh Reg.TB_SCALE = true ∧ inGroupSet Reg.TB_SCALE = false ∧
    (∀ o ∈ (boundS [0x4000] 0#32).regs.wrote, (setOfReg o).map Prod.snd = some o) ∧
    (∀ k ∈ setClasses, ∀ i ∈ [0, 15], setOfReg (k.base + i * k.step) = some (k, k.base + i * k.step) ∧
      (k.base + i * k.step) ∈ setRegs (k.base + i * k.step) k.regs ∧
      (k.base + i * k.step) + 4 * (k.regs - 1) ∈ setRegs (k.base + i * k.step) k.regs) ∧
    0x4000 ∉ (boundS [0x4020] 0#32).regs.wrote ∧ 0x4000 ∈ (boundS [0x4000] 0#32).regs.wrote ∧
    setPasses 0x4000 (rg (boundS [0x4000] 0#32)) 0x4000 = false ∧
    setPasses 0x4000 (rg (boundS [0x4000] (rg Block.init 0x4000))) 0x4000 = true ∧
    (∀ n ∈ [0, 7],
      winOk (writtenS [(Reg.FE_PORT_LEN n, 16384#32), (Reg.FE_PORT_WIN n, 0x4E10000#32), (Reg.FE_PORT_WIN_END n, 1250#32)]) n ∧
      ¬winOk (writtenS [(Reg.FE_PORT_LEN n, 16384#32), (Reg.FE_PORT_WIN n, 0x4E20000#32), (Reg.FE_PORT_WIN_END n, 1251#32)]) n ∧
      laneFormOk (laneNext (writtenS [(Reg.FE_LANE_TNR n, 224#32)]) n) n = true ∧
      laneFormOk (laneNext (writtenS [(Reg.FE_LANE_TNR n, 225#32)]) n) n = false) ∧
    sheafGt (sheafOf 4096) 3 = true ∧ sheafOf 4095 = 3 := by unfold winOk; decide +kernel

/-- Stage 7 in row 9 with OFFSET 1: its word 0, one check on the ring at 100, one output to the ring at 200; flags and
invocations as given. -/
def slotS (w0 : Word) (fl : List (Nat × Bool)) (u : List Inv) : State :=
  mk [(Reg.SEQ_CTRL, 1#32), (Reg.SEQ_STATUS, 2#32)]
    (fun b => up { b with
      flags := fl, seq := { b.seq with row := some 9, rowC := 9, invs := u },
      sched := { b.sched with
        tbl := [(28, w0), (29, 0x00400000#32), (30, 0#32), (31, 0x8001#32)],
        chk := [(0, 100#32), (1, 0x00C00000#32)], out := [(0, 0xC0C8#32)] } })

/-- The invocation of stage 7 for line 8, closed or not, done or not, with data of a phase A. -/
def inv7 (closed done chaff : Bool) (data : List Word) : Inv :=
  ⟨7, 8, 9, 2, chaff, closed, 3, 2, done, none, false, false, data, []⟩

/-- Stage 7 as a PIPE stage of lane 2: its word 0. -/
def onLane : Word := 0x08002000#32

theorem witness_SlotOpensOrIsAChaffRun :
    (slotS onLane [] []).blk.cfg.old = [] ∧ State.reset.blk.seq.row = none ∧
    ((slotS onLane [] []).asFound 10).pwr.ccy ≠ ((slotS onLane [] []).asFound 10).seq.rowC + 0 ∧
    (∀ x ∈ [(slotS onLane [] []).asFound 9, (slotS onLane [(100, true)] []).asFound 9,
        (slotS onLane [] [inv7 false false false []]).asFound 9],
      x.seq.row = some 9 ∧ x.pwr.ccy = x.seq.rowC + (x.sched.entry 7).start ∧ x.seq.opened.contains (7, 0) = false ∧
      x.seq.skipped = [] ∧ x.cfg.old = [] ∧ (x.sched.entry 6).valid = false ∧
      (x.sched.entry 7).valid = true ∧ (x.sched.entry 7).kind ≠ 4 ∧ lineSub 9 (x.sched.entry 7).offset = 8 ∧
      serves x (x.sched.entry 7) 8 = true ∧ (servedLines (x.sched.entry 7) 8).any (isUnticked x) = false ∧
      (servedLines (x.sched.entry 7) 8).any (isMissed x) = false ∧ unitPhys x (x.sched.entry 7).unit = some 2 ∧
      (x.sched.entry 7).start = 0 ∧
      (∀ o ∈ outEntries x x.sched 7 8, ∀ f ∈ upFrom (o.1.flag0 o.2) o.1.count, flagBefore x f = false)) ∧
    unitBusy ((slotS onLane [] []).asFound 9) 7 (((slotS onLane [] []).asFound 9).sched.entry 7) 6 2 = false ∧
    (runChecks ((slotS onLane [] []).asFound 9)
      (((slotS onLane [] []).asFound 9).sched.checks (((slotS onLane [] []).asFound 9).sched.entry 7)) 8).2 = 1 ∧
    unitBusy ((slotS onLane [(100, true)] []).asFound 9) 7 (((slotS onLane [] []).asFound 9).sched.entry 7) 6 2 = false ∧
    (runChecks ((slotS onLane [(100, true)] []).asFound 9)
      (((slotS onLane [] []).asFound 9).sched.checks (((slotS onLane [] []).asFound 9).sched.entry 7)) 8).2 = 0 ∧
    unitBusy ((slotS onLane [] [inv7 false false false []]).asFound 9) 7
      (((slotS onLane [] []).asFound 9).sched.entry 7) 6 2 = true := by decide +kernel

/-- Cycle `c` with the invocation of stage 7 for line 8. -/
def with7 (c : Nat) (v : Inv) : Block := (slotS onLane [] [v]).asFound c

theorem witness_SlotsCloseAndHungStagesEnd :
    findInv (with7 9 (inv7 false false false [])) 7 9 = none ∧
    findInv (with7 9 (inv7 false false false [])) 7 8 = some (inv7 false false false []) ∧
    closesNow (with7 9 (inv7 false false false [])) (inv7 false false false []) = true ∧
    closesNow (with7 10 (inv7 false false false [])) (inv7 false false false []) = false ∧
    findInv (with7 9 (inv7 false true false [])) 7 8 = some (inv7 false true false []) ∧
    closesNow (with7 9 (inv7 false true false [])) (inv7 false true false []) = true ∧
    findInv (with7 1253 (inv7 true false false [])) 7 8 = some (inv7 true false false []) ∧
    (inv7 true false false []).mark = none ∧
    3 + 1250 ≤ (with7 1253 (inv7 true false false [])).pwr.ccy ∧ (with7 1252 (inv7 true false false [])).pwr.ccy < 3 + 1250 ∧
    ((schedFor (with7 1253 (inv7 true false false [])) 7 8).entry 7).kind = 0 ∧
    ((schedFor (with7 1253 (inv7 true false false [])) 7 8).entry 7).safety = false := by decide +kernel

/-- Stage 7 with word 0 `w0` and its invocation for line 8 with the data of a phase A, on port 2 an intake entry for that line,
complete or not. -/
def runB (w0 : Word) (data : List Word) (done : Bool) : Block :=
  let s := slotS w0 [] [inv7 false false false data]
  State.asFound { s with blk := { s.blk with ports := [(2, { Port.init with intake := [⟨8, 8, [], [1], 0, done⟩] })] } } 9

/-- Whose slot it runs on and what kind it is; that the invocation is found, not done and no chaff-run, its unit's port open; and
that it has one output entry, of its line. -/
def runsOn (w0 : Word) : Nat × Nat × Bool × Bool :=
  let x := runB w0 [] true
  let e := (schedFor x 7 8).entry 7
  (e.kind, (unitCls e.unit).1, (findInv x 7 8).any (fun v => !v.done && !v.chaff && decide (v.golden = e.gold)) &&
    decide ((unitCls e.unit).1 < 6 → portShut x (unitCls e.unit).1 2 = none),
    decide ((outEntries x (schedFor x 7 8) 7 8).length = 1))

theorem witness_CompletionRipensTheOutputs :
    (findInv (with7 9 (inv7 false false true [])) 7 8).map (·.chaff) = some true ∧
    (findInv (with7 9 (inv7 false true false [])) 7 8).map (·.done) = some true ∧
    portShut (with7 9 (inv7 false true false [])) 6 2 = none ∧
    runsOn 0x48060003#32 = (2, 0, true, true) ∧ (slotOf Tiller.init 3).inFlight = false ∧
    runsOn 0x680F0000#32 = (3, 7, true, true) ∧ runsOn 0xA80F0000#32 = (5, 7, true, true) ∧
    runsOn 0x880F0000#32 = (4, 7, true, true) ∧
    (resultOpen (with7 9 (inv7 false false false [])) 7).map Inv.line = some 8 ∧
    runsOn 0x08010000#32 = (0, 1, true, true) ∧ runsOn 0x08050000#32 = (0, 5, true, true) ∧
    runsOn onLane = (0, 6, true, true) ∧
    (unitCls ((schedFor (runB onLane [] true) 7 8).entry 7).unit).2 = 2 ∧
    (prt (runB onLane [] true) 2).intake.any (fun i => decide (i.line = 8) && i.done) = true ∧
    (prt (runB onLane [] false) 2).intake.any (fun i => decide (i.line = 8) && i.done) = false ∧
    runsOn 0x08040000#32 = (0, 4, true, true) ∧ (inv7 false false false []).data = [] ∧
    inPhaseB (runB 0x08040000#32 [] true) (inv7 false false false []) = false ∧
    (inv7 false false false [1#32]).data ≠ [] ∧
    inPhaseB (runB 0x08040000#32 [1#32] true) (inv7 false false false [1#32]) = true := by decide +kernel

theorem witness_TableEccErrors : (0 : Nat) < 2 ∧ (1 : Nat) < 2 := by decide

/-- Two sets written, the first as at reset, as a host write finds them. -/
def wroteB : Block :=
  (mk [(0x4000, rg Block.init 0x4000)] (fun b => up { b with regs := { b.regs with wrote := [0x4000, 0x60E0] } })).asWritten 9

theorem witness_SequencerControlAndDuplicates : (0 : Nat) < 4096 ∧ (4095 : Nat) < 4096 ∧
    ((mk [] id).asFound 9).seq.dup = false ∧
    ((mk [] (fun b => { b with seq := { b.seq with dup := true } })).asFound 9).seq.dup = true ∧
    (∀ o ∈ wroteB.regs.wrote, (setOfReg o).any (fun k => decide (k.2 = o)) = true) ∧ 0x4000 ∈ wroteB.regs.wrote ∧
    (setOfReg 0x4000).any (fun k => setPasses k.1.base (rg wroteB) 0x4000) = true ∧
    ((mk [] up).asWritten 9).regs.wrote = [] := by
  decide +kernel

/-- Ring `r` alone enabled in cycle SEQ_SCAN.CYC of row 9, its HEAD 0 and its TAIL 1 or 0, with word 0 of the descriptor. -/
def scanS (r tail : Nat) (w0 : Word) : State :=
  mk [(Reg.HOST_CTRL, wd (2 ^ (16 + r))), (Reg.SEQ_STATUS, 2#32), (Reg.SEQ_SCAN, 0x10005#32), (Reg.HOST_CR_CFG r, 0#32),
      (Reg.HOST_CR_HEAD r, 0#32)]
    (fun b => up { b with seq := { b.seq with row := some 9, rowC := 195 }, pwr := { b.pwr with ccy := 200 },
                          host := { b.host with tails := [(r, [(0, tail)])] },
                          mems := { b.mems with win := wrWord [] 0x100000 w0 } })

theorem witness_CommandScanTakesOneRing : State.reset.blk.seq.row = none ∧
    ((scanS 0 0 0#32).asFound 201).pwr.ccy
      ≠ ((scanS 0 0 0#32).asFound 201).seq.rowC + (frc ((scanS 0 0 0#32).asFound 201) Reg.SEQ_SCAN).fld 10 0 ∧
    ∀ r ∈ [0, 15], r < 16 ∧
    (∀ x ∈ [(scanS r 0 0#32).asFound 200, (scanS r 1 0#32).asFound 200, (scanS r 1 0x50000000#32).asFound 200],
      x.seq.row = some 9 ∧ (rg x Reg.SEQ_STATUS).fld 1 0 = 2 ∧ x.seq.scanned = false ∧
      x.pwr.ccy = x.seq.rowC + (frc x Reg.SEQ_SCAN).fld 10 0 ∧ (rg x Reg.HOST_CTRL).fld 31 16 = 2 ^ r ∧
      (frc x Reg.SEQ_SCAN).fld 23 16 = 1 ∧ scanHead x r = 0 ∧ cmdAddr x r 0 = 0x100000) ∧
    scanTail ((scanS r 0 0#32).asFound 200) r = 0 ∧ scanTail ((scanS r 1 0#32).asFound 200) r = 1 ∧
    (cmdDesc ((scanS r 1 0#32).asFound 200) 0x100000).status 9 = 0 ∧ (scanS r 1 0#32).blk.seq.pend.length < 256 ∧
    (cmdDesc ((scanS r 1 0#32).asFound 200) 0x100000).target.elim false (fun l => lineGe 9 l) = false ∧
    (cmdDesc ((scanS r 1 0#32).asFound 200) 0x100000).target = none ∧
    (cmdDesc ((scanS r 1 0#32).asFound 200) 0x100000).w0 = 0#32 ∧
    (cmdDesc ((scanS r 1 0x50000000#32).asFound 200) 0x100000).status 9 ≠ 0 := by decide +kernel

/-- The tick of line 9 has arrived, and a command with OP `op`, due in row 9, waits; SAFE_GREQ idle or pending. -/
def dueS (op : Nat) (arg0 greq : Word) : State :=
  mk [(Reg.SAFE_GREQ, greq)]
    (fun b => up { b with
      pwr := { b.pwr with ccy := 9 },
      seq := { b.seq with arrived := some ⟨9, true, false⟩, pend := [⟨0, 0x100000, op, 7, none, 9, arg0, 1#32, 1#32⟩] } })

theorem witness_CommandsTakeEffectInTheirRow :
    (∀ op ∈ [0, 1, 2, 3, 4], ∀ a ∈ [5, 0x10FFF],
      (arrive ((dueS op (wd a) 0#32).asFound 9)).seq.arrived = some ⟨9, true, false⟩ ∧
      takeDue 9 (arrive ((dueS op (wd a) 0#32).asFound 9)).seq.pend = some (⟨0, 0x100000, op, 7, none, 9, wd a, 1#32, 1#32⟩, [])) ∧
    Word.bit 5#32 16 = false ∧ Word.bit 0x10FFF#32 16 = true ∧
    (rg (arrive ((dueS 4 5#32 0#32).asFound 9)) Reg.SAFE_GREQ).bit 31 = false ∧
    (rg (arrive ((dueS 4 5#32 0x80000001#32).asFound 9)) Reg.SAFE_GREQ).bit 31 = true := by decide +kernel

/-- Trigger output `n`: TB_TRIG_CFG, the line of the last tick, the position, and the firings that are due. -/
def trigS (n : Nat) (cfg : Word) (pos : Nat) (due : List Firing) : State :=
  mk [(Reg.TB_TRIG_CFG n, cfg), (Reg.FE_PORT_CFG 3, wd (n * 32)), (Reg.FE_PORT_CFG 4, wd ((n + 1) % 8 * 32))]
    (fun b => up { b with tb := { b.tb with issued := some 6, pos := pos }, trigs := [(n, { Trig.init with due := due })],
                          lanes := [(3, { LaneSt.init with applies := [(some 6, 9), (some 7, 1)] })] })

/-- A firing for line `k`, due in timebase cycle `t`. -/
def fire (k t : Nat) : Firing := ⟨k, t, 0, false, false⟩

/-- The output with one for line 5 and one for line 6 due, as cycle 9 finds it. -/
def trigB (n : Nat) (l : List Firing) : Block := (trigS n 0xF1#32 111 l).asFound 9

theorem witness_TriggerCreatesLineRecords : ∀ n ∈ [0, 7], n < 8 ∧
    (∀ b ∈ [(trigS n 0xF1#32 111 [fire 5 0]).blk, (trigS n 0xF1#32 110 []).blk],
      b.tb.issued = some 6 ∧ (frc b (Reg.TB_TRIG_CFG n)).bit 0 = true ∧
      6 % ((frc b (Reg.TB_TRIG_CFG n)).fld 11 8 + 1) = 0 ∧ (trigOf b n).last ≠ some 6 ∧ (∀ f ∈ (trigOf b n).due, f.line ≠ 6)) ∧
    subMod 48 111 ((6 * 16 + (frc (trigS n 0xF1#32 111 []).blk (Reg.TB_TRIG_CFG n)).fld 7 4) % 2 ^ 48) < 2 ^ 47 ∧
    ¬subMod 48 110 ((6 * 16 + (frc (trigS n 0xF1#32 110 []).blk (Reg.TB_TRIG_CFG n)).fld 7 4) % 2 ^ 48) < 2 ^ 47 ∧
    (trigOf (trigB n [fire 5 1, fire 6 1]) n).due = [fire 5 1, fire 6 1] ∧ 1 ≤ coreToTb (trigB n [fire 5 1, fire 6 1]).pwr.ccy ∧
    applyLanes (trigB n [fire 5 1, fire 6 1]) n 5 = [] ∧
    (cpCfg (trigB n [fire 6 1]) 3).fld 7 5 = n ∧ (cpCfg (trigB n [fire 6 1]) 4).fld 7 5 ≠ n ∧
    (trigOf (trigB n [fire 6 1]) n).due = [fire 6 1] ∧ applyLanes (trigB n [fire 6 1]) n 6 = [3] ∧
    (lane (trigB n [fire 6 1]) 3).applies.find? (pulseDue 6) = some (some 6, 9) ∧
    (trigOf (trigB n []) n).due = [] ∧
    (trigOf (trigB n [fire 6 2]) n).due = [fire 6 2] ∧ coreToTb (trigB n [fire 6 2]).pwr.ccy < 2 := by decide +kernel

/-- An unfinished record of line 6, of the row that opened at cycle 3. -/
def rec6 (started : Bool) : CRec := ⟨6, 0, false, false, 0, some 6, some 3, true, started, 0, 0, [], 0, false, false⟩

/-- Port `n` at cycle `c` with LEN 2, a window of 100 cycles, and `cfg` beside EN. -/
def portS (n : Nat) (cfg : Word) (lval : Bool) (recs : List CRec) (f : Port → Port) (c : Nat) : Block :=
  ((mk [(Reg.FE_PORT_CFG n, cfg), (Reg.FE_PORT_LEN n, 2#32), (Reg.FE_PORT_WIN n, 0x640002#32), (Reg.FE_PORT_WIN_END n, 100#32),
      (Reg.FE_PORT_STATUS n, 0#32), (Reg.DBG_RPL_CTRL, 0#32)]
    (fun b => up { b with ports := [(n, f { Port.init with recs := recs, lval := lval })],
                          pwr := { b.pwr with ccy := c } })).asFound c)

/-- A transfer with the levels of LVAL, DVAL and FVAL. -/
def smp (l d f : Bool) : CamSample := ⟨l, d, f, 0x123456789ABC#48⟩

/-- The port after the tick and the firings of its own cycle. -/
def afterFirings (n : Nat) (b : Block) : Block := fireDue ((cpCfg (arrive b) n).fld 7 5) (arrive b)

theorem witness_PortTakesALine : ∀ n ∈ [0, 7], n < 8 ∧
    (∀ p ∈ [portS n 1#32 false [rec6 false] id 4, portS n 1#32 false [rec6 false] id 5, portS n 1#32 false [rec6 false] id 9,
        portS n 1#32 false [rec6 false] id 103, portS n 1#32 false [rec6 false] id 104, portS n 1#32 false [rec6 true] id 9,
        portS n 1#32 false [] id 9, portS n 0x401#32 false [rec6 false] id 9, portS n 0#32 false [rec6 false] id 9],
      afterFirings n p = p) ∧
    (prt (portS n 1#32 true [rec6 true] id 9) n).lval = true ∧
    (replayOn (portS n 1#32 false [rec6 false] id 9) && (portS n 1#32 false [rec6 false] id 9).dbg.ports.contains n) = false ∧
    cpEn (portS n 1#32 false [rec6 false] id 9) n = true ∧ cpValid (portS n 1#32 false [rec6 false] id 9) n (smp true false false) = true ∧
    (prt (portS n 1#32 false [rec6 false] id 9) n).lval = false ∧ (prt (portS n 1#32 false [rec6 false] id 9) n).recs = [rec6 false] ∧
    cpOpen (portS n 1#32 false [rec6 false] id 9) n = 2 ∧ cpStartDl (portS n 1#32 false [rec6 false] id 9) n = 100 ∧
    cpEndDl (portS n 1#32 false [rec6 false] id 9) n = 100 ∧
    stampNow (portS n 1#32 false [rec6 false] id 4) n = some 1 ∧ stampNow (portS n 1#32 false [rec6 false] id 5) n = some 2 ∧
    stampNow (portS n 1#32 false [rec6 false] id 103) n = some 100 ∧ stampNow (portS n 1#32 false [rec6 false] id 104) n = some 101 ∧
    (prt (portS n 1#32 false [rec6 true] id 9) n).recs = [rec6 true] ∧ (prt (portS n 1#32 false [] id 9) n).recs = [] ∧
    (cpCfg (portS n 0x401#32 false [rec6 false] id 9) n).fld 11 10 ≠ 0 ∧
    cpValid (portS n 0x401#32 false [rec6 false] id 9) n (smp true true false) = false ∧
    cpValid (portS n 0x601#32 false [rec6 false] id 9) n (smp true true true) = true ∧
    cpValid (portS n 0x201#32 false [rec6 false] id 9) n (smp true false true) = false ∧
    cpEn (portS n 0#32 false [rec6 false] id 9) n = false ∧
    (prt (portS n 1#32 true [rec6 true] id 104) n).lval = true ∧ (prt (portS n 1#32 true [rec6 true] id 104) n).discard = false ∧
    (prt (portS n 1#32 true [] (fun p => { p with discard := true }) 9) n).discard = true := by decide +kernel

theorem witness_PortCompletesItsRecord : ∀ n ∈ [0, 7], n < 8 ∧
    cpEn (portS n 1#32 true [rec6 true] id 9) n = true ∧
    (replayOn (portS n 1#32 true [rec6 true] id 9) && (portS n 1#32 true [rec6 true] id 9).dbg.ports.contains n) = false ∧
    (prt (portS n 1#32 true [rec6 true] id 9) n).recs = [rec6 true] ∧ (smp false true true).lval = false ∧
    (prt (portS n 1#32 true [rec6 true] id 9) n).lval = true ∧ (prt (portS n 1#32 true [rec6 true] id 9) n).discard = false ∧
    (rec6 true).started = true ∧ (rec6 false).started = false ∧
    stampNow (portS n 1#32 true [rec6 true] id 103) n = some 100 ∧ stampNow (portS n 1#32 false [rec6 false] id 103) n = some 100 ∧
    stampNow (portS n 1#32 true [rec6 true] id 102) n = some 99 ∧ stampNow (portS n 1#32 false [rec6 false] id 102) n = some 99 ∧
    stampNow (portS n 1#32 false [rec6 false] id 5) n = some 2 ∧ stampNow (portS n 1#32 false [rec6 false] id 4) n = some 1 ∧
    (prt (portS n 1#32 false [rec6 false] (fun p => { p with closing := .start }) 103) n).closing = .start ∧
    (prt (portS n 1#32 false [rec6 true] (fun p => { p with closing := .fin }) 103) n).closing = .fin ∧
    (prt (portS n 0x801#32 false [rec6 true] (fun p => { p with fval := true }) 9) n).fval = true ∧
    (cpCfg (portS n 0x801#32 false [rec6 true] id 9) n).fld 11 10 = 2 ∧
    (∀ x ∈ [portS n 0x801#32 true [rec6 true] (fun p => { p with fval := true }) 9], (prt x n).lval = true ∧ (prt x n).fval = true ∧
      (prt x n).discard = false ∧ (cpCfg x n).fld 11 10 = 2 ∧ (prt x n).frameN < cpFrameLines x n) ∧ (smp false true false).fval = false ∧
    (rg (portS n 1#32 true [rec6 true] id 9) (Reg.FE_PORT_STATUS n)).bit 2 = false ∧
    (rg (setRg (portS n 1#32 true [rec6 true] id 9) (Reg.FE_PORT_STATUS n) 4#32) (Reg.FE_PORT_STATUS n)).bit 2 = true := by
  decide +kernel

/-- The lane that stage 1 drives, lane 7, with head messages and statistics, in row `row`, the statistics at `base`. -/
def laneS (m : List HeadMsg) (u : List LaneStat) (row : Option Nat) (hi base : Word := 0#32) : State :=
  mk [(Reg.FE_LANE_STATUS 7, 0#32), (Reg.FE_LANE_STAT_BASE_HI 7, hi), (Reg.FE_LANE_STAT_BASE_LO 7, base), (Reg.MEM_PD_STAT, 0x20000000#32)]
    (fun b => up { b with lanes := [(7, { LaneSt.init with msgs := m, stats := u })], seq := { b.seq with row := row },
                          sched := { b.sched with tbl := [(4, 0x08007000#32)] } })

/-- Statistics of sheaf 3 with nothing gathered. -/
def stat3 : LaneStat := ⟨3, 0, false, false, 0, 0, 0, [], []⟩

theorem witness_LaneStatisticsAndHeadMessages : (7 : Nat) < 8 ∧
    (∀ r ∈ [some 4096, none], (lane ((laneS [] [⟨3, 0, false, false, 0, 0, 0, [], []⟩] r).asFound 9) 7).stats =
        [⟨3, 0, false, false, 0, 0, 0, [], []⟩] ∧
      statsClosed ((laneS [] [⟨3, 0, false, false, 0, 0, 0, [], []⟩] r).asFound 9) 7 3 = r.isSome) ∧
    (∀ x ∈ [(laneS [] [stat3] (some 4096)).asFound 9], (wordBytes (statWords 7 stat3 (spGet (fun _ => 0) (lane x 7).malfs 3)
        ((lane x 7).headErr.contains 3))).length = 1184 ∧
      spanRefuses x (2048 * 3) 1184 = false ∧ inStaging (2048 * 3 + 1184 - 1) = false) ∧
    (∀ x ∈ [(laneS [] [stat3] (some 4096) 3#32 0x80000000#32).asFound 9], (lane x 7).stats = [stat3] ∧ statsClosed x 7 3 = true ∧
      (frc x (Reg.FE_LANE_STAT_BASE_HI 7)).fld 1 0 * 2 ^ 32 + (frc x (Reg.FE_LANE_STAT_BASE_LO 7)).fld 31 13 * 8192 = 0x380000000 ∧
      spanRefuses x (0x380000000 + 2048 * 3) 1184 = true) ∧
    (lane ((laneS [⟨1, [1#32, 2#32], true, 5, 4, false⟩] [] none).asFound 9) 7).msgs = [⟨1, [1#32, 2#32], true, 5, 4, false⟩] ∧
    ([2#32] : List Word) ≠ [] ∧
    (lane ((laneS [⟨1, [1#32], true, 5, 4, false⟩] [] none).asFound 9) 7).msgs = [⟨1, [1#32], true, 5, 4, false⟩] ∧
    ([1#32] : List Word).length ≤ 1 := by decide +kernel

/-- A table of lane 7 addressed, FE_LANE_CTRL as in force and before. -/
def tblS (addr ctrl mesh : Word) : State :=
  mk ([(Reg.FE_LANE_TBL_ADDR 7, addr), (Reg.FE_LANE_CTRL 7, ctrl), (Reg.WP_MESH_ADDR, mesh)] ++
      (List.range 16).map (fun i => (Reg.WP_SET_CFG i, 0#32)))
    (fun b => up { b with regs := { b.regs with prev := [(Reg.FE_LANE_CTRL 7, ctrl)] } })

theorem witness_TablePortsWriteAndStep : (7 : Nat) < 8 ∧
    bankLocked ((tblS 0#32 0#32 0#32).asWritten 9) 7 0 = true ∧ Word.fld 0#32 20 20 = 0 ∧
    tblSel (rg ((tblS 0x130000#32 0#32 0#32).asWritten 9) (Reg.FE_LANE_TBL_ADDR 7)) 7 = none ∧
    bankLocked ((tblS 0x103FFF#32 0#32 0#32).asWritten 9) 7 1 = false ∧ Word.fld 0x103FFF#32 20 20 = 1 ∧
    tblSel (rg ((tblS 0x103FFF#32 0#32 0#32).asWritten 9) (Reg.FE_LANE_TBL_ADDR 7)) 7 =
      some (7 * 2 ^ 21 + 2 ^ 20 + 16383, 0xFFFF0FFF#32) ∧
    meshLocked ((tblS 0#32 0#32 5#32).asWritten 9) ((rg ((tblS 0#32 0#32 5#32).asWritten 9) Reg.WP_MESH_ADDR).fld 16 16) = true ∧
    meshLocked ((tblS 0#32 0#32 0x10005#32).asWritten 9) ((rg ((tblS 0#32 0#32 0x10005#32).asWritten 9) Reg.WP_MESH_ADDR).fld 16 16) = false ∧
    ∀ reg ∈ [Reg.FE_LANE_TBL_DATA 0, Reg.FE_LANE_TBL_DATA 7, Reg.WP_MESH_DATA, Reg.FT_PAT_DATA, Reg.GRN_FLAG_DATA,
        Reg.SYNC_VT_DATA],
      stepEarly ((mk [] up).asFound 9) reg = none ∧
      (stepEarly ((mk [] (fun b => up { b with host := { b.host with stepC := [(reg, 0, 5#32)] } })).asFound 74) reg).isSome = true ∧
      stepEarly ((mk [] (fun b => up { b with host := { b.host with stepC := [(reg, 0, 5#32)] } })).asFound 75) reg = none := by
  decide +kernel

/-- Physical tiller 35 as logical slot 3 in state `st`: its core class window of 1 MiB, its bank groups on, words in its
control-core class, `f` of an idle tiller, further registers and a further change. -/
def tlS (st : Nat) (words : List (Nat × Word)) (r : List (Nat × Word)) (f : Tiller → Tiller) (g : Block → Block) : State :=
  mk ([(Reg.TLR_ID 35, wd (st * 65536 + 35 * 256 + 3)), (Reg.TLR_TASK_KBASE 35, 0#32), (Reg.TLR_TASK_CWIN 35, 0x3FFF0000#32),
      (Reg.TLR_TASK_AWIN 35, 0x3FFF0000#32), (Reg.PWR_SPAD 35, 0#32), (Reg.PWR_DOM_STATE 0, 0#32), (Reg.PWR_DOM_STATE 1, 0#32),
      (Reg.PWR_DOM_STATE 2, 0#32), (Reg.PWR_DOM_STATE 3, 0#32), (Reg.PWR_DOM_STATE 4, 0#32), (Reg.PWR_DOM_STATE 5, 0#32)] ++ r)
    (fun b => g (up { b with
      tlr := [(35, f { Tiller.init with imgLen := 64, x := [(5, 0x100000#32), (6, 0x100040#32)] })],
      mems := { b.mems with spad := words.foldl (fun m p => wrWord m (35 * 2 ^ 21 + 2 ^ 20 + p.1) p.2) [] } }))

/-- A task of context 2 and priority 1 of stage 7, line 8. -/
def task7 : Posted := ⟨[0x21000#32], 7, 8, false, 1, false⟩

/-- The core can issue at 60, and the operand address in x5 admits `n` bytes aligned to `al`, of sound words. -/
def admits (x : Block) (n al : Nat) : Prop :=
  CanIssue x 35 60 ∧ coreAcc x 35 (xReg (tl x 35) 5).toNat n al false = .ok 0x100000 ∧ spErrs x 35 0x100000 n [] = []

/-- Tiller 35 in IDLE with word `m` as a TPULL mask, list 0 enabled or not. -/
def pullS (m cfg : Word) : Block := (tlS 2 [(0, m)] [(Reg.DSP_RL_CFG 0, cfg)] id id).asFound 9

/-- Tiller 35 at work on a task, in its fault handler or not. -/
def workS (h : Bool) : Block := (tlS 3 [] [] (fun x => { x with task := some task7, handler := h }) id).asFound 9

theorem witness_TaskInstructionsBlockTheCore :
    admits (pullS 1#32 0x80020000#32) 8 8 ∧ (tl (pullS 1#32 0x80020000#32) 35).task = none ∧
    maskOk (pullS 1#32 0x80020000#32) (leNat (spRd (pullS 1#32 0x80020000#32) 35 0x100000 8)) = true ∧
    admits (pullS 1#32 0#32) 8 8 ∧ maskOk (pullS 1#32 0#32) (leNat (spRd (pullS 1#32 0#32) 35 0x100000 8)) = false ∧
    CanIssue (workS false) 35 60 ∧ CanIssue (workS true) 35 60 ∧ (tl (workS false) 35).task = some task7 ∧
    (tl (workS false) 35).handler = false ∧ (tl (workS true) 35).handler = true := by
  unfold admits CanIssue; decide +kernel

/-- A blocked pull of lists 0 and 63 with a task at the head of both, and so many grants made in the cycle. -/
def grantS (post grants : Nat) : Block :=
  (tlS 1 [] [] (fun x => { x with blocked := .tpull (2 ^ 63 + 1) 1 })
    (fun b => { b with lists := [(0, [{ task7 with postC := post }]), (63, [{ task7 with postC := post }])],
                       pwr := { b.pwr with ccy := 9 }, now := { b.now with grants := grants } })).asFound 9

/-- The same tiller with its task ending. -/
def endS (h : Blocked) (f : Tiller → Tiller) : Block :=
  (tlS 3 [] [] (fun x => f { x with task := some task7, blocked := h }) id).asFound 9

theorem witness_TasksAreGrantedAndEnd :
    (grantS 8 7).now.grants < 8 ∧ (pullOrder (grantS 8 7)).head? = some 35 ∧ pullOf (grantS 8 7) 35 = some (2 ^ 63 + 1, 1) ∧
    (∀ n ∈ [0, 63], nbit (2 ^ 63 + 1) n = true ∧
      (rlist (grantS 8 7) n).head?.any (fun p => decide (p.postC < (grantS 8 7).pwr.ccy)) = true) ∧
    8 ≤ (grantS 8 8).now.grants ∧ (rlist (grantS 9 0) 0).all (fun p => decide ((grantS 9 0).pwr.ccy ≤ p.postC)) = true ∧
    (∀ h ∈ [Blocked.tdone, Blocked.tabort], (tl (endS h id) 35).task = some task7 ∧ quiet (tl (endS h id) 35) = true ∧
      fencedT (endS h id) 35 = none ∧ (tl (endS h id) 35).blocked = h) ∧
    quiet (tl (endS .tdone (fun x => { x with fc := some ⟨0, 64, none, 0#32⟩ })) 35) = false := by decide +kernel

/-- A patch block of one record for queue 15, bound to column 0 or not at all, line 7 closed. -/
def patS (bound : Bool) (line : Word) : Block :=
  (tlS 3 [(0, line), (16, 0x0F000001#32)] [(Reg.TLR_PQ_CFG 15, 0#32)] id
    (fun b => { b with pqs := [(15, { PQueue.init with bound := bound, last := some 7 })] })).asFound 9

theorem witness_HeadersMergeAndPatchesQueue :
    (admits (patS true 8#32) 16 4 ∧ coreAcc (patS true 8#32) 35 (xReg (tl (patS true 8#32) 35) 6).toNat 16 4 true = .ok 0x100040) ∧
    (∀ x ∈ [patS true 8#32, patS false 8#32, patS true 7#32],
      coreAcc x 35 (xReg (tl x 35) 5).toNat 20 4 false = .ok 0x100000 ∧
      coreAcc x 35 (xReg (tl x 35) 5).toNat 28 4 false = .ok 0x100000 ∧ spErrs x 35 0x100000 28 [] = [] ∧
      (rdWord x.mems.spad (35 * 2 ^ 21 + 0x100000 + 16)).fld 27 24 = 15 ∧
      (rdWord x.mems.spad (35 * 2 ^ 21 + 0x100000 + 16)).fld 9 0 = 1 ∧ pqCol0 x 15 = 0 ∧ pqNcq x 15 = 1 ∧
      (patchRec (wAt (spWords x 35 0x100014 2) 0) (wAt (spWords x 35 0x100014 2) 1)).scol / 256 = 0) ∧
    (pqOf (patS true 8#32) 15).bound = true ∧ (pqOf (patS false 8#32) 15).bound = false ∧
    hdrLine (spWords (patS true 8#32) 35 0x100000 4) = 8 ∧ pqLineOpen (patS true 8#32) 15 8 = true ∧
    hdrLine (spWords (patS true 7#32) 35 0x100000 4) = 7 ∧ pqLineOpen (patS true 7#32) 15 7 = false ∧
    (PLine.fresh 8).recs = [] ∧ ([] : List PatchRec).Nodup := by
  unfold admits CanIssue; decide +kernel

/-- An armed stream of a kind. -/
def armed (kind : Nat) (d : List Word) : StrmSlot :=
  { StrmSlot.init with state := .armed, desc := wd (kind * 2 ^ 28) :: d, awin := 0x3FFF0000#32, cwin := 0x3FFF0000#32 }

/-- Slots 0 and 1 armed as reads, 2 as a write; words of an array descriptor at 0. -/
def arrS (w0 w3 : Word) (f : Tiller → Tiller) : Block :=
  (tlS 3 [(0, w0), (4, 0#32), (8, 0x00010200#32), (12, w3)] []
    (fun x => f { x with slots := [(0, armed 0 []), (1, armed 0 []), (2, armed 1 [])] }) id).asFound 9

/-- An operation with those words. -/
def op8 : ArrOp := ⟨0, [0#32, 0#32, 0x00010200#32, 0#32], [armed 0 [], armed 0 [], armed 1 [], armed 0 []], 0⟩

/-- The operation that MMA issues there. -/
def opAt (x : Block) : ArrOp :=
  let ws := spWords x 35 0x100000 4
  let d := arrDesc ws
  ⟨(tl x 35).opId, ws, [slotOf (tl x 35) d.astrm, slotOf (tl x 35) d.wstrm, slotOf (tl x 35) d.ostrm, slotOf (tl x 35) d.xstrm], 0⟩

/-- The weights come from the chain under tag 0: the descriptor in memory, or its operation running, with what has arrived. -/
def arrC (l : List ChainIn) : Block := arrS 0x2000#32 0#32 (fun x => { x with chainIn := l })
def arrR (l : List ChainIn) : Block := arrS 0#32 0#32 (fun x => { x with
  chainIn := l, run := some { op8 with words := [0x2000#32, 0#32, 0x00010200#32, 0#32] } })

/-- No words, one and two operations in the array. -/
def arr0 : Block := arrS 0#32 0#32 id
def arr1 : Block := arrS 0x4000#32 0x04100040#32 (fun x => { x with run := some op8 })
def arr2 : Block := arrS 0#32 0#32 (fun x => { x with run := some op8, pend := some { op8 with id := 1 } })
def arrW : Block := arrS 0#32 0#32 (fun x => { x with run := some op8, blocked := .mwait })

theorem witness_ArrayOperationsRunInOrder :
    (admits (arrS 0x10000000#32 0#32 id) 16 4 ∧ arrDescOk (tl (arrS 0x10000000#32 0#32 id) 35)
      (arrDesc (spWords (arrS 0x10000000#32 0#32 id) 35 0x100000 4)) = false) ∧
    (admits arr0 16 4 ∧ domSt arr0 (arrayDom 35) = 0 ∧ arrDescOk (tl arr0 35) (arrDesc (spWords arr0 35 0x100000 4)) = true ∧
      (arrDesc (spWords arr0 35 0x100000 4)).epi = 0 ∧ (tl arr0 35).run = none ∧
      (sbAdd arr0 35 (arrEntries (arrDesc (spWords arr0 35 0x100000 4)) op8)).isSome = true) ∧
    (admits arr1 16 4 ∧ domSt arr1 (arrayDom 35) = 0 ∧ arrDescOk (tl arr1 35) (arrDesc (spWords arr1 35 0x100000 4)) = true ∧
      (arrDesc (spWords arr1 35 0x100000 4)).epi = 1 ∧
      coreAcc arr1 35 (arrDesc (spWords arr1 35 0x100000 4)).epar (8 + 8 * (arrDesc (spWords arr1 35 0x100000 4)).n) 4 false
        = .ok 0x100040 ∧ spErrs arr1 35 0x100040 8 [] = [] ∧
      loHiOk (arrDesc (spWords arr1 35 0x100000 4)) (rdWord arr1.mems.spad (35 * 2 ^ 21 + 0x100040))
        (rdWord arr1.mems.spad (35 * 2 ^ 21 + 0x100044)) = true ∧
      (tl arr1 35).run = some op8 ∧ (tl arr1 35).pend = none) ∧
    (admits arr2 16 4 ∧ arrDescOk (tl arr2 35) (arrDesc (spWords arr2 35 0x100000 4)) = true ∧
      (tl arr2 35).run ≠ none ∧ (tl arr2 35).pend ≠ none) ∧
    ((tl arrW 35).run = some op8 ∧ (arrDesc op8.words).chain = false ∧ arrBankOff arrW 35 op8 (arrDesc op8.words) = false ∧
      spErrsIn arrW 35 (arrSpans arrW 35 op8 (arrDesc op8.words)) [] = [] ∧ (arrDesc op8.words).epi = 0 ∧
      (arrDesc op8.words).n ≤ arrNT (arrDesc op8.words).afmt ∧ (tl arrW 35).blocked = .mwait ∧ (tl arrW 35).pend = none) ∧
    (∃ e ∈ spErrsIn arrW 35 (arrSpans arrW 35 op8 (arrDesc op8.words)) [(0, .uncorrectable)], e.2 = .uncorrectable) ∧
    (∀ x ∈ [arr0, arrC [⟨9, []⟩], arrC []], CanIssue x 35 60 ∧ (sbAdd x 35 (arrEntries (arrDesc (spWords x 35 0x100000 4)) (opAt x))).isSome = true) ∧
    chainTagBad { tl arr0 35 with run := some ((tl arr0 35).run.getD (opAt arr0)) } = false ∧
    (∀ l ∈ [[ChainIn.mk 9 []], []], admits (arrC l) 16 4 ∧ domSt (arrC l) (arrayDom 35) = 0 ∧
      arrDescOk (tl (arrC l) 35) (arrDesc (spWords (arrC l) 35 0x100000 4)) = true ∧
      (arrDesc (spWords (arrC l) 35 0x100000 4)).epi = 0 ∧ (tl (arrC l) 35).run = none ∧
      chainTagBad { tl (arrC l) 35 with run := some ((tl (arrC l) 35).run.getD (opAt (arrC l))) } = !l.isEmpty) ∧
    (∀ l ∈ [[ChainIn.mk 9 []], [ChainIn.mk 0 [1#8]]], ∀ op ∈ (tl (arrR l) 35).run, (arrDesc op.words).chain = true ∧
      (chainFront (arrDesc op.words).ctag (arrWBytes (arrDesc op.words)) (tl (arrR l) 35).chainIn).2 = decide (l = [⟨9, []⟩]) ∧
      (chainFront (arrDesc op.words).ctag (arrWBytes (arrDesc op.words)) (tl (arrR l) 35).chainIn).1.length < arrWBytes (arrDesc op.words) ∧
      (tl (arrR l) 35).blocked ≠ .mwait) ∧ (∀ l ∈ [[ChainIn.mk 9 []], [ChainIn.mk 0 [1#8]]], (tl (arrR l) 35).run.isSome = true) ∧
    (tl arr0 35).blocked ≠ .mwait := by
  unfold admits CanIssue
  refine ⟨?_, ?_, ?_, ?_, ?_, ?_, ?_, ?_, ?_, ?_, ?_, ?_⟩ <;> decide +kernel

/-- An armed read stream of 16 elements of 32 bits. -/
def chainSrc : StrmSlot :=
  { StrmSlot.init with
    state := .armed, awin := 0x3FFF0000#32, cwin := 0x3FFF0000#32,
    desc := [0x03840000#32, 0#32, 0#32, 0#32, 0#32, 0#32, 4#32, 15#32] }

/-- WCHAIN's argument words, and transfers under way. -/
def chainS (len : Word) (l : List Chain) (f : Tiller → Tiller := id) : Block :=
  (tlS 3 [(0, 63#32), (4, len), (8, 31#32), (12, 9#32)] [] (fun x => f { x with slots := [(63, chainSrc)] })
    (fun b => { b with chains := l })).asFound 9

theorem witness_ChainTransfersReachTheirMembers :
    (∀ n ∈ [64, 63], ∀ x ∈ [chainS (wd n) []], (coreReady x 35 = true ∧
        (rg x (Reg.TLR_TASK_KBASE 35)).fld 15 2 * 4 + 60 < (tl x 35).imgLen ∧ fencedT x 35 = none) ∧
      coreAcc x 35 (xReg (tl x 35) 5).toNat 16 4 false = .ok 0x100000 ∧ spErrs x 35 0 (2 ^ 21) [] = [] ∧
      wAt (spWords x 35 0x100000 4) 0 = 63#32 ∧ (wAt (spWords x 35 0x100000 4) 1).toNat = n ∧
      wAt (spWords x 35 0x100000 4) 2 = 31#32 ∧ (slotOf (tl x 35) 63).state = .armed ∧ dKind (slotOf (tl x 35) 63).desc = 0 ∧
      n * 8 ≤ elemCount (slotOf (tl x 35) 63).desc * eBits (slotOf (tl x 35) 63).desc ∧
      gDim (slotOf (tl x 35) 63).desc false = none ∧
      spadRange (slotOf (tl x 35) 63).desc (slotOf (tl x 35) 63).awin (slotOf (tl x 35) 63).cwin false = some (0, 63) ∧
      rangeOn x 35 0 63 = true ∧ sbHit (tl x 35).sb none 0 63 false = false ∧
      (∀ ch ∈ x.chains, ch.head = slotOfT x 35 → ch.len ≤ ch.bytes.length)) ∧
    (∃ ch ∈ (chainS 64#32 [⟨3, [4], 9, [], 0, 0, 1⟩]).chains, ch.head = slotOfT (chainS 64#32 [⟨3, [4], 9, [], 0, 0, 1⟩]) 35 ∧
      ch.bytes.length < ch.len) ∧
    chainFor (chainS 64#32 [⟨2, [3], 9, [1#8], 0, 0, 1⟩]) (slotOfT (chainS 64#32 [⟨2, [3], 9, [1#8], 0, 0, 1⟩]) 35) =
      some ⟨2, [3], 9, [1#8], 0, 0, 1⟩ ∧
    chainTagBad { tl (chainS 64#32 [⟨2, [3], 9, [1#8], 0, 0, 1⟩]) 35 with chainIn := [⟨9, [1#8]⟩] } = false ∧
    (tl (chainS 64#32 [⟨2, [3], 9, [1#8], 0, 0, 1⟩]) 35).chainIn = [] ∧
    (∀ x ∈ [chainS 64#32 [⟨2, [3], 9, [1#8], 0, 0, 1⟩] (fun x => { x with run := (tl (arrR []) 35).run })],
      chainFor x (slotOfT x 35) = some ⟨2, [3], 9, [1#8], 0, 0, 1⟩ ∧ (tl x 35).chainIn = [] ∧
      chainTagBad { tl x 35 with chainIn := [⟨9, [1#8]⟩] } = true) ∧
    chainFor (chainS 64#32 []) (slotOfT (chainS 64#32 []) 35) = none := by decide +kernel

/-- The buffers of the transposition tile, tile 0 full and 31 rows in tile 1, or tile 1 full too. -/
def vecS (full : Bool) (f : Tiller → Tiller) : Block :=
  (tlS 3 [] [] (fun x => f { x with
    fillIdx := 1, tb0 := { TBuf.init with full := true, rows := 32 }, tb1 := { TBuf.init with rows := 31, full := full } }) id).asFound 9

theorem witness_VectorBundlesReadThenWrite :
    CanIssue (vecS false id) 35 60 ∧ domSt (vecS false id) (vectorDom 35) = 0 ∧ bundleOk [.acc 4 5, .acc 5 6] = false ∧
    bundleOk [.ld 31 5, .abs 2 3] = true ∧ bundleOk [.st 31 5] = true ∧ bundleOk [.acc 4 5] = true ∧ usesAcc [.acc 4 5] = true ∧
    (tl (vecS false id) 35).run = none ∧ (tl (vecS false id) 35).pend = none ∧
    (tl (vecS false (fun x => { x with run := some op8 })) 35).run ≠ none ∧ memOf [.ld 31 5, .abs 2 3] = some (false, 5) ∧
    memOf [.st 31 5] = some (true, 5) ∧ memOf [.acc 4 5] = none ∧
    coreAcc (vecS false id) 35 (xReg (tl (vecS false id) 35) 5).toNat 256 64 false = .ok 0x100000 ∧
    coreAcc (vecS false id) 35 (xReg (tl (vecS false id) 35) 5).toNat 256 64 true = .ok 0x100000 ∧
    spErrs (vecS false id) 35 0x100000 256 [] = [] ∧
    (fillBuf (tl (vecS false id) 35)).full = false ∧ (fillBuf (tl (vecS false id) 35)).rows = 31 ∧
    (tl (vecS false id) 35).fillIdx = 1 ∧ (fillBuf (tl (vecS true id) 35)).full = true ∧
    readIdx (tl (vecS false id) 35) = some 0 ∧ readIdx Tiller.init = none := by
  unfold CanIssue; decide +kernel

/-- Tiller 35 with an uncorrectable word at the address in x5, and one whose entry of the fill engine covers it. -/
def spBad : Block := (tlS 3 [] [] (fun x => { x with poison := [0x40000] }) id).asFound 9
def spHeld : Block :=
  (tlS 3 [] [] (fun x => { x with task := some task7, sb := [⟨0x100000, 0x10003F, true, .fill⟩] }) id).asFound 9

/-- The cache open over the window of context 2, its first line held, x5 four bytes above it. -/
def cacheT : Block :=
  (tlS 3 [] [(Reg.MEM_CTX_GLO 2, 0#32), (Reg.MEM_CTX_GHI 2, 0x3FFFF#32), (Reg.TLR_CACHE_BASE 35, 1#32), (Reg.SYNC_CTX_CFG 2, 0#32)]
    (fun x => { x with
      task := some task7, cacheSz := 4, x := [(5, 0x80000004#32)],
      cache := [⟨0, 2 ^ 24 / cacheSets { x with cacheSz := 4 }, []⟩] }) id).asFound 9

theorem witness_CoreLoadsAndStores :
    (∀ n ∈ [1, 2, 4], coreAcc spBad 35 (memAddr (tl spBad 35) 5 0) n (if n = 4 then 4 else 1) false = .ok 0x100000 ∧
      coreAcc spBad 35 (memAddr (tl spBad 35) 6 0) n (if n = 4 then 4 else 1) true = .ok 0x100040 ∧
      spErrs spBad 35 0x100040 n [] = []) ∧ CanIssue spBad 35 60 ∧ memAddr (tl spBad 35) 5 0 < 2 ^ 31 ∧
    (∃ e ∈ spErrs spBad 35 0x100000 1 [], e.2 = .uncorrectable) ∧
    (∀ e ∈ spErrs spBad 35 0x100040 4 [(0x100040, .corrected)], e.2 = .corrected) ∧
    coreAcc spBad 35 (memAddr (tl spBad 35) 5 1) 4 4 false = .fault 3 ∧ coreAcc spBad 35 (memAddr (tl spBad 35) 5 1) 4 4 true = .fault 3 ∧
    CanIssue spHeld 35 60 ∧ coreAcc spHeld 35 (memAddr (tl spHeld 35) 5 0) 4 4 false = .stall ∧
    CanIssue cacheT 35 60 ∧ memAddr (tl cacheT 35) 5 (-4) = 2 ^ 31 ∧ memAddr (tl cacheT 35) 5 120 = 2 ^ 31 + 124 ∧
    cacheOpen cacheT 35 = .ok 0 ∧ cacheAddr cacheT 35 (2 ^ 31) = 2 ^ 31 ∧ (2 ^ 31 + 124) % 128 + 4 ≤ 128 ∧
    (cacheFind (tl cacheT 35) (2 ^ 31)).isSome = true ∧ curCtx cacheT 35 = some 2 ∧ inCtxWin cacheT 2 (2 ^ 31) 4 = true ∧
    refillOk cacheT 2 (2 ^ 31) 4 = true ∧ (tl cacheT 35).cacheSz = 4 := by
  unfold CanIssue; decide +kernel

/-- A fill of 1 MiB from 0 with operands in x5 to x7; the engine's operation; the array class off or on. -/
def fillT (fc : Option FillOp) (sb : List SbEntry) (off : Word) : Block :=
  setRg ((tlS 3 [] []
    (fun x => { x with x := [(6, 0x100000#32), (7, 0x100000#32)], fc := fc, sb := sb }) id).asFound 9) (Reg.PWR_SPAD 35) off

theorem witness_FillsCopiesAndCacheSize :
    CanIssue (fillT none [] 0#32) 35 60 ∧ (xReg (tl (fillT none [] 0#32) 35) 5).toNat = 0 ∧
    (xReg (tl (fillT none [] 0#32) 35) 6).toNat = 2 ^ 20 ∧ (xReg (tl (fillT none [] 0#32) 35) 7).toNat = 2 ^ 20 ∧
    taskAddr (curAwin (fillT none [] 0#32) 35) (curCwin (fillT none [] 0#32) 35) 0 (2 ^ 20) = some 0 ∧
    taskAddr (curAwin (fillT none [] 0#32) 35) (curCwin (fillT none [] 0#32) 35) (2 ^ 20) (2 ^ 20) = some (2 ^ 20) ∧
    (tl (fillT none [] 0#32) 35).fc = none ∧ (sbAdd (fillT none [] 0#32) 35 [sbEntry 0 (2 ^ 20 - 1) true .fill]).isSome = true ∧
    (sbAdd (fillT none [] 0#32) 35 [sbEntry (2 ^ 20) (2 ^ 21 - 1) false .fill, sbEntry 0 (2 ^ 20 - 1) true .fill]).isSome = true ∧
    sbAdd (fillT none [⟨0, 63, false, .array 0⟩] 0#32) 35 [sbEntry 0 (2 ^ 20 - 1) true .fill] = none ∧
    (∀ o ∈ [FillOp.mk (2 ^ 21 - 4) 4 (some 0) 0#32, FillOp.mk 0 4 none 5#32],
      (tl (fillT (some o) [] 0#32) 35).fc = some o ∧ rangeOn (fillT (some o) [] 0#32) 35 o.dst (o.dst + o.len - 1) = true) ∧
    rangeOn (fillT none [] 0#32) 35 0 3 = true ∧ spErrs (fillT none [] 0#32) 35 0 4 [] = [] ∧
    rangeOn (fillT (some ⟨0, 4, none, 5#32⟩) [] 0x200#32) 35 0 3 = false ∧
    (tl (fillT none [] 0#32) 35).task = none ∧
    min 4 ((frc (setFrc (fillT none [] 0#32) (Reg.TLR_SPAD_CFG 35) 4#32) (Reg.TLR_SPAD_CFG 35)).fld 2 0) = 4 ∧
    (tl (fillT none [] 0#32) 35).cacheSz ≠ 4 ∧
    (tl (fillT none [] 0#32) 35).cacheSz = min 4 ((frc (setFrc (fillT none [] 0#32) (Reg.TLR_SPAD_CFG 35) 0#32) (Reg.TLR_SPAD_CFG 35)).fld 2 0) := by
  unfold CanIssue; decide +kernel

/-- A packet to this device, device 0, from device 1. -/
def inP (b : Payload) : Packet := { src := 1, dst := 0, vc := 0, nums := [(0, 1)], lost := [], relay := none, body := b }

/-- Tiller 35 mapped as slot 3, glume window 0 of 64 bytes open for writes and reads or not, a link to device 1. -/
def glumeT (ctrl : Word) : Block :=
  (tlS 1 [] [(Reg.TLR_GLUME_CTRL 35 0, ctrl), (Reg.TLR_GLUME_SIZE 35 0, 0x40#32), (Reg.TLR_GLUME_BASE 35 0, 0#32),
      (Reg.LNK_SYS, 0x80000040#32), (Reg.LNK_STATUS, 2#32)]
    id (fun b => { b with cfg := { b.cfg with units := [(35, ⟨1, 0, 3, 0, 3⟩)] },
                          links := { b.links with route := [(1, 0, 0)] } })).asFound 9

theorem witness_ScrubsAndGlumeRequests :
    (35 : Nat) ≠ 36 ∧ (inP (.glumeWr 3 0 63 [1#8] 0 [] 1 0)).body = .glumeWr 3 0 63 [1#8] 0 [] 1 0 ∧ ([1#8] : List Byte) ≠ [] ∧
    physOf (glumeT 7#32) 0 3 = some 35 ∧ glumeOk (glumeT 7#32) 35 0 63 1 true 1 = true ∧ glumeOk (glumeT 7#32) 35 0 63 1 false 1 = true ∧
    (frc (glumeT 7#32) (Reg.TLR_GLUME_BASE 35 0)).fld 20 6 * 64 + 63 = 63 ∧ rangeOn (glumeT 7#32) 35 63 63 = true ∧
    glumeOk (glumeT 7#32) 35 0 64 1 true 1 = false ∧ glumeOk (glumeT 7#32) 35 0 64 1 false 1 = false ∧
    (outLink (glumeT 7#32) 1).isSome = true ∧ spErrs (glumeT 7#32) 35 63 1 [] = [] := by decide +kernel

/-- A current task of context 2 whose virtual cell 0 maps to a cell, with permissions. -/
def syncS (e : Word) (y : Cell) (f : Tiller → Tiller) : Block :=
  (tlS 3 [] [(Reg.LNK_SYS, 0x80000040#32), (Reg.LNK_STATUS, 2#32)]
    (fun x => f { x with task := some task7, x := [(7, 1#32)] })
    (fun b => { b with sync := { b.sync with vt := [(2048, e)], cells := [(4095, y)] },
                       links := { b.links with route := [(1, 0, 0)] } })).asFound 9

/-- A LIVE counter and a LIVE pair of context 2. -/
def ctr2 : Cell := ⟨.counter, .live, 2, false, false, 0, 2 ^ 48 - 1, 0⟩
def pair2 : Cell := ⟨.pair, .live, 2, false, false, 4, 1, 0⟩

/-- All permissions on cell 4095 of this device, and of device 1. -/
def syncL : Block := syncS 0x801C0FFF#32 pair2 id
def syncR : Block := syncS 0xC1100FFF#32 ctr2 id
def syncW (w : Option Nat) : Block := syncS 0#32 pair2 (fun x => { x with blocked := .swait 4095 1 7 9, woken := w })

theorem witness_SyncInstructionsFollowTheTranslation :
    (∀ x ∈ [syncL, syncR], coreReady x 35 = true ∧ (rg x (Reg.TLR_TASK_KBASE 35)).fld 15 2 * 4 + 60 < (tl x 35).imgLen ∧
      fencedT x 35 = none ∧ (tl x 35).task = some task7 ∧ xReg (tl x 35) 7 = 1#32) ∧
    vtEntry syncL task7.ctx ((xReg (tl syncL 35) 6).fld 9 0) = 0x801C0FFF#32 ∧
    (Word.bit 0x801C0FFF#32 31 = true ∧ Word.bit 0x801C0FFF#32 30 = false ∧ Word.bit 0x801C0FFF#32 20 = true ∧
      Word.bit 0x801C0FFF#32 19 = true ∧ Word.bit 0x801C0FFF#32 18 = true ∧ Word.fld 0x801C0FFF#32 11 0 = 4095) ∧
    (xReg (tl syncL 35) 8).toNat < 1 ∧ (2 : Nat) < 3 ∧
    vtEntry syncR task7.ctx ((xReg (tl syncR 35) 6).fld 9 0) = 0xC1100FFF#32 ∧ Word.fld 0xC1100FFF#32 29 24 ≠ devOf syncR ∧
    xReg (tl syncR 35) 7 ≠ 0#32 ∧ (outLink syncR (Word.fld 0xC1100FFF#32 29 24)).isSome = true ∧
    (vtCheck 0#32 20 true = 1 ∧ vtCheck 0x80000FFF#32 19 true = 2 ∧ vtCheck 0xC0100FFF#32 20 false = 2) ∧
    (tl ((tlS 3 [] [] id id).asFound 9) 35).task = none ∧
    (∀ w ∈ [none, some 4], (tl (syncW w) 35).blocked = .swait 4095 1 7 9 ∧ (tl (syncW w) 35).woken = w) ∧
    waitStatus ctr2 0 1 = none ∧ waitStatus ctr2 2 1 = some 3 ∧ waitStatus pair2 1 1 = some 0 ∧ waitStatus pair2 1 2 = none := by
  decide +kernel

/-- Tiller 34 waits on ripe flag 16383, which is set or not. -/
def flagT (v : Bool) (h : Blocked) : Block :=
  (tlS 3 [] [] (fun x => { x with task := some task7 })
    (fun b => { b with tlr := b.tlr ++ [(34, { Tiller.init with blocked := h })], flags := [(16383, v)] })).asFound 9

/-- The cell window as the host left it. -/
def winS (cfg : Word) : Block :=
  (mk [(Reg.SYNC_CELL_ADDR, 4095#32), (Reg.SYNC_CELL_CFG, cfg), (Reg.SYNC_CELL_VAL_LO, 0xFFFFFFFF#32),
      (Reg.SYNC_CELL_VAL_HI, 0xFFFF#32), (Reg.SYNC_CELL_AUX_LO, 0#32), (Reg.SYNC_CELL_AUX_HI, 0#32)] up).asWritten 9

theorem witness_FlagInstructionsAndCellCommands :
    CanIssue (flagT true .none) 35 60 ∧ (tl (flagT true .none) 35).task = some task7 ∧
    (xReg (tl (flagT true .none) 35) 6).toNat % 16384 = 0x40 ∧
    (∀ v ∈ [true, false], (tl (flagT v (.fwait 16383)) 34).blocked = .fwait 16383 ∧
      flagBefore (flagT v (.fwait 16383)) 16383 = v ∧ flag (flagT v (.fwait 16383)) 16383 = v) ∧
    (rg (winS 0x50000400#32) Reg.SYNC_CELL_ADDR).fld 11 0 = 4095 ∧
    cellOk (windowCell (winS 0x50000400#32)) = true ∧ cellOk (windowCell (winS 0x50000401#32)) = false ∧
    (⟨.counter, .live, 15, false, false, 2047, 2 ^ 48 - 1, 2 ^ 48 - 1⟩ : Cell).owner < 16 ∧ (2047 : Nat) < 2048 ∧
    (2 ^ 48 - 1 : Nat) < 2 ^ 48 ∧ (4095 : Nat) < 4096 := by
  unfold CanIssue; decide +kernel

/-- A cell of kind `k` in state `st`, with BOUND 2, VAL and AUX. -/
def cellB (k : CellKind) (st : CellState) (val aux : Nat) : Block :=
  (mk [] (fun b => { b with sync := { b.sync with cells := [(4095, ⟨k, st, 3, false, false, 2, val, aux⟩)] } })).blk

theorem witness_OperationsFollowTheKindOfTheCell :
    (∀ k ∈ [CellKind.counter, .barrier, .pair], (cell (cellB k .live 5 4) 4095).state = .live ∧
      (cell (cellB k .live 5 4) 4095).kind = k) ∧
    (cell (cellB .counter .live 5 0) 4095).val = 5 ∧ 0 ≤ (5 : Int) + -5 ∧ (5 : Int) + -6 < 0 ∧
    0 + Int.toNat 1 < 2 ∧ 0 + Int.toNat 2 = 2 ∧ 2 < 0 + Int.toNat 3 ∧ (cell (cellB .barrier .live 5 0) 4095).bound = 2 ∧
    (0 : Int) ≤ 3 ∧ (-1 : Int) < 0 ∧
    subMod 48 (wrapN 48 ((cell (cellB .pair .live 5 4) 4095).val + 1)) 4 ≤ 2 ∧
    2 < subMod 48 (wrapN 48 ((cell (cellB .pair .live 5 4) 4095).val + 2)) 4 ∧
    1 ≤ subMod 48 (cell (cellB .pair .live 5 4) 4095).val 4 ∧ subMod 48 (cell (cellB .pair .live 5 4) 4095).val 4 < 2 ∧
    (cell (cellB .counter .fault 5 4) 4095).state ≠ .live ∧
    (cell (cellB .counter .live 5 4) 4095).owner = 3 ∧ (cell (cellB .counter .live 5 4) 4095).shared = false ∧
    spWf (fun _ => Cell.init) (cellB .counter .live 5 4).sync.cells = true := by decide +kernel

/-- A descriptor of one 8-bit element without gather: word 0, source and destination SPACE words. -/
def desc1 (w0 src dst : Word) : List Word :=
  [w0, 0#32, 0#32, 0#32, 0#32, src] ++ List.replicate 11 0#32 ++ [dst] ++ List.replicate 14 0#32

/-- Slot 63 in a state, with a descriptor, its channel and its task's windows and context, and the units it has asked for. -/
def slot63 (st : SlotState) (d : List Word) (pos : Nat) (asked : List DUnit) : StrmSlot :=
  { StrmSlot.init with state := st, desc := d, awin := 0x3FFF0000#32, cwin := 0x3FFF0000#32, pos := pos, asked := asked }

/-- That descriptor in memory, and a slot 63; context 0 reaches GDDR6, context 1 one byte of it. -/
def strmS (d : List Word) (v : StrmSlot) (f : Tiller → Tiller) : Block :=
  (tlS 3 ((List.range 32).map (fun i => (4 * i, d.getD i 0#32)))
    [(Reg.MEM_CTX_GLO 0, 0#32), (Reg.MEM_CTX_GHI 0, 0x3FFFF#32), (Reg.MEM_CTX_GLO 1, 1#32), (Reg.MEM_CTX_GHI 1, 1#32)]
    (fun x => f { x with slots := [(63, v)] }) id).asFound 9

/-- A local read, a DMA read from GDDR6 and a DMA write to it. -/
def dRead : List Word := desc1 0x03810000#32 0#32 0#32
def dIn : List Word := desc1 0x23810000#32 0x20000000#32 0#32
def dOut : List Word := desc1 0x33810000#32 0#32 0x20000000#32

/-- An empty slot 63, a halted one at the head of channel 15, and an armed one of a persistent or a single stream. -/
def strmE : Block := strmS dRead (slot63 .empty [] 0 []) id
def strmH : Block := strmS dIn (slot63 .halted dIn 0 []) (fun x => { x with chans := [(15, [63])] })
def strmP : Block := strmS [] (slot63 .armed (desc1 0x0B810000#32 0#32 0#32) 0 [])
    (fun x => { x with slots := [(62, slot63 .armed dRead 0 [])] ++ x.slots })

theorem witness_StreamSlotsArmAndAnswer :
    (admits strmE 128 128 ∧ admits strmE 16 4) ∧ armStatus strmE 35 63 dRead = 0 ∧ spWords strmE 35 0x100000 32 = dRead ∧
    armBounds dRead (curAwin strmE 35) (curCwin strmE 35) = true ∧ dKind dRead < 2 ∧ (slotOf (tl strmE 35) 63).state = .empty ∧
    (slotOf (tl strmE 35) 63).inFlight = false ∧ armBounds dRead 0#32 0#32 = true ∧
    (sbAdd strmE 35 (armEntries strmE 35 63 { StrmSlot.init with
      desc := dRead, awin := curAwin strmE 35, cwin := curCwin strmE 35 })).isSome = true ∧
    (admits strmH 128 128 ∧ spWords strmH 35 0x100000 32 = dIn) ∧ armStatus strmH 35 63 dIn = 1 ∧
    (slotOf (tl strmH 35) 63).inFlight = true ∧ armStatus strmH 35 62 dIn = 0 ∧
    armBounds dIn (curAwin strmH 35) (curCwin strmH 35) = true ∧ dKind dIn = 2 ∧ (chanOf (tl strmH 35) (dChan dIn)).length < 8 ∧
    (sbAdd strmH 35 (armEntries strmH 35 62 { StrmSlot.init with
      desc := dIn, awin := curAwin strmH 35, cwin := curCwin strmH 35 })).isSome = true ∧
    chanOf (tl strmH 35) (7 + 8 * 1) = [63] ∧ (slotOf (tl strmH 35) 63).state = .halted ∧
    (admits strmP 16 4 ∧ (slotOf (tl strmP 35) 63).state = .armed ∧ (slotOf (tl strmP 35) 62).state = .armed ∧
      (wAt (spWords strmP 35 0x100000 4) 1).fld 31 28 = (wAt (slotOf (tl strmP 35) 63).desc 5).fld 31 28 ∧
      (wAt (spWords strmP 35 0x100000 4) 1).fld 27 16 = 0 ∧
      (wAt (spWords strmP 35 0x100000 4) 3).fld 31 28 = (wAt (slotOf (tl strmP 35) 63).desc 17).fld 31 28 ∧
      (wAt (spWords strmP 35 0x100000 4) 3).fld 27 16 = 0 ∧ panicleBad strmP (slotOf (tl strmP 35) 63).desc = false ∧
      pagedRt strmP 35 (slotOf (tl strmP 35) 63).desc = false ∧ descSpaceBad (slotOf (tl strmP 35) 63).desc = false ∧
      (wAt (slotOf (tl strmP 35) 63).desc 0).bit 27 = true ∧ dKind (slotOf (tl strmP 35) 63).desc < 2 ∧
      (wAt (slotOf (tl strmP 35) 62).desc 0).bit 27 = false ∧ (wAt (spWords strmP 35 0x100000 4) 1).fld 31 28 ≠ (wAt dIn 5).fld 31 28) := by
  unfold admits CanIssue; decide +kernel

/-- A unit that completes the first element, with points still before it. -/
def unit0 (path : List Nat) : DUnit := ⟨0, 0, 0, 1, false, path, 0, []⟩

theorem witness_DmaMovesElements :
    (∀ x ∈ [strmS [] (slot63 .queued dIn 0 []) (fun x => { x with chans := [(0, [63])] })],
      (slotOf (tl x 35) 63).state = .queued ∧ (chanOf (tl x 35) (dChan dIn)).head? = some 63) ∧
    (slotOf (tl strmH 35) 63).state ≠ .queued ∧ (unit0 [35]).path ≠ [] ∧ (unit0 []).path = [] ∧ (unit0 []).fin = 0 + 1 ∧
    (∀ d ∈ [dIn, dOut], elemCount d = 1 ∧ (wAt d 1).bit 30 = false ∧ (wAt d 1).bit 31 = false ∧ gDim d true = none ∧
      gDim d false = none) ∧
    (∀ x ∈ [strmS [] (slot63 .active dIn 0 [unit0 []]) id], fencedT x 35 = none ∧ (tl x 35).poison = [] ∧
      (slotOf (tl x 35) 63).state = .active ∧ (slotOf (tl x 35) 63).asked = [unit0 []] ∧
      x.mem.poison.contains 0 = false ∧ dKind dIn = 2 ∧ (srcPat dIn).space = 2 ∧ (dstPat dIn).space = 0 ∧
      sideElem x 35 (slotOf (tl x 35) 63) false 0 = .at_ 0 0 ∧ sideElem x 35 (slotOf (tl x 35) 63) true 0 = .at_ 0 0 ∧
      slotPhys (slotOf (tl x 35) 63) 0 (eSpan dIn 0) = some 0 ∧ rangeOn x 35 0 (0 + eSpan dIn 0 - 1) = true ∧
      gddrFar x 0 0 (eSpan dIn 0) false = .gddr 0 ∧ gddrFar x 1 0 (eSpan dIn 0) false = .bad 3 1) ∧
    eSpan dIn 0 = 1 ∧ (∃ e ∈ [((0 : Nat), EccStat.uncorrectable)], e.1 / 64 = (0 + 0) / 64 ∧ e.2 = .uncorrectable) ∧
    (∀ x ∈ [strmS [] (slot63 .active dOut 0 [unit0 []]) id], dKind dOut = 3 ∧ (srcPat dOut).space = 0 ∧
      (dstPat dOut).space = 2 ∧ sideElem x 35 (slotOf (tl x 35) 63) true 0 = .at_ 0 0 ∧
      sideElem x 35 (slotOf (tl x 35) 63) false 0 = .at_ 0 0 ∧ spErrs x 35 0 (eSpan dOut 0) [] = [] ∧
      gddrFar x 0 0 (eSpan dOut 0) true = .gddr 0) ∧
    elemCount dIn ≤ (slot63 .active dIn 1 []).pos ∧ (slot63 .active dIn 0 []).pos < elemCount dIn ∧
    (15 : Nat) < 16 ∧ chanOf (tl (commandsFirst strmH) 35) 15 = [63] ∧
    (slotOf (tl (commandsFirst strmH) 35) 63).state = .halted := by decide +kernel

/-- The output of tiller 35's engines with a read and a write that wait, in a mode. -/
def arbS (arb : Word) : Block :=
  (tlS 3 [] [(Reg.STRM_ARB, arb), (Reg.STRM_WHEEL, 0xC#32)]
    (fun x => { x with slots := [(62, slot63 .active dIn 0 [unit0 [35, 36]]), (63, slot63 .active dOut 0 [unit0 [35, 36]])] })
    (fun b => { b with arb := [(35, (1, 0))] })).asFound 9

/-- A write that may ask for its first unit, of a region that is off. -/
def arbOff : Block :=
  (tlS 3 [] [(Reg.MEM_CTX_GLO 0, 0#32), (Reg.MEM_CTX_GHI 0, 0x3FFFF#32), (Reg.MEM_PD_STAT, 2#32)]
    (fun x => { x with slots := [(63, slot63 .active dOut 0 [])] }) id).asFound 9

theorem witness_ArbitrationGrantsByModeAndRank :
    (mayAsk 35 (slotOf (tl arbOff 35) 63) = true ∧ (askRefused arbOff 35 (slotOf (tl arbOff 35) 63)).isSome = true) ∧
    (frc (arbS 64#32) Reg.STRM_ARB).bit 16 = false ∧ (pointReqs (arbS 64#32) [] 35).length = 2 ∧
    (∀ q ∈ pointReqs (arbS 64#32) [] 35, edfEligible 9 64 q = true ∧ q.owner.isSome = true) ∧
    (pointReqs (arbS 64#32) [⟨500, 3, false⟩] 36).any (fun q => !edfEligible 9 64 q) = true ∧ pointReqs (arbS 64#32) [] 37 = [] ∧
    (farSide (slotOf (tl (arbS 64#32) 35) 63) = true ∨ (srcPat (slotOf (tl (arbS 64#32) 35) 63).desc).space ≠ 5) ∧
    (frc (arbS 0x10040#32) Reg.STRM_ARB).bit 16 = true ∧ (spGet (fun _ => (0, 0)) (arbS 0x10040#32).arb 35).1 % 16 = 1 ∧
    (frc (arbS 0x10040#32) Reg.STRM_WHEEL).fld 3 2 = 3 ∧ (frc (arbS 0x10040#32) Reg.STRM_WHEEL).fld 1 0 = 0 ∧
    (pointReqs (arbS 0x10040#32) [] 35).any (fun q => decide (arbCode q.cls = 0)) = true := by decide +kernel

/-- The timebase enabled or not, the core clock running or not, replay and the recorder off. -/
def regS (tb : Word) (core : Bool) : Block :=
  (mk [(Reg.TB_CTRL, tb), (Reg.DBG_RPL_CTRL, 0#32), (Reg.DBG_REC_CTRL, 0#32), (Reg.SEQ_CTRL, 0#32)]
    (fun b => { b with pwr := { b.pwr with core := core, port := true } })).asFound 9

theorem witness_RegisterWritesFollowFieldTypes :
    (∀ a ∈ [Reg.TLR_SPAD_CFG 35, Reg.SEQ_STATUS, Reg.HOST_CTRL, Reg.TB_REV_LIMIT, Reg.SAFE_WD 0],
      isReg a = true ∧ recRegLocked (regS 1#32 true) a = false ∧ (fixedCmd a 5#32).isNone = true ∧
      (familyCmd a 5#32).isNone = true ∧ writeBad (regS 1#32 true) a 5#32 = none ∧ a ∉ settleRegs ∧
      portOfReg a = none ∧ laneOfReg a = none ∧ setOfReg a = none) ∧
    (regS 1#32 true).pwr.core = true ∧ isSh Reg.HOST_CTRL = false ∧ isSh (Reg.TLR_SPAD_CFG 35) = true ∧ tbEn (regS 1#32 true) = true ∧
    ¬(0xE800 ≤ Reg.TLR_SPAD_CFG 35 ∧ Reg.TLR_SPAD_CFG 35 < 0xF000) ∧ tbEn (regS 0#32 true) = false ∧
    (isSh (Reg.TB_TRIG_CFG 7) = true ∧ 0x2080 ≤ Reg.TB_TRIG_CFG 7 ∧ Reg.TB_TRIG_CFG 7 < 0x20A0 ∧ isReg (Reg.TB_TRIG_CFG 7) = true ∧
      recRegLocked (regS 0#32 true) (Reg.TB_TRIG_CFG 7) = false ∧ (fixedCmd (Reg.TB_TRIG_CFG 7) 5#32).isNone = true ∧
      (familyCmd (Reg.TB_TRIG_CFG 7) 5#32).isNone = true ∧ writeBad (regS 0#32 true) (Reg.TB_TRIG_CFG 7) 5#32 = none) ∧
    gatedOff (regS 0#32 true) Reg.TB_POS_HI = false ∧ isReg 0x2000 = true ∧
    (isSh (Reg.SAFE_WD 0) = true ∧ 0xE800 ≤ Reg.SAFE_WD 0 ∧ Reg.SAFE_WD 0 < 0xF000) ∧
    isReg 0xFFFFC = false ∧ (0xFFFFC : Nat) < 0x100000 ∧ 0xFFFFC % 4 = 0 ∧ (regS 1#32 true).pwr.port = true ∧
    replayOn (regS 1#32 true) = false ∧ recOn (regS 1#32 true) = false ∧
    commandsFirst (regS 1#32 true) = regS 1#32 true ∧ commandsFirst (regS 0#32 false) = regS 0#32 false ∧ (regS 0#32 false).pwr.port = true ∧ (regS 0#32 false).pwr.core = false ∧
    replayOn (regS 0#32 false) = false := by decide +kernel

theorem witness_HostReadsMirrorsAndRings :
    (regS 0#32 true).pwr.port = true ∧ isReg Reg.TB_POS_HI = true ∧ (stepOf Reg.TB_POS_HI).isNone = true ∧
    Reg.TB_POS_HI % 4 = 0 ∧ Reg.TB_POS_HI < 0x100000 ∧ gatedOff (regS 0#32 true) Reg.TB_POS_HI = false ∧
    replayOn (regS 0#32 true) = false ∧ commandsFirst (regS 0#32 true) = regS 0#32 true ∧ (0x1FFFFC : Nat) < 0x200000 ∧ 0x1FFFFC % 4 = 0 ∧ 0x21FFFC < 0x220000 ∧
    (0x20000C : Nat) % 4 = 0 ∧ (0x200000 : Nat) % 4 = 0 ∧ isSnapped Reg.TB_POS_HI = true ∧ isSnapped Reg.HOST_CTRL = false ∧
    isReg Reg.HOST_CTRL = true ∧ (stepOf Reg.HOST_CTRL).isNone = true ∧ Reg.HOST_CTRL < 0x100000 ∧
    isReg 0xFFFFC = false ∧ (5 : Nat) % 16 ≠ 0 ∧ (15 : Nat) < 16 := by decide +kernel

/-- A system of 2 by 1 devices seen from device `dev`, link 0 UP; a route to device 1. -/
def sysS (dev : Nat) : Block :=
  (mk [(Reg.LNK_SYS, 0x80000040#32), (Reg.LNK_STATUS, 0xA#32), (Reg.LNK_CTRL, 0x10F#32), (Reg.LNK_SYS_ID, 7#32),
      (Reg.DBG_RPL_CTRL, 0#32), (Reg.HOST_RRD_ADDR, 0x04000008#32)]
    (fun b => up { b with links := { b.links with route := [(1, 0, 1)] }, pwr := { b.pwr with devid := dev } })).asFound 9

theorem witness_ApertureWritesReachTheirTargets :
    (sysS 0).pwr.port = true ∧ (sysS 0).pwr.core = true ∧ replayOn (sysS 0) = false ∧
    0x403FFC % 4 = 0 ∧ 0x400000 ≤ 0x403FFC ∧ 0x403FFC / 2 ^ 14 % 64 = devOf (sysS 0) ∧ 0x403FFC / 4 % 4096 = 4095 ∧
    0x500000 / 2 ^ 14 % 64 = devOf (sysS 0) ∧ 0x500000 < 0x600000 ∧ (1#32 : Word) ≠ 0#32 ∧ Word.s32 1#32 = 1 ∧
    Word.s32 1024#32 = 1024 ∧ 1024 < Word.s32 1025#32 ∧ Word.s32 0xFFFFFFFF#32 < 1 ∧ isHead (sysS 0) = true ∧ isHead (sysS 1) = false ∧
    treeKids (xDim (sysS 0)) (yDim (sysS 0)) 0 0 (fun _ => true) = [0] ∧ linkSt (sysS 0) 0 = 2 ∧
    (sysS 0).links.alt.contains 0 = false ∧ (1 : Nat) ≠ devOf (sysS 0) ∧ (63 : Nat) ≠ devOf (sysS 1) ∧
    (sysS 0).links.route.find? (fun e => e.1 = 1) = some (1, 0, 1) ∧ (0x140000000 + 0x1FFFFC) % 4 = 0 ∧
    (0x100000000 + 1 * 0x1000000 + 0x1FFFFC) % 4 = 0 ∧ (0x100000000 + devOf (sysS 1) * 0x1000000 + 0x407FFC) % 4 = 0 ∧
    0x407FFC / 2 ^ 14 % 64 = devOf (sysS 1) ∧ commandsFirst (sysS 1) = sysS 1 ∧ (sysS 1).pwr.core = true ∧ replayOn (sysS 1) = false ∧ (63 : Nat) < 64 ∧ devOf (sysS 0) = 0 ∧
    commandsFirst (sysS 0) = sysS 0 := by decide +kernel

/-- Frame 63 in state `st`, an operation on it, a remote read under way. -/
def frmS (st : Word) (op : List (Nat × (Nat × Nat))) : Block :=
  (mk [(Reg.HOST_FRAME_CTRL 63, st), (Reg.HOST_RRD_ADDR, 8#32), (Reg.MEM_PD_STAT, 0#32)]
    (fun b => up { b with host := { b.host with frameOp := op }, links := { b.links with rrd := decide (op ≠ []) } })).asFound 9

theorem witness_RemoteReadsAndPagedFrames :
    (Word.bit 1#32 0 = true ∧ (sysS 0).links.rrd = false ∧ (rg (sysS 0) Reg.HOST_RRD_ADDR).fld 31 26 = 1 ∧ isHead (sysS 0) = true) ∧
    ((rg (frmS 0#32 []) Reg.HOST_RRD_ADDR).fld 31 26 = devOf (frmS 0#32 []) ∧ (frmS 0#32 []).links.rrd = false ∧
      (rg (frmS 0#32 []) Reg.HOST_RRD_ADDR).fld 19 2 * 4 = 8 ∧ (stepOf 8).isNone = true ∧ 8 ≠ Reg.HOST_RRD_CMD) ∧
    commandsFirst (sysS 0) = sysS 0 ∧ commandsFirst (frmS 0#32 []) = frmS 0#32 [] ∧
    commandsFirst (frmS 0x100#32 []) = frmS 0x100#32 [] ∧ commandsFirst (frmS 0x200#32 []) = frmS 0x200#32 [] ∧
    commandsFirst (frmS 0#32 [(63, 1, 0)]) = frmS 0#32 [(63, 1, 0)] ∧
    Word.bit 2#32 0 = false ∧ (frmS 0#32 [(63, 1, 0)]).links.rrd = true ∧
    (63 : Nat) < 64 ∧ frameSt (frmS 0#32 []) 63 ≠ 1 ∧ frameSt (frmS 0x200#32 []) 63 ≠ 1 ∧ frameSt (frmS 0x100#32 []) 63 = 1 ∧
    (∀ op ∈ [1, 3], (frmS 0#32 [(63, op, 0x3F7FF0000)]).host.frameOp.find? (fun e => e.1 = 63) = some (63, op, 0x3F7FF0000) ∧
      regionRefuses (frmS 0#32 [(63, op, 0x3F7FF0000)]) 0x3F7FF0000 = false) ∧
    0x3F7FF0000 % 65536 = 0 ∧ 0x3F7FF0000 < 0x3F8000000 ∧ (∃ k ∈ [1023], k < 1024) ∧
    (frmS 0#32 [(63, 1, 0x3F7FF0000)]).mem.poison = [] ∧
    (∃ e ∈ [((0x3F7FFFFFC : Nat), EccStat.uncorrectable)], 0x3F7FF0000 ≤ e.1 ∧ e.1 < 0x3F7FF0000 + 65536 ∧ e.2 = .uncorrectable) := by decide +kernel

/-- The opaque `Config.modeAdmits` decides which values a restricted register takes: either answer meets one clause. -/
theorem witness_PortCommandsStayInThePort : (1 : Nat) < 2 ∧ (255 : Nat) < 256 ∧ readOnlyMr 255 = false ∧ restrictedMr 255 = false ∧
    readOnlyMr 0 = true ∧ readOnlyMr 22 = false ∧ restrictedMr 22 = true ∧
    (∀ v, Config.modeAdmits 22 v = true ∨ Config.modeAdmits 22 v = false) ∧
    ((mk [] up).asFound 9).pwr.port = true ∧
    portMode ((mk [] (fun b => { b with host := { b.host with port1 := .selfRefresh } })).asFound 9) 1 = .selfRefresh ∧
    portMode ((mk [] (fun b => { b with host := { b.host with port0 := .powerDown } })).asFound 9) 0 = .powerDown := by
  refine ⟨?_, ?_, ?_, ?_, ?_, ?_, ?_, fun v => ?_, ?_, ?_, ?_⟩
  case refine_8 => cases Config.modeAdmits 22 v <;> simp
  all_goals decide

/-- Links with the states in LNK_STATUS, packets unacknowledged on link 0, a route to device 1. -/
def lnkS (st : Word) (r : List Packet) : Block :=
  (mk [(Reg.LNK_SYS, 0x80000040#32), (Reg.LNK_STATUS, st), (Reg.LNK_CTRL, 0xF#32), (Reg.LNK_SYS_ID, 7#32)]
    (fun b => up { b with links := { b.links with replay := [(0, r)], route := [(1, 0, 1)] } })).asFound 9

/-- Two packets on link 0 to device 1, of which it has acknowledged the first. -/
def twoPk : List Packet := [{ pk0 with dst := 1 }, { pk0 with dst := 1, nums := [(1, 2)] }]

theorem witness_LinksTrainComeUpAndFail :
    (linkSt (lnkS 1#32 []) 0 = 1 ∧ rg (lnkS 1#32 []) Reg.LNK_SYS_ID = 7#32 ∧ linkFar (lnkS 1#32 []) 0 = 1 ∧
      ¬((8#32 : Word) = 7#32 ∧ (1 : Nat) = 1)) ∧
    (linkSt (lnkS 0xA#32 twoPk) 0 = 2 ∧ linkSt (lnkS 0xA#32 twoPk) 1 = 2 ∧ replayOf (lnkS 0xA#32 twoPk) 0 = twoPk ∧
      (lnkS 0xA#32 twoPk).links.route.find? (fun e => e.1 = 1) = some (1, 0, 1) ∧
      (∀ p ∈ twoPk.drop 1, p.relay = none ∧ p.dst ≠ 64 ∧ p.dst = 1) ∧ 1 < (replayOf (lnkS 0xA#32 twoPk) 0).length) ∧
    (linkSt (lnkS 0xA#32 []) 0 = 2 ∧ replayOf (lnkS 0xA#32 []) 0 = [] ∧ (rg (lnkS 0xA#32 []) Reg.LNK_SYS).fld 31 30 ≠ 0 ∧
      Word.bit 0x1F#32 4 = true ∧ (∀ m, m < 4 → m ≠ 0 → Word.bit 0x1F#32 (4 + m) = false ∧
        Word.bit 0x1F#32 m = (rg (lnkS 0xA#32 []) Reg.LNK_CTRL).bit m)) ∧
    commandsFirst (lnkS 0xA#32 []) = lnkS 0xA#32 [] ∧ commandsFirst (lnkS 1#32 []) = lnkS 1#32 [] ∧ (0 : Nat) < (replayOf (lnkS 0xA#32 twoPk) 0).length ∧
    (linkSt (lnkS 1#32 []) 0 ≠ 2 ∧ (replayOf (lnkS 1#32 []) 0).length ≤ 0 ∧ (3 : Nat) < 4) := by decide +kernel

/-- Panicle 15 of root 1 to device `dev`, at window 0 of slot 3; a remote read under way; a route to device 2; what has been
seen of the link. -/
def arrPS (dev : Nat) (f : Links → Links) : Block :=
  (tlS 1 [] [(Reg.TLR_GLUME_CTRL 35 0, 5#32), (Reg.TLR_GLUME_SIZE 35 0, 0x40#32), (Reg.TLR_GLUME_BASE 35 0, 0#32),
      (Reg.LNK_SYS, 0x80000080#32), (Reg.LNK_STATUS, 0xA#32), (Reg.LNK_CTRL, 0x10F#32), (Reg.HOST_CTRL, 0#32),
      (Reg.HOST_RR_SEQ 0, 0xFFFFFFFF#32), (Reg.HOST_RR_RD 0, 0#32), (Reg.HOST_RR_CFG 0, 0x02010000#32), (Reg.SEQ_STATUS, 1#32)]
    id (fun b => { b with
      cfg := { b.cfg with units := [(35, ⟨1, 0, 3, 0, 3⟩)] }, pwr := { b.pwr with devid := dev },
      links := f { b.links with
        rrd := true, pans := [(15, ⟨1, 1, 3, 0, 0⟩)], rxSeq := [(4, 1), (7, 1)], route := [(2, 0, 1)] } })).asFound 9

/-- A panicle packet of device 1 at offset `off` with a number for device 0, and so many bytes in the queue of panicle 15. -/
def panP (off : Nat) : Packet := { inP (.panicle 15 off [1#8] true true [1] 2 4 5) with dst := 64, vc := 3 }
def pnqS (n : Nat) : Block := arrPS 0 (fun l => { l with pnq := [(15, n)] })

theorem witness_PacketsActInTheirOrder :
    linkSt (arrPS 0 id) 0 = 2 ∧ (arrPS 0 id).links.nak.find? (fun e => e.1 = 0) = none ∧
    (∀ n ∈ [0, 1, 2], numHere (arrPS 0 id) { inP (.rrdAns 0#32) with nums := [(0, n)] } = some n) ∧
    ((inP (.rrdAns 0#32)).relay = none ∧ (inP (.rrdAns 0#32)).lost = [] ∧ (inP (.rrdAns 0#32)).dst = devOf (arrPS 0 id) ∧
      (inP (.rrdAns 0#32)).dst ≠ 64 ∧ (arrPS 0 id).links.early = [] ∧ (arrPS 0 id).links.voidRx = []) ∧
    awaited (arrPS 0 id) (tripleOf (inP (.rrdAns 0#32))) = 1 ∧ (inP (.rrdAns 0#32)).body = .rrdAns 0#32 ∧ (arrPS 0 id).links.rrd = true ∧
    ({ pk0 with dst := 2 }.dst ≠ devOf (arrPS 0 id) ∧ (arrPS 0 id).links.route.find? (fun e => e.1 = 2) = some (2, 0, 1) ∧
      (arrPS 0 id).links.alt.contains 0 = false) ∧
    ((arrPS 0 (fun l => { l with nak := [(0, panP 63)] })).links.nak.find? (fun e => e.1 = 0) = some (0, panP 63) ∧ pk0 ≠ panP 63) ∧
    linkSt (arrPS 0 id) 3 ≠ 2 ∧
    (∀ o ∈ [63, 64], (panP o).body = .panicle 15 o [1#8] true true [1] 2 4 5 ∧ (panP o).relay = none ∧ (panP o).lost = [] ∧
      (panP o).dst = 64 ∧ numHere (arrPS 0 id) (panP o) = some 1 ∧ awaited (arrPS 0 id) (tripleOf (panP o)) = 1) ∧
    ((arrPS 0 id).links.early = [] ∧ (arrPS 0 id).links.voidRx = [] ∧
      panicleOf (arrPS 0 id) 15 = some ⟨1, 1, 3, 0, 0⟩ ∧ nbit 1 (devOf (arrPS 0 id)) = true ∧
      (pnSt (arrPS 0 id) 15).dropped = false ∧ (15 : Nat) < 16 ∧ [1#8] ≠ ([] : List Byte)) ∧
    pnqOf (drainQueues ⟨[], [(15, 1)]⟩ (pnqS 4096)) 15 + 1 ≤ 4096 ∧ 4096 < pnqOf (drainQueues ⟨[], []⟩ (pnqS 4096)) 15 + 1 ∧
    panicleOf (pnqS 4096) 15 = some ⟨1, 1, 3, 0, 0⟩ ∧ (pnSt (pnqS 4096) 15).dropped = false ∧
    physOf (arrPS 0 id) 0 3 = some 35 ∧ glumeOk (arrPS 0 id) 35 0 63 1 true 1 = true ∧ rangeOn (arrPS 0 id) 35 63 63 = true ∧
    glumeOk (arrPS 0 id) 35 0 64 1 true 1 = false ∧
    outLink (arrPS 0 (fun l => { l with route := [(1, 0, 1)] })) 1 = some (0, false) := by
  decide +kernel

/-- A member with records dropped and so many waiting. -/
def lostS (n : Nat) : State :=
  { mk [] (fun b => { b with pwr := { b.pwr with devid := 63 } }) with pub := { fwdOf n with lost := 5000 } }

theorem witness_RecordsEventsAndNoticesReachTheHead :
    devOf (arrPS 0 id) = 0 ∧ (rg (arrPS 0 id) Reg.SEQ_STATUS).fld 1 0 ≠ 0 ∧ (rg ((mk [(Reg.SEQ_STATUS, 0#32)] up).asFound 9) Reg.SEQ_STATUS).fld 1 0 = 0 ∧
    (0 : Nat) < 16 ∧ ([1#32] : List Word) ≠ [] ∧ (frc (arrPS 0 id) (Reg.HOST_RR_CFG 0)).fld 20 12 = 16 ∧ (rg (arrPS 0 id) (Reg.HOST_RR_SEQ 0)).toNat = 2 ^ 32 - 1 ∧
    (rg (arrPS 0 id) Reg.HOST_CTRL).fld 3 0 = 0 ∧
    2 ^ (frc (arrPS 0 id) (Reg.HOST_RR_CFG 0)).fld 27 24 ≤
      subMod 32 (rg (arrPS 0 id) (Reg.HOST_RR_SEQ 0)).toNat (rg (arrPS 0 id) (Reg.HOST_RR_RD 0)).toNat ∧
    devOf (arrPS 63 id) ≠ 0 ∧ 0 < ((lostS 255).shown 9).lost ∧ ((lostS 255).shown 9).fwdQ.length < 256 ∧
    devOf ((lostS 255).asFound 9) ≠ 0 ∧ 256 ≤ ((lostS 256).shown 9).fwdQ.length ∧ ((lostS 0).shown 9).lost ≠ 0 ∧
    (63 : Nat) < 64 ∧ (arrPS 0 id).once.contains (0xA4, 63) = false ∧ (arrPS 0 id).links.rrd = true := by decide +kernel

/-! ### Signed objects, by a key made for these witnesses -/

/-- A number of 4 096 bits from eight of 512, the highest first. -/
def big (l : List Nat) : Nat := l.foldl (fun a w => a * 2 ^ 512 + w) 0

/-- The modulus, and the signatures of the partial and of the base below. -/
def keyN : Nat :=
  big [0xe1470f8ca5fdd50379ccde6fa3d556585720d8bc662a980e14e18886657262bde12d6ada7a27003010440aaabcf34403a8e0fa69d1f0ba62b1b94d4bb7afe415,
    0x4d088bc8f1228edb5a961b4410b4d4f1a2a978fa576a8f51092305d6e4a1a315176210ed5a99368aec839216373dab9d2732fe1eb8b44bc43de03e9e6e42c8e0,
    0x03282c9bce11b0f5c80315bdb0f94c9666a99abf24036d4de09e1d0a5d9e6bc82195078892f12ff13cd7a50beb34c6318652545fddd014b7ba3e034d844821ed,
    0x2b5570db54e51ef07054a97da7215397fc66984db2bfa2426009db625aea4676d9eb544e5c52f3d8a166921bc96cc54d4bff4eff2ef53e6b2845a668df92471d,
    0x3272c31cf2e47f7afa4435f7e4cda8601f15235b1aaac9bea71698afc3b68e808c0ea9009d8a8c05f8e219cafa6be3431603b79789cfb31a8cd5994f53ed8903,
    0x2b7b4302202c29fca6842e1cd12a3389a058eff406eb7bc295d8cf83d47777679ccf78fe3fa3328a63571dc00cb734c8ac31cc93f6939f4c10b6ebaa24f2b277,
    0x52e390d70f29e893e25e2c213bfb3b76c0c6a53a4ed4e12365fac21cc1ea6b0f2d8831adf08a206ef7990d43f750dce55f0574efe0693fc6fbc5f6a2f288b2c2,
    0xd64fe39192012b8c6ed6202aef589e5b2f9b18bbea04035a329492d3f1de844c2ca6d55153b5e0bbd89420f964dcbbd816439df1779b2dd2e6b894e6dab089b1]
def sigP : Nat :=
  big [0x05616e37938f91af6f86aa274dfa04e2abb888649a2d7a30a5a7cfd5c57f367538005bffbc9eeace0fbd77b29b43f88370009c224c296320f3c17d524befde0f,
    0x176011e731b4ef8a030d61ea0ac50bd6a60e491f3b2a8f5f86950ac095ae8cd7e716a9079123d00314be436848fa5d7901d4b2d6ee6c9838f4e74270cdadf8e5,
    0xa404defeb5a91ef487fc2fe134c938b3ca97987c89f24275ff954adc538fc5f7884b35b66628f208cba6fe31859b8c4c16bb15892d1b383f32ee6f1d2b8a4ddd,
    0x5af6300a410f139d582f2a9668d8b07c534e01d4a9f302c1f13e23043ae35492fb3d4cf90d0a8bc4ff3890d5414bc89d9ac7f2e4efe70b056acd8e095ae768ca,
    0x3bedec86f9d95c1cfb1ebf196402fcb547abae8988b3e7ce3a31a9b13c1d226508fe774d58beb01ce781c21fb8c7474208d391e853b30e63113a23b99c1f995b,
    0x8cc98f28642776949156914c78cd9b80744085eff767c944e94c591792ce4d413b4544bdd46e2075c89488d9b328b8588d73cf28db38ee9cb4cb8fb5b0b64eeb,
    0x3180b0cd3fdb9976c1904ca4d50363142c4e167eab3dbbe42bc36edc849ace6fea2896fed29ebf057ac7ee11ebe2cd1b07aa14123798561c93f3c72467b414bf,
    0x363a26fdba51a52be23dcad95fdf8f43cd303abbcbe5b9a2ed7d4ce545ec9a32a12f338a2cfbb7d74989ebffc7fc3eaf03e94089935bcd92e5b9ca80c3bd5bad]
def sigB : Nat :=
  big [0x85357550e7810db6ffb026d593584f1d7af9f5db3f0217f5143310a71c83d690103ea20068fb0faf67b837546d62be8f0d2e7c823e2249ef899bc49457591245,
    0x69b62a03d93ba6eda3eb7efe6c81232b20c5b10e4145ead93a72c5cbef159a1561ddbff96ff9b08de3902a0fa2ad24ee065803dd104ef789f9ac9b41acc1998c,
    0x79d4a5cc9c42b6e6c6fa62157deddf6292c1b5456ad40e175dcc4bacdfdb37c2aa1412ec6dd16d6ced353bbf0a93e8c2b5ad794f7151717b2e40e158f0654c2e,
    0x394b5f965703048757c34ebc8de7c4ab6baa5df9fd554a19261b84a7d4bb944abdb7a2e2b406ed9a828614669474c84511b4422d65d2f6928b07a5cc12ec125a,
    0x270fdb3b240525ed04f5a2567e98d677e1da9b6fde21ae3256010ed7875b5f37089d67b8e16c635c943e9fb7d874ba778f60e58dca18de5b1a05b452b6fd5f86,
    0x11fff8c556eb45d242c4ea179cfcf3562e17ce8eaf5549672ed7f36796bb766e3610b1eeef7e3e29818b82b231a1cda395ae4412113fd2a4e9c5f8bcd39889fd,
    0x4ef4d151850e14c10005ae3eb66215bca76566201ff8b4d83b76d5b56f16c0019c2698d681529f6fc772af38b822eb59425f261249557ec69de58c89441f505c,
    0x5efafb7fabe1d8ca58a7d78df77f9acfff84cf211e2e907a94fac7c1ebcd5952c41208532c0d54394853e02b674b27e7300dfd2d4ee06bdf7569cd833ab412e2]

/-- An object of 1 280 bytes of KIND `kind` with empty sections of the types `secs`, one 16-byte entry each, at byte 192, signed
with key slot 0. -/
def objOf (kind : Nat) (secs : List Nat) (sig : Nat) : List Byte :=
  wordBytes ([0x564B4253#32, 0x10000#32, wd (kind * 2 ^ 28 + secs.length), 1280#32, 0#32, 9#32] ++ List.replicate 26 0#32 ++
    (secs.flatMap (fun ty => [wd (ty * 2 ^ 24 + 65536), 192#32, 0#32, 0#32]) ++ List.replicate 16 0#32).take 16) ++
  beBytes 512 keyN ++ [0#8, 1#8, 0#8, 1#8] ++ List.replicate 60 0#8 ++ beBytes 512 sig

/-- A partial with a PARAM section, and a base. -/
def objP : List Byte := objOf 1 [6] sigP
def objB : List Byte := objOf 0 [1, 2, 3, 4] sigB

/-- A partition envelope that admits nothing. -/
def env0 : Envelope :=
  ⟨1, (1, 0), (1, 0), (1, 0), (1, 0), (1, 0), (1, 0), 0, 0, 0, 0, 0, 0, 0, 0, 0, 0, 0, 0, 0, 0, 0, (0, 0), (0, 0)⟩

/-- The sections of a partial (a PARAM section alone) and of a base. -/
def conP : Content := con0
def conB : Content :=
  { con0 with
    system := some ⟨1, 1, 0#32, [], [], [], []⟩, envs := [(0, env0)], sched := some ⟨96, 0, (0, 0), Sched.init, [], []⟩,
    sync := some ⟨[], [], []⟩ }

/-- The loader with an object copied to the staging region, its checks to come or passed with the content `k`, key slot 0 enrolled
for it with PERM 3, and partition 0 known. -/
def loadS (o : List Byte) (k : Option Content) : State :=
  mk [(Reg.CFG_STATUS, 0x10000000#32), (Reg.CFG_KEY 0, 0x80000003#32), (Reg.TB_CTRL, 0#32), (Reg.SEQ_CTRL, 0#32),
      (Reg.CFG_PART_STAT 0, 0x40000000#32)]
    (fun b => up { b with
      pwr := { b.pwr with ccy := 9 }
      mems := { b.mems with gddr := wrBytes [] stagingBase o },
      cfg := { b.cfg with loading := some ⟨0, o.length, false, k⟩, keyHash := [(0, sha512 (oKey o))], envs := [(0, env0)] } })

/-- The loader's block as its checks find it. -/
def loadB (o : List Byte) : Block :=
  { (loadS o none).asFound 9 with cfg := { ((loadS o none).asFound 9).cfg with loading := none } }

/-- An object in staging is read back. -/
theorem object_staged (o : List Byte) (k : Option Content) : gdRd ((loadS o k).asFound 9) stagingBase o.length = o := by
  have h : ((loadS o k).asFound 9).mems.gddr = wrBytes [] stagingBase o := by rfl
  rw [gdRd, h, rdBytes_wrBytes]

/-- Both pass checks 1 to 6, their signatures computed. -/
theorem objects_pass : (∀ o ∈ [objP, objB], objectBad (loadB o) o 1280 [0, 1, 2] false = none ∧ o.length = 1280) ∧
    oKind objP = 1 ∧ oKind objB = 0 := by decide +kernel

/-- SHA-512 of `abc`: the first and the last bytes of FIPS 180-4's example, which stands outside the specification. -/
theorem test_sha512_abc : (sha512 [0x61#8, 0x62#8, 0x63#8]).take 4 = [0xdd#8, 0xaf#8, 0x35#8, 0xa1#8] ∧
    (sha512 [0x61#8, 0x62#8, 0x63#8]).drop 60 = [0xa5#8, 0x4c#8, 0xa4#8, 0x9f#8] := by decide +kernel

/-- A READY partial, and nothing READY. -/
def readyS (r : Option ReadyPart) (st : Word) : Block :=
  (mk [(Reg.CFG_STATUS, st)] (fun b => up { b with cfg := { b.cfg with ready := r } })).asFound 9

/-- The same with region 0 off. -/
def attOff (st : Word) : Block := (mk [(Reg.CFG_STATUS, st), (Reg.MEM_PD_STAT, 2#32)] up).asFound 9

theorem witness_ObjectsLoadCommitAndAttest :
    (cfgSt (readyS none 0#32) = 0 ∧ commandsFirst (readyS none 0#32) = readyS none 0#32 ∧ 0 < min 64 (2 ^ 27) ∧
      cfgSt (readyS none 0x10000000#32) ≠ 0 ∧ commandsFirst (readyS none 0x10000000#32) = readyS none 0x10000000#32) ∧
    (((loadS [] none).asFound 9).cfg.loading = some ⟨0, 0, false, none⟩ ∧ ((loadS [] none).asFound 9).mem.poison = [] ∧
      gdRd ((loadS [] none).asFound 9) stagingBase 0 = [] ∧
      objectBad (loadB []) [] 0 [0, 1, 2] false = some (1, 0xFF) ∧ (1 : Nat) < 16 ∧ (0xFF : Nat) < 256) ∧
    (∀ o ∈ [objP, objB], ((loadS o none).asFound 9).cfg.loading = some ⟨0, 1280, false, none⟩ ∧
      ((loadS o none).asFound 9).mem.poison = []) ∧
    streamBad (loadB objP) objP { con0 with bad := some 0 } = some (7, 0) ∧
    streamBad (loadB objP) objP conP = none ∧ streamBad (loadB objB) objB conB = none ∧
    ((loadS objP (some conP)).asFound 9).cfg.loading = some ⟨0, 1280, false, some conP⟩ ∧
    ((loadS objB (some conB)).asFound 9).cfg.loading = some ⟨0, 1280, false, some conB⟩ ∧
    (readyS none 0#32).cfg.loading = none ∧ (readyS none 0#32).cfg.ready = none ∧
    (readyS (some ⟨0, 0#32, con0, []⟩) 0x40000000#32).cfg.ready = some ⟨0, 0#32, con0, []⟩ ∧
    commandsFirst (readyS (some ⟨0, 0#32, con0, []⟩) 0x40000000#32) = readyS (some ⟨0, 0#32, con0, []⟩) 0x40000000#32 ∧
    (cfgSt (readyS none 0x40000000#32) = 4 ∧ cfgSt (readyS none 0x50000000#32) = 5 ∧
      spanRefuses (readyS none 0x50000000#32) (reportAt (readyS none 0x50000000#32)) 1408 = false ∧
      spanRefuses (attOff 0x50000000#32) (reportAt (attOff 0x50000000#32)) 1408 = true ∧ cfgSt (attOff 0x50000000#32) = 5) := by
  decide +kernel

/-- Unit `p` of class `k` in state `st` since cycle 0, mapped as slot `n`, and whatever else, at cycle `c`. -/
def unitS (k p n st : Nat) (f : Block → Block) (c : Nat) : Block :=
  (mk ([(Reg.TLR_ID 35, wd (65536 + 35 * 256 + n)), (Reg.SAFE_STEST_STAT, 0#32)] ++
      (List.range 9).map (fun i => (Reg.PWR_DOM_STATE i, 0#32)))
    (fun b => f (up { b with
      pwr := { b.pwr with ccy := c }, cfg := { b.cfg with units := [(k * 64 + p, ⟨st, 0, n, 0, n⟩)] } }))).asFound c

/-- A fence of tiller 35 on the list, with its task. -/
def fenced35 (b : Block) : Block :=
  { b with cfg := { b.cfg with fences := [(0, 31, 35, 2)], reload := [(35, 2)] }, tlr := [(35, { Tiller.init with task := some task7 })] }

theorem witness_UnitsAreFencedSwappedAndCleared :
    slotOk 0 31 = true ∧ physOf (unitS 0 35 31 1 id 9) 0 31 = some 35 ∧ slotOk 0 32 = false ∧
    anySpare (unitS 0 35 31 1 id 9) 0 = false ∧
    anySpare (unitS 0 35 31 1 (fun b => { b with cfg := { b.cfg with units := [(0, ⟨2, 0, 0x3F, 0, 0⟩)] ++ b.cfg.units } }) 9) 0 = true ∧
    physOf (unitS 0 35 31 3 id 9) 0 31 = none ∧
    (unitS 0 35 31 3 fenced35 19).cfg.fences.find? (fun f => decide (f.1 = 0 ∧ f.2.1 = 31 ∧ f.2.2.2 + 17 = (unitS 0 35 31 3 fenced35 19).pwr.ccy))
      = some (0, 31, 35, 2) ∧ (tl (unitS 0 35 31 3 fenced35 19) 35).task = some task7 ∧
    (unitS 0 35 31 3 fenced35 18).cfg.fences.find? (fun f => decide (f.1 = 0 ∧ f.2.1 = 31 ∧ f.2.2.2 + 17 = (unitS 0 35 31 3 fenced35 18).pwr.ccy))
      = none ∧
    commandsFirst (unitS 0 35 31 1 id 9) = unitS 0 35 31 1 id 9 ∧ commandsFirst (unitS 0 35 31 3 id 9) = unitS 0 35 31 3 id 9 ∧
    commandsFirst (unitS 5 4 3 3 id 9) = unitS 5 4 3 3 id 9 ∧
    (5 : Nat) < 6 ∧ (4 : Nat) < classSize 5 ∧ (unitOf (unitS 5 4 3 3 id 9) 5 4).st = 3 ∧ classSize 5 ≤ 5 ∧
    ((unitOf (unitS 0 35 31 5 id 32768) 0 35).st = 5 ∧ (unitOf (unitS 5 4 3 5 id 9) 5 4).st = 5 ∧
      (unitOf (unitS 0 35 31 5 id 32768) 0 35).since + 32768 ≤ (unitS 0 35 31 5 id 32768).pwr.ccy ∧
      (unitS 0 35 31 5 id 32767).pwr.ccy < (unitOf (unitS 0 35 31 5 id 32767) 0 35).since + 32768) ∧
    (keysRising (unitS 0 35 31 4 id 9).cfg.units = true ∧ (unitOf (unitS 0 35 31 4 id 9) 0 35).st = 4 ∧
      (tl (unitS 0 35 31 4 id 9) 35).task = none ∧ inFlightOn (unitS 0 35 31 4 id 9) 0 35 = [] ∧
      (tl (unitS 0 35 31 4 fenced35 9) 35).task ≠ none ∧
      (unitOf (unitS 5 4 3 4 id 9) 5 4).st = 4 ∧ inFlightOn (unitS 5 4 3 4 id 9) 5 4 = []) ∧
    (unitS 0 35 31 1 fenced35 1026).cfg.reload.any (fun e => decide (e.1 = 35 ∧ e.2 + 1024 ≤ (unitS 0 35 31 1 fenced35 1026).pwr.ccy)) = true ∧
    (unitS 0 35 31 1 fenced35 1025).cfg.reload.any (fun e => decide (e.1 = 35 ∧ e.2 + 1024 ≤ (unitS 0 35 31 1 fenced35 1025).pwr.ccy)) = false ∧
    slotOfT (unitS 0 35 31 1 fenced35 1026) 35 = 31 := by decide +kernel

/-- Chombe in state `st` with requests, conditions, causes. -/
def safeS (st cause : Word) (req cond : List (Nat × Nat)) (core : Bool) (f : Block → Block) : Block :=
  (mk [(Reg.SEQ_STATUS, 1#32), (Reg.SAFE_STATUS, st), (Reg.SAFE_CAUSE, cause), (Reg.TB_STATUS, 2#32), (Reg.HOST_CTRL, 0#32), (Reg.HOST_RR_CFG 0, 0x02002000#32),
      (Reg.SAFE_STEST_STAT, 1#32), (Reg.SEQ_CTRL, 0#32)]
    (fun b => f { b with
      pwr := { b.pwr with core := core, port := true, ccy := 9 }, safe := { b.safe with req := req, cond := cond } })).asFound 9

/-- Chombe has a request latched in this very cycle. -/
def latched (b : Block) : Block := { b with now := { b.now with reqs := [(2, 15)] } }

theorem witness_SafeStateIsEnteredAndLeft :
    (safeS 1#32 0#32 [(2, 15), (3, 1)] [] true id).safe.req = [(2, 15), (3, 1)] ∧
    (∀ q ∈ [(2, 15), (3, 1)], (q = (2, 15) ∨ 2 < q.1) ∧ q.1 < 19) ∧ (15 : Nat) < 4096 ∧
    (∀ q ∈ [(11, 0)], (q = (11, 0) ∨ 11 < q.1) ∧ q.1 < 19) ∧ (∀ q ∈ [(10, 0)], (q = (10, 0) ∨ 10 < q.1) ∧ q.1 < 19) ∧
    safeState (safeS 1#32 0#32 [(2, 15), (3, 1)] [] true id) ≠ 2 ∧ devOf (safeS 1#32 0#32 [(2, 15), (3, 1)] [] true id) = 0 ∧
    2 ≤ (frc (safeS 1#32 0#32 [(2, 15), (3, 1)] [] true id) (Reg.HOST_RR_CFG 0)).fld 20 12 ∧
    (rg (safeS 1#32 0#32 [(2, 15), (3, 1)] [] true id) Reg.SEQ_STATUS).fld 1 0 ≠ 0 ∧
    (safeS 1#32 0#32 [(2, 15), (3, 1)] [] true id).pwr.low = none ∧
    (∀ f ∈ [id, latched], commandsFirst (safeS 2#32 4#32 [] [] true f) = safeS 2#32 4#32 [] [] true f) ∧
    commandsFirst (safeS 2#32 4#32 [] [(17, 0)] true id) = safeS 2#32 4#32 [] [(17, 0)] true id ∧
    commandsFirst (unitS 5 4 0x3F 2 id 9) = unitS 5 4 0x3F 2 id 9 ∧ commandsFirst (unitS 5 4 3 1 id 9) = unitS 5 4 3 1 id 9 ∧
    (safeS 0#32 0#32 [] [] false id).pwr.core = false ∧ safeState (safeS 2#32 0#32 [(2, 15)] [] true id) = 2 ∧
    (safeS 2#32 0#32 [] [] true id).safe.req = [] ∧ Word.bit 0x30002#32 0 = false ∧ Word.bit 0x30001#32 1 = false ∧
    (clearOk (safeS 2#32 4#32 [] [] true id) && decide ((safeS 2#32 4#32 [] [] true id).safe.since ≠ some 9)) = true ∧
    (safeS 2#32 4#32 [] [] true id).now.reqs = [] ∧ (safeS 2#32 4#32 [] [] true latched).now.reqs = [(2, 15)] ∧
    clearOk (safeS 2#32 4#32 [] [] true latched) = true ∧ clearOk (safeS 2#32 4#32 [] [(17, 0)] true id) = false ∧
    clearOk (safeS 2#32 0x400#32 [] [] true id) = false ∧
    (isSpare (unitS 5 4 0x3F 2 id 9) 5 4 = true ∧ (rg (unitS 5 4 0x3F 2 id 9) Reg.SAFE_STEST_STAT).fld 1 0 ≠ 1) ∧
    isSpare (unitS 5 4 3 1 id 9) 5 4 = false ∧ (rg (safeS 2#32 0#32 [] [] true id) Reg.SAFE_STEST_STAT).fld 1 0 = 1 := by
  decide +kernel

/-- The recorder and replayer as their registers say, a ring of 64 KiB at 0 with one record, domain 141 ON or not. -/
def dbgS (rec rpl st dom : Word) (r : List Word) (lost off : Nat) : Block :=
  (mk [(Reg.DBG_REC_CTRL, rec), (Reg.DBG_RPL_CTRL, rpl), (Reg.DBG_RPL_STATUS, st), (Reg.PWR_DOM_STATE 8, dom), (Reg.TB_CTRL, 0#32),
      (Reg.DBG_REC_BASE_HI, 0#32), (Reg.DBG_REC_BASE_LO, 0#32), (Reg.DBG_REC_SIZE, 1#32)]
    (fun b => up { b with
      dbg := { b.dbg with lost := lost, rdOff := off },
      mems := { b.mems with gddr := (((List.range 32).map (· + off)).zip (wordBytes r)).filter (fun c => c.2 ≠ 0#8) } })).asFound 9

/-- A record of type and sub-type for cycle `ccy`, the last of the ring. -/
def lastRec (ty sub ccy : Nat) : Block := dbgS 0#32 1#32 1#32 0#32 [wd (ty * 2 ^ 28 + sub * 2 ^ 24), wd ccy] 0 65504

/-- A HOST record of a word for the last place of the command rings. -/
def hostRec : Block := dbgS 0#32 1#32 1#32 0#32 [0x21000004#32, 9#32, 0#32, 0#32, 0xF0000000#32, 0x1FFFFC#32, 5#32] 0 64

theorem witness_RecordingStartsStopsAndReplays :
    Word.bit 0x80000000#32 31 = true ∧ recOn (dbgS 0#32 0#32 0#32 0#32 [] 0 0) = false ∧
    domSt (dbgS 0#32 0#32 0#32 0#32 [] 0 0) 141 = 0 ∧ domSt (dbgS 0#32 0#32 0#32 0x08000000#32 [] 0 0) 141 ≠ 0 ∧
    recOn (dbgS 0x80000000#32 0#32 0#32 0#32 [] 4096 0) = true ∧ Word.bit 0#32 31 = false ∧
    recBytes (dbgS 0x80000000#32 0#32 0#32 0#32 [] 4096 0) + 32 ≤ 65536 ∧
    0 < (dbgS 0x80000000#32 0#32 0#32 0#32 [] 4096 0).dbg.lost ∧ Word.bit 1#32 0 = true ∧ Word.bit 0#32 0 = false ∧
    ((recWord (dbgS 0#32 0#32 0#32 0#32 [0x60000000#32] 0 0) 0 0).fld 31 28 = 6 ∧
      (recWord (dbgS 0#32 0#32 0#32 0#32 [0x60000000#32] 0 0) 0 0).fld 27 24 = 0 ∧
      (recWord (dbgS 0#32 0#32 0#32 0#32 [0x60000000#32] 0 0) 0 6).bit 0 = false ∧
      (rg (dbgS 0#32 0#32 0#32 0#32 [0x60000000#32] 0 0) Reg.TB_CTRL).bit 0 = false) ∧
    (recWord (dbgS 0#32 0#32 0#32 0#32 [] 0 0) 0 0).fld 31 28 ≠ 6 ∧ (rg (dbgS 0#32 0#32 0#32 0#32 [] 0 0) Reg.DBG_RPL_STATUS).fld 1 0 ≠ 1 ∧
    (∀ ty ∈ [4, 5, 6], ∀ x ∈ [lastRec ty 2 9], x.pwr.fresh = false ∧ (rg x Reg.DBG_RPL_STATUS).fld 1 0 = 1 ∧
      skipPad x (recSize x / 32) x.dbg.rdOff = 65504 ∧ recSize x = 65536 ∧ recLen x 65504 = 32 ∧
      recCcy x 65504 = x.pwr.ccy ∧ (recWord x 65504 0).fld 31 28 = ty ∧ (recWord x 65504 0).fld 27 24 = 2) ∧
    recCcy (lastRec 6 2 8) 65504 < (lastRec 6 2 8).pwr.ccy ∧ (lastRec 6 2 10).pwr.ccy < recCcy (lastRec 6 2 10) 65504 ∧
    (lastRec 6 2 10).pwr.fresh = false ∧ (rg (lastRec 6 2 10) Reg.DBG_RPL_STATUS).fld 1 0 = 1 ∧
    (65504 < recSize (lastRec 6 2 8) ∧ skipPad (lastRec 6 2 8) (recSize (lastRec 6 2 8) / 32) (lastRec 6 2 8).dbg.rdOff = 65504) ∧
    commandsFirst (dbgS 0#32 0#32 0#32 0#32 [] 0 0) = dbgS 0#32 0#32 0#32 0#32 [] 0 0 ∧
    commandsFirst (dbgS 0#32 0#32 0#32 0x08000000#32 [] 0 0) = dbgS 0#32 0#32 0#32 0x08000000#32 [] 0 0 ∧
    commandsFirst (dbgS 0x80000000#32 0#32 0#32 0#32 [] 4096 0) = dbgS 0x80000000#32 0#32 0#32 0#32 [] 4096 0 ∧
    commandsFirst (dbgS 0#32 0#32 0#32 0#32 [0x60000000#32] 0 0) = dbgS 0#32 0#32 0#32 0#32 [0x60000000#32] 0 0 ∧
    commandsFirst hostRec = hostRec ∧ hostRec.pwr.fresh = false ∧ (rg hostRec Reg.DBG_RPL_STATUS).fld 1 0 = 1 ∧
    recSize (dbgS 0#32 1#32 1#32 0#32 [] 0 65536) ≤ skipPad (dbgS 0#32 1#32 1#32 0#32 [] 0 65536) 2048 65536 ∧
    ((recWord hostRec 64 0).fld 31 28 = 2 ∧ (recWord hostRec 64 0).fld 27 24 = 1 ∧ recOn hostRec = false ∧
      skipPad hostRec (recSize hostRec / 32) hostRec.dbg.rdOff = 64 ∧ recCcy hostRec 64 = hostRec.pwr.ccy ∧
      (recWord hostRec 64 4).fld 31 27 = 30 ∧ (recWord hostRec 64 5).toNat = 0x1FFFFC ∧ 0x1FFFFC % 4 = 0) := by decide +kernel

/-- GDDR6 with unit 1 poisoned or sound. -/
def gdS (p : List Nat) : Block := (mk [(Reg.MEM_STATUS, 0#32)] (fun b => up { b with mem := { b.mem with poison := p } })).asFound 9

theorem witness_Gddr6ErrorsAreCounted : (15 : Nat) < 16 ∧ (7 : Nat) < 8 ∧ (rg (gdS []) Reg.MEM_STATUS).bit 3 = false ∧
    (gdS []).mem.poison.contains (64 / 64) = false ∧ (gdS []).once.contains (0xC8, 0) = false ∧
    (gdS [1]).mem.poison.contains (127 / 64) = true := by decide +kernel

/-- Region `r` in state `v`. -/
def regnS (r v : Nat) : Block := (mk [(Reg.MEM_PD_STAT, wd (v * 4 ^ r)), (Reg.MEM_PD_CTRL, 0#32)] up).asFound 9

theorem witness_RegionsPowerDownAndPagesAreForgotten : (∀ r ∈ [0, 14], r < 15 ∧ regionDrained (regnS r 1) r = true ∧
    (∀ v ∈ [0, 1, 2, 3], regionSt (regnS r v) r = v)) ∧ commandsFirst (regnS 14 0) = regnS 14 0 ∧
    commandsFirst (regnS 14 1) = regnS 14 1 ∧ commandsFirst (regnS 14 2) = regnS 14 2 := by decide +kernel

/-! ## Well-formedness: each check refuses a command that breaks it -/

/-- With every operand in its range each of the 196 commands is well formed. -/
theorem test_wellformed_accepts :
    ((  (([.porst 0, .supplyReset 0 ⟨0, 0⟩, .warmReset 0 ⟨0#32, 0⟩, .debugReset ⟨0, 0⟩, .alignmentPulse 0, .pllLockLoss 0 0,
    .bootDone 0 [] [] con0 (.ended none), .dipStart 0, .dipEnd 0, .suspectIntervalEnd 0, .brownoutTmax 0, .vcoreMeasure 0 0,
    .clkFreqMeasure 0 0 0, .encoderCount ⟨0, 0, 0⟩ false false, .zEdge ⟨⟨0, 0, 0⟩, ⟨0, 0⟩⟩ false false, .ltrigEdge ⟨0, ⟨0, 0⟩⟩, .stop 0,
    .encLoss 0 0, .tbEnable 0 0#32, .tbDisable 0 0#32, .tbDirChange 0 0#32, .tbSrcChange 0 0#32, .lineTick 0,
    .triggerFire 0 0, .slotOpen 0 0, .slotClose 0 0 0, .stageHung 0 0 0, .stageComplete 0 0 0 [],
    .stereoPhaseADone 0 0 0 [], .laneStatsDone 0 0, .commandScan 0, .cmdNop 0, .cmdWrite32 0, .cmdSignal 0,
    .cmdMark 0, .cmdGoldenReq 0, .seqEnable 0 0#32, .seqHalt 0 0#32, .dupMismatch 0, .tblEccError 0 0 false,
    .ingDup 0 0, .lineStart 0 0 cs0, .lineEnd 0 ⟨0, cs0⟩, .windowOpen 0 0, .startDeadline 0 0, .endDeadline 0 0,
    .fvalFall 0 0, .cpClkLoss 0 0, .cpClkBack 0 0, .headWriteDone 0 0, .headNack 0 0, .feTblDataWrite 0 0 0#32,
    .feTblDataRead 0 0, .wpMeshDataWrite 0 0#32, .wpMeshDataRead 0, .ftPatDataRead 0, .grnFlagDataRead 0,
    .syncVtDataRead 0, .tslot 0 0 0 0, .tpull 0 0 0 ⟨0, []⟩] : List Instr)) ++
  (([.taskGrant 0, .tdone 0 0 0, .taskComplete 0 0, .tabort 0 0 0, .mma 0 0 0 ⟨0, []⟩, .arrayOpComplete 0 ⟨0, []⟩,
    .mwait 0 0 0, .vectorBundle 0 0 0 ⟨[], []⟩, .coreLoadStore 0 0 0 (.load 4 false 0 0 0) [], .trw 0 0 0 0 0 false,
    .trr 0 0 0 0 0, .hdrmrg 0 0 0 0 0 ⟨0, []⟩, .wchain 0 0 0 ⟨0, []⟩, .wchainComplete 0 0, .patch 0 0 0 ⟨0, []⟩,
    .ssig 0 0 0 0 0 0, .scons 0 0 0 0 0 0, .swait 0 0 0 0 0 0 0, .sbar 0 0 0 0 0, .sread 0 0 0 0 0 0,
    .waitRelease 0 0, .ftest 0 0 0 0 0, .fwait 0 0 0 0, .fclr 0 0 0 0, .fset 0 0 0 0, .sarm 0 0 0 0 ⟨0, []⟩ 0,
    .srearm 0 0 0 0 ⟨0, []⟩ 0, .squery 0 0 0 0 0, .sresume 0 0 0 0 0, .sdisarm 0 0 0 0, .mfill 0 0 0 0 0 0,
    .mcopy 0 0 0 0 0 0, .fillCopyComplete 0 ⟨0, []⟩, .dmaStart 0 0 0, .arbGrant 0 [] 0, .dmaUnitDone 0 0 0 ⟨[], [], gone0⟩ [],
    .dmaComplete 0 0 0, .dmaResumeWrite 0 0 0#32, .scrubWrite 0 0 0, .cacheResize 0 0, .cacheResizeDone 0 0,
    .glumeRequest 0 ⟨pk0, []⟩, .syncCellApply 0, .syncCellLoad 0, .contextReset 0 0, .syncEccError 0 0,
    .dspClrWait 0 0, .dspClrHwm 0 0, .hostRead 0 ⟨0, false⟩, .hostWrite 0 ⟨0, false⟩ 0#32, .hostMaskedWrite 0 0 0#32 0,
    .modeRegisterWrite 0 0 0 0, .modeRegisterRead 0 0 0, .hostRefresh 0 0, .selfRefreshEntry 0 0,
    .selfRefreshExit 0 0, .powerDownEntry 0 0, .powerDownExit 0 0, .zqCalibration 0 0, .commandBusTraining 0 0] : List Instr)) ++
  (([.wck2ckLevelling 0 0, .readDqCalibration 0 0, .writeFifo 0 0 [], .hostResetN 0, .mirrorUpdate 0 0,
    .crTailWrite 0 0 0#32, .syncApertureWrite 0 0 0#32, .broadcastWrite 0 0 0#32, .deviceWindowWrite 0 0 0#32,
    .remoteRead 0 0#32, .remoteReadDone 0 false 0#32, .frameMap 0 0, .frameMapZero 0 0, .frameFlush 0 0,
    .frameUnmap 0 0, .frameOpDone 0 0 [], .linkUp 0 0 0 0#32, .linkDown 0 ⟨0, 0⟩, .linkRetrain 0 0#32,
    .linkPacketArrival 0 ⟨0, 0⟩ false ⟨pk0, gone0, []⟩, .linkRetry 0 0 0 0, .unreachNotice 0 0 0,
    .resultRecordArrival 0 0 (w8), .eventForwardArrival 0 (w8.take 4), .evtLostForward 0,
    .safeRecordArrival 0 (w8), .paniclePacket 0 ⟨pk0, []⟩ gone0, .cfgLoad 0, .loadDone 0 con0 [] (.ended none), .cfgCommit 0,
    .cfgCommitNext 0, .cfgAbandon 0, .cfgAttest 0, .attestDone 0, .firmwareReloadDone 0 0, .unitFence 0 0 0,
    .fenceFlush 0 0 0, .unitSwap 0 0 0, .unitReadmit 0 0 0, .clearDone 0 0 0, .safeDetect 0, .safeForce 0 0#32,
    .safeClear 0 0#32, .chombeMismatch 0, .coreClkLoss 0, .selfTestGo 0 0 0, .selfTestDone 0 false,
    .recStart 0 0#32, .recStop 0 0#32, .recLostWrite 0, .replayStart 0 0#32, .replayRecordApply 0 false,
    .gddr6Refresh 0 0 [], .memHot 0 0, .memCool 0, .memReadDone 0 0 .clean, .memWriteEdc 0 0 false false,
    .memCeWriteback 0 0, .regionOffRequest 0 0, .regionOff 0 0] : List Instr)) ++
  (([.regionOnRequest 0 0, .regionFillDone 0 0, .ptInvalidate 0 0#32, .ptInvalidateDone 0, .domainOffRequest 0 0,
    .domainOff 0 0, .domainWakeRequest 0 0, .domainOn 0 0, .bankGroupOffRequest 0 0 0, .bankGroupOff 0 0 0,
    .bankGroupWakeRequest 0 0 0, .bankGroupOn 0 0 0, .registerWrite 0 0 0#32, .porstNRise 0 0, .hostPortReady 0,
    .validTransfer 0 0 cs0] : List Instr))).all Instr.wellFormed) = true := by decide

/-- Each check of `Instr.wellFormed` refuses a command whose one operand is just past its range. -/
theorem test_wellformed_refuses :
    ((  (([.supplyReset 0 ⟨8, 0⟩, .supplyReset 0 ⟨0, 64⟩, .warmReset 0 ⟨0#32, 64⟩, .debugReset ⟨0, 64⟩,
    .bootDone 0 [] [] con0 (.stage 0 false), .bootDone 0 [] [] con0 (.stage 6 false), .loadDone 0 con0 [(2 ^ 34, .clean)] .verify, .pllLockLoss 0 7, .vcoreMeasure 0 4096, .clkFreqMeasure 0 10 0, .clkFreqMeasure 0 0 65536,
    .encLoss 0 3, .triggerFire 0 8, .slotOpen 0 4096, .slotClose 0 4096 0, .slotClose 0 0 (2 ^ 44),
    .stageHung 0 4096 0, .stageHung 0 0 (2 ^ 44), .stageComplete 0 4096 0 [], .stageComplete 0 0 (2 ^ 44) [],
    .stageComplete 0 0 0 [(2 ^ 26, .clean)], .stereoPhaseADone 0 4096 0 [], .stereoPhaseADone 0 0 (2 ^ 44) [],
    .stereoPhaseADone 0 0 0 [(2 ^ 26, .clean)], .laneStatsDone 0 8, .tblEccError 0 2 false, .lineStart 0 8 cs0,
    .lineEnd 0 ⟨8, cs0⟩, .windowOpen 0 8, .startDeadline 0 8, .endDeadline 0 8, .fvalFall 0 8, .cpClkLoss 0 8,
    .cpClkBack 0 8, .headWriteDone 0 8, .headNack 0 8, .feTblDataWrite 0 8 0#32, .feTblDataRead 0 8,
    .tslot 0 36 0 0, .tslot 0 0 (2 ^ 16) 0, .tslot 0 0 0 32, .tpull 0 36 0 ⟨0, []⟩, .tpull 0 0 (2 ^ 16) ⟨0, []⟩,
    .tpull 0 0 0 ⟨32, []⟩, .tpull 0 0 0 ⟨0, [(2 ^ 21, .clean)]⟩, .tdone 0 36 0, .tdone 0 0 (2 ^ 16), .taskComplete 0 36,
    .tabort 0 36 0, .tabort 0 0 (2 ^ 16), .mma 0 36 0 ⟨0, []⟩, .mma 0 0 (2 ^ 16) ⟨0, []⟩, .mma 0 0 0 ⟨32, []⟩,
    .mma 0 0 0 ⟨0, [(2 ^ 21, .clean)]⟩, .arrayOpComplete 0 ⟨36, []⟩, .arrayOpComplete 0 ⟨0, [(2 ^ 21, .clean)]⟩,
    .mwait 0 36 0, .mwait 0 0 (2 ^ 16), .vectorBundle 0 36 0 ⟨[], []⟩, .vectorBundle 0 0 (2 ^ 16) ⟨[], []⟩,
    .vectorBundle 0 0 0 ⟨[], [(2 ^ 21, .clean)]⟩, .coreLoadStore 0 36 0 (.load 4 false 0 0 0) [],
    .coreLoadStore 0 0 (2 ^ 16) (.load 4 false 0 0 0) [],
    .coreLoadStore 0 0 0 (.load 4 false 0 0 0) [(2 ^ 34, .clean)], .trw 0 36 0 0 0 false,
    .trw 0 0 (2 ^ 16) 0 0 false] : List Instr)) ++
  (([.trw 0 0 0 32 0 false, .trw 0 0 0 0 3 false, .trr 0 36 0 0 0, .trr 0 0 (2 ^ 16) 0 0, .trr 0 0 0 32 0,
    .trr 0 0 0 0 3, .hdrmrg 0 36 0 0 0 ⟨0, []⟩, .hdrmrg 0 0 (2 ^ 16) 0 0 ⟨0, []⟩, .hdrmrg 0 0 0 32 0 ⟨0, []⟩,
    .hdrmrg 0 0 0 0 32 ⟨0, []⟩, .hdrmrg 0 0 0 0 0 ⟨32, []⟩, .hdrmrg 0 0 0 0 0 ⟨0, [(2 ^ 21, .clean)]⟩, .wchain 0 36 0 ⟨0, []⟩,
    .wchain 0 0 (2 ^ 16) ⟨0, []⟩, .wchain 0 0 0 ⟨32, []⟩, .wchain 0 0 0 ⟨0, [(2 ^ 21, .clean)]⟩, .wchainComplete 0 36,
    .patch 0 36 0 ⟨0, []⟩, .patch 0 0 (2 ^ 16) ⟨0, []⟩, .patch 0 0 0 ⟨32, []⟩, .patch 0 0 0 ⟨0, [(2 ^ 21, .clean)]⟩,
    .ssig 0 36 0 0 0 0, .ssig 0 0 (2 ^ 16) 0 0 0, .ssig 0 0 0 32 0 0, .ssig 0 0 0 0 32 0, .ssig 0 0 0 0 0 32,
    .scons 0 36 0 0 0 0, .scons 0 0 (2 ^ 16) 0 0 0, .scons 0 0 0 32 0 0, .scons 0 0 0 0 32 0, .scons 0 0 0 0 0 32,
    .swait 0 36 0 0 0 0 0, .swait 0 0 (2 ^ 16) 0 0 0 0, .swait 0 0 0 32 0 0 0, .swait 0 0 0 0 32 0 0,
    .swait 0 0 0 0 0 32 0, .swait 0 0 0 0 0 0 4, .sbar 0 36 0 0 0, .sbar 0 0 (2 ^ 16) 0 0, .sbar 0 0 0 32 0,
    .sbar 0 0 0 0 32, .sread 0 36 0 0 0 0, .sread 0 0 (2 ^ 16) 0 0 0, .sread 0 0 0 32 0 0, .sread 0 0 0 0 32 0,
    .sread 0 0 0 0 0 4, .waitRelease 0 36, .ftest 0 36 0 0 0, .ftest 0 0 (2 ^ 16) 0 0, .ftest 0 0 0 32 0,
    .ftest 0 0 0 0 32, .fwait 0 36 0 0, .fwait 0 0 (2 ^ 16) 0, .fwait 0 0 0 32, .fclr 0 36 0 0,
    .fclr 0 0 (2 ^ 16) 0, .fclr 0 0 0 32, .fset 0 36 0 0, .fset 0 0 (2 ^ 16) 0, .fset 0 0 0 32] : List Instr)) ++
  (([.sarm 0 36 0 0 ⟨0, []⟩ 0, .sarm 0 0 (2 ^ 16) 0 ⟨0, []⟩ 0, .sarm 0 0 0 32 ⟨0, []⟩ 0, .sarm 0 0 0 0 ⟨32, []⟩ 0,
    .sarm 0 0 0 0 ⟨0, []⟩ 64, .sarm 0 0 0 0 ⟨0, [(2 ^ 21, .clean)]⟩ 0, .srearm 0 36 0 0 ⟨0, []⟩ 0,
    .srearm 0 0 (2 ^ 16) 0 ⟨0, []⟩ 0, .srearm 0 0 0 32 ⟨0, []⟩ 0, .srearm 0 0 0 0 ⟨32, []⟩ 0, .srearm 0 0 0 0 ⟨0, []⟩ 64,
    .srearm 0 0 0 0 ⟨0, [(2 ^ 21, .clean)]⟩ 0, .squery 0 36 0 0 0, .squery 0 0 (2 ^ 16) 0 0, .squery 0 0 0 32 0,
    .squery 0 0 0 0 64, .sresume 0 36 0 0 0, .sresume 0 0 (2 ^ 16) 0 0, .sresume 0 0 0 16 0, .sdisarm 0 36 0 0,
    .sdisarm 0 0 (2 ^ 16) 0, .sdisarm 0 0 0 64, .mfill 0 36 0 0 0 0, .mfill 0 0 (2 ^ 16) 0 0 0,
    .mfill 0 0 0 32 0 0, .mfill 0 0 0 0 32 0, .mfill 0 0 0 0 0 32, .mcopy 0 36 0 0 0 0, .mcopy 0 0 (2 ^ 16) 0 0 0,
    .mcopy 0 0 0 32 0 0, .mcopy 0 0 0 0 32 0, .mcopy 0 0 0 0 0 32, .fillCopyComplete 0 ⟨36, []⟩,
    .fillCopyComplete 0 ⟨0, [(2 ^ 21, .clean)]⟩, .dmaStart 0 36 0, .dmaStart 0 0 64, .arbGrant 0 [] 81,
    .dmaUnitDone 0 36 0 ⟨[], [], gone0⟩ [], .dmaUnitDone 0 0 64 ⟨[], [], gone0⟩ [], .dmaUnitDone 0 0 0 ⟨[(2 ^ 21, .clean)], [], gone0⟩ [],
    .dmaUnitDone 0 0 0 ⟨[], [(2 ^ 34, .clean)], gone0⟩ [], .dmaUnitDone 0 0 0 ⟨[], [], ⟨[(4, 1)], []⟩⟩ [], .dmaComplete 0 36 0, .dmaComplete 0 0 64,
    .dmaResumeWrite 0 36 0#32, .scrubWrite 0 37 0, .scrubWrite 0 0 (2 ^ 26), .cacheResize 0 36,
    .cacheResizeDone 0 36, .glumeRequest 0 ⟨pk0, [(2 ^ 21, .clean)]⟩, .contextReset 0 16, .syncEccError 0 4096,
    .dspClrWait 0 64, .dspClrHwm 0 64, .hostRead 0 ⟨2 ^ 33, false⟩, .hostWrite 0 ⟨2 ^ 33, false⟩ 0#32,
    .hostMaskedWrite 0 (2 ^ 33) 0#32 0, .hostMaskedWrite 0 0 0#32 16, .modeRegisterWrite 0 2 0 0,
    .modeRegisterWrite 0 0 64 0, .modeRegisterWrite 0 0 0 256] : List Instr)) ++
  (([.modeRegisterRead 0 2 0, .modeRegisterRead 0 0 64, .hostRefresh 0 2, .selfRefreshEntry 0 2,
    .selfRefreshExit 0 2, .powerDownEntry 0 2, .powerDownExit 0 2, .zqCalibration 0 2, .commandBusTraining 0 2,
    .wck2ckLevelling 0 2, .readDqCalibration 0 2, .writeFifo 0 2 [], .mirrorUpdate 0 (2 ^ 20),
    .crTailWrite 0 16 0#32, .syncApertureWrite 0 (2 ^ 33) 0#32, .broadcastWrite 0 (2 ^ 33) 0#32,
    .deviceWindowWrite 0 (2 ^ 33) 0#32, .frameMap 0 64, .frameMapZero 0 64, .frameFlush 0 64, .frameUnmap 0 64,
    .frameOpDone 0 64 [], .linkUp 0 4 0 0#32, .linkUp 0 0 64 0#32, .linkDown 0 ⟨4, 0⟩,
    .linkPacketArrival 0 ⟨4, 0⟩ false ⟨pk0, gone0, []⟩, .linkPacketArrival 0 ⟨0, 0⟩ false ⟨pk0, gone0, [(2 ^ 21, .clean)]⟩,
    .linkRetry 0 4 0 0, .unreachNotice 0 64 0, .resultRecordArrival 0 16 (w8),
    .paniclePacket 0 ⟨pk0, [(2 ^ 21, .clean)]⟩ gone0, .firmwareReloadDone 0 36, .unitFence 0 6 0, .unitFence 0 0 64,
    .fenceFlush 0 6 0, .fenceFlush 0 0 64, .unitSwap 0 6 0, .unitSwap 0 0 64, .unitReadmit 0 6 0,
    .unitReadmit 0 0 36, .clearDone 0 6 0, .clearDone 0 0 36, .selfTestGo 0 6 0, .selfTestGo 0 0 36,
    .gddr6Refresh 0 16 [], .memHot 0 8, .memReadDone 0 (2 ^ 34) .clean, .memWriteEdc 0 (2 ^ 34) false false,
    .memCeWriteback 0 (2 ^ 34), .regionOffRequest 0 15, .regionOff 0 15, .regionOnRequest 0 15,
    .regionFillDone 0 15, .domainOffRequest 0 142, .domainOff 0 142, .domainWakeRequest 0 142, .domainOn 0 142,
    .bankGroupOffRequest 0 36 0, .bankGroupOffRequest 0 0 4, .bankGroupOff 0 36 0] : List Instr)) ++
  (([.bankGroupOff 0 0 4, .bankGroupWakeRequest 0 36 0, .bankGroupWakeRequest 0 0 4, .bankGroupOn 0 36 0,
    .bankGroupOn 0 0 4, .registerWrite 0 (2 ^ 20) 0#32, .porstNRise 0 64, .validTransfer 0 8 cs0, .ingDup 0 1,
    .ingDup 0 0xF, .ingDup 0 0x18, .ingDup 0 0x1F, .ingDup 0 0x28,
    .vectorBundle 0 0 0 ⟨(List.replicate 5 (.mask 0)), []⟩, .vectorBundle 0 0 0 ⟨[.mask 32], []⟩,
    .coreLoadStore 0 0 0 (.load 3 false 0 0 0) [], .frameOpDone 0 0 [(2 ^ 34, .clean)], .resultRecordArrival 0 0 (w8.take 7),
    .safeRecordArrival 0 (w8.take 7), .eventForwardArrival 0 w8, .paniclePacket 0 ⟨pk0, []⟩ ⟨[], [(16, 1)]⟩,
    .linkPacketArrival 0 ⟨0, 0⟩ false ⟨pk0, ⟨[(4, 1)], []⟩, []⟩, .dmaUnitDone 0 0 0 ⟨[], [], gone0⟩ (List.replicate 65 0#8),
    .unitReadmit 0 5 5, .unitReadmit 0 1 9, .clearDone 0 5 5, .clearDone 0 1 9, .selfTestGo 0 5 5,
    .selfTestGo 0 1 9] : List Instr))).any Instr.wellFormed) = false := by decide +kernel

/-- Each check on an instruction of a bundle and on a load or store refuses a register or size out of range. -/
theorem test_wellformed_refuses_parts :
    ((([.fp .add 32 0 0, .fp .add 0 32 0, .fp .add 0 0 32, .fma 32 0 0 0, .fma 0 32 0 0, .fma 0 0 32 0, .fma 0 0 0 32,
    .abs 32 0, .abs 0 32, .neg 32 0, .neg 0 32, .int .add false 32 0 0, .int .add false 0 32 0,
    .int .add false 0 0 32, .cmp .eq 32 0 0, .cmp .eq 0 32 0, .cmp .eq 0 0 32, .sel 32 0 0 0, .sel 0 32 0 0,
    .sel 0 0 32 0, .sel 0 0 0 32, .cvt 16 0 0 0, .cvt 0 16 0 0, .cvt 0 0 32 0, .cvt 0 0 0 32, .red .sum 32 0,
    .red .sum 0 32, .sfu .exp 32 0, .sfu .exp 0 32, .ld 32 0, .ld 0 32, .st 32 0, .st 0 32, .acc 32 0, .acc 0 32,
    .mask 32] : List VInsn)).any VInsn.ok) = false ∧ ((([.load 3 false 0 0 0, .load 4 false 32 0 0, .load 4 false 0 32 0, .store 0 0 0 0, .store 4 32 0 0,
    .store 4 0 32 0] : List MemOp)).any MemOp.ok) = false := by decide
/-! ## The specification's own worked examples -/

/-- spec/10, R236: pixels 0x123 and 0xABC are the bytes 0x23, 0xC1, 0xAB; a line of 3 440 pixels is 5 160 bytes. -/
theorem test_u12_packing : packU12 [0x123, 0xABC] = [0x23#8, 0xC1#8, 0xAB#8] ∧ rowBytes 1 3440 = 5160 ∧ rowBytes 1 3072 = 4608 := by decide

/-- spec/10, R242: 300.7, 304 and 500 as FP8-E4M3. -/
theorem test_e4m3 : [0x4396599A#32, 0x43980000#32, 0x43FA0000#32].map (fun w => fltEncode fmtE4M3 true (f32 w)) = [0x79, 0x7A, 0x7E] := by decide

/-- spec/10, R243: a block whose largest magnitude is 5.3, with −0.71 and 0.03. -/
theorem test_bs8 : bs8Block ([0x40A9999A#32, 0xBF35C28F#32, 0x3CF5C28F#32].map f32) ([0x40A9999A#32, 0xBF35C28F#32, 0x3CF5C28F#32].map f32) =
    (123, [85, 256 - 11, 0]) := by decide

/-- spec/10, R246: 5 000 × 2^−11 + 1 + 3 = 6.441 406 25. -/
theorem test_bs8_tile : toF32 (sumF [ofInt false 5000 (-11), ofInt false 1 0, f32 0x40400000#32]) = 0x40CE2000#32 := by decide

/-- spec/09, R209: the integer epilogue of 51 230 gives 107. -/
theorem test_epilogue : epilogue (arrDesc [0x00014000#32, 0#32, 0#32, wd (22 * 2 ^ 26)]) 0#32 127#32 (wd (2 ^ 32 - 1200)) 9000#32 51230#32 = 107 := by
  decide

/-- The warp set and the two meshes of the example of spec/05. -/
def warpEx : WarpP := ⟨7, 10, 0, 4, 1, 0, 0, 3440, 3440, 0, 0, 0, 0⟩

/-- spec/05: one rectified pixel, 1 274. -/
theorem test_warp_pixel : warpDisp warpEx (fun g h => ((320 + 64 * (g - 7) + 16 * h : Nat) : Int)) 1000 300 = 377 ∧
    warpPix warpEx (fun g h => ((320 + 64 * (g - 7) + 16 * h : Nat) : Int)) (fun _ _ => -32)
      (fun r c => if r = -1 then (if c = 1005 then 1200 else 1264) else if c = 1005 then 1220 else 1300) 300 1000 = (1274, false) := by
  decide

/-- spec/06: a candidate with response 40 000 and a rival of 31 000 has confidence 57. -/
theorem test_tuft_conf : tuftCand ⟨0, true, 0, 4, 1, 3440, 0, 0, 0, 1, 0, 0, 0, 0⟩ 860 (fun d x => if d = 2 ∧ x = 100 then 40000 else if d = 3 ∧ x = 101 then 31000 else 0) 2 100 =
    some (40000, 57) := by decide

/-- spec/07: offsets 3 and −3, codes 0x59 and 0x64, heights 15 and 33. -/
theorem test_stereo_column : minOff 220 180 200 = 3 ∧ gradeCode 180 260 = 0x59 ∧ minOff 30 22 38 = -3 ∧ gradeCode 22 34 = 0x64 ∧
    stereoHeight { stereoSetOf (fun _ => 0#32) 0 with dref := 2560, hk := 163840 } 2566 0x59 = 15 ∧
    stereoHeight { stereoSetOf (fun _ => 0#32) 0 with dref := 2560, hk := 163840 } 2573 0x64 = 33 := by decide

/-- spec/08: D_FLOW 16 450 and X_FLOW −10. -/
theorem test_flow_summary : flowSummary { flowSetOf (fun _ => 0#32) 0 with g := 320, minVec := 512 } ⟨5, 2900, 14788840, -8700⟩ = (16450, -10, false) := by decide

/-- spec/11, R252: array-class address 0x3A48 lies in bank 5, row 3, word 41. -/
theorem test_spad_bank : spLoc 0x3A48 = 5 * 2 ^ 24 + 3 * 2 ^ 16 + 41 := by decide

/-- A write of 1-byte elements with counts and strides in dimensions 0 to 2. -/
def aliasD (c0 s0 c1 s1 c2 s2 : Nat) : List Word :=
  [0x13810000#32, 0#32, 0#32, 0#32, 0#32, 0#32, wd s0, wd (c0 - 1), wd s1, wd (c1 - 1), wd s2, wd (c2 - 1)]

/-- spec/12, R287: a plane stride of 2 048 aliases, one of 4 096 does not; strides 3 and 4 of counts 3 and 2 fail too. -/
theorem test_alias : descAliasBad (aliasD 64 1 32 128 4 2048) = true ∧ descAliasBad (aliasD 64 1 32 128 4 4096) = false ∧
    descAliasBad (aliasD 3 3 2 4 1 0) = true := by decide

/-- A read request of channel `ch` of one engine, its first unit due at `dl`. -/
def readReq (ch : Nat) (dl : Option Nat) : ArbReq := ⟨.read, 0, ch, 0, dl, 0, some (0, ch), false⟩

/-- spec/12: the earliest-deadline order of the example in cycles 0, 8, 12 and 16; the classes of the wheel 0x8410_8410. -/
theorem test_arbitration : edfPick 0 32 [readReq 0 (some 40), readReq 1 (some 40), readReq 2 none] = some (readReq 2 none) ∧
    edfPick 8 32 [readReq 0 (some 40), readReq 1 (some 40), readReq 2 none] = some (readReq 0 (some 40)) ∧
    edfPick 12 32 [readReq 0 (some 48), readReq 1 (some 40), readReq 2 none] = some (readReq 1 (some 40)) ∧
    (upFrom 0 16).map (fun i => Word.fld 0x84108410#32 (2 * i + 1) (2 * i)) = [0, 0, 1, 0, 0, 1, 0, 2, 0, 0, 1, 0, 0, 1, 0, 2] := by decide

/-- spec/19: LEFT 8 000 agrees with 8 020 and not with 8 100 at TOL 32. -/
theorem test_winnow : winAgree 0 32 [0x80001F40#32, 0#32] [0x80001F54#32, 0#32] = true ∧ winAgree 0 32 [0x80001F40#32, 0#32] [0x80001FA4#32, 0#32] = false := by
  decide

/-- spec/21, R480: 0x0_0008_1E40 lies in controller 6, channel 1, bank group 0, bank 0, row 1, unit 1. -/
theorem test_gddr_place : gdLoc 0x81E40 = 6 * 2 ^ 28 + 2 ^ 27 + 32 + 1 := by decide

/-- spec/20, R470: CRC-32 of IEEE 802.3; its published check value over the ASCII digits 1 to 9. -/
theorem test_crc32 : crc32 [0x31#8, 0x32#8, 0x33#8, 0x34#8, 0x35#8, 0x36#8, 0x37#8, 0x38#8, 0x39#8] = 0xCBF43926#32 := by decide +kernel

/-- spec/16, R359: the window offset of channel 1, row 2, bank 3, column 5, byte 1. -/
theorem test_window_offset : portOffset 1 2 3 5 1 = 0x10001180B := by decide

/-- The encoder of spec/01's example, SRC encoder, enabled, the position after `n` forward counts. -/
def rollPos (n : Nat) : Nat :=
  ((upFrom 0 n).foldl (fun b _ => movePos b true)
    ((mk [(Reg.TB_SCALE, 0x030D4000#32), (Reg.TB_CTRL, 1#32), (Reg.TB_STATUS, 1#32), (Reg.TB_POS_LO, 0#32), (Reg.TB_POS_HI, 0#32)] up).blk)).tb.pos

/-- spec/01: a line takes 5.242 88 counts of 3.051 757 812 5 sixteenths. -/
theorem test_scale : rollPos 5 = 15 ∧ rollPos 6 = 18 := by decide +kernel

/-! ## One step of a command each, with what the rule named says -/

/-- R205: TSLOT writes the logical slot. -/
theorem test_tslot : xReg (tl (after (.tslot 9 35 60 7) (tlS 3 [] [] id id)) 35) 7 = 3#32 := by decide +kernel

/-- R21: with DIR = 0, A rising while B is low is a forward count, B rising while A is low a reverse one; TB_SCALE is one
sixteenth. -/
theorem test_encoder_sense :
    (encSample true false false (mk [(Reg.TB_SCALE, 0x01000000#32), (Reg.TB_CTRL, 1#32), (Reg.TB_STATUS, 2#32)] up).blk).tb.pos = 1 ∧
    (encSample false true false (mk [(Reg.TB_SCALE, 0x01000000#32), (Reg.TB_CTRL, 1#32), (Reg.TB_STATUS, 2#32)] up).blk).tb.pos = 2 ^ 48 - 1 := by
  decide +kernel

/-- R309, R321: a signal of 1 to a counter at 2^48 − 1 is applied as its cycle ends, and wraps to 0. -/
theorem test_signal_wraps :
    (cell (applyOps (sendOp (syncS 0x80140FFF#32 ctr2 id) 0 0 0 4095 (.signal 1))) 4095).val = 0 := by
  decide +kernel

/-- R315: the second arrival of two at a barrier advances VAL, clears AUX and does not block. -/
theorem test_sbar_completes :
    (cell (applyOps (sbar 35 60 9 6 (syncS 0x80100FFF#32 ⟨.barrier, .live, 2, false, false, 2, 0, 1⟩ id))) 4095) =
      ⟨.barrier, .live, 2, false, false, 2, 1, 0⟩ := by decide +kernel

/-- R277: FSET sets the flag that the register names, modulo 16 384. -/
theorem test_fset :
    flag (fset 35 60 6 (tlS 3 [] [] (fun x => { x with task := some task7, x := [(6, 0x4005#32)] }) id).blk) 5 = true := by decide +kernel

/-- R281: SARM of a slot in flight answers 1. -/
theorem test_sarm_in_flight : xReg (tl (sarm 35 60 9 5 63 [] (strmS dIn (slot63 .active dIn 0 []) id)) 35) 9 = 1#32 := by decide +kernel

/-- R263: MFILL of 64 bytes from 0 waits in the engine with its scoreboard entry. -/
theorem test_mfill :
    (tl (mfill 35 60 5 6 7 (tlS 3 [] [] (fun x => { x with x := [(6, 64#32), (7, 0xA5#32)] }) id).blk) 35).fc = some ⟨0, 64, none, 0xA5#32⟩ := by
  decide +kernel

/-- Logical slots 8 and 9 pull from lists 4 and 5, which hold a task of stage 60 of PRIO 1 and one of stage 61 of PRIO 2. -/
def pullsS : State :=
  mk ([(Reg.TLR_ID 8, 0x10808#32), (Reg.TLR_ID 9, 0x10909#32)] ++
      [Reg.DSP_RL_CNT_GRANT 5, Reg.DSP_RL_WAIT_MAX 5, Reg.DSP_RL_DEPTH 5, Reg.DSP_LAST 8].map (fun a => (a, 0#32)))
    (fun b => up { b with
      pwr := { b.pwr with ccy := 1431 },
      tlr := [(8, { Tiller.init with blocked := .tpull 0x30 1300 }), (9, { Tiller.init with blocked := .tpull 0x30 1350 })],
      lists := [(4, [⟨[0x31000#32], 60, 12, false, 1430, false⟩]), (5, [⟨[0x32000#32], 61, 12, false, 1430, false⟩])] })

/-- spec/14: slot 8, the earliest waiter, takes the head of RL5, which has the higher PRIO. -/
theorem test_task_grant : (pullOrder pullsS.blk).head? = some 8 ∧ (bestList pullsS.blk 0x30).map (fun p => (p.1, p.2.stage)) = some (5, 61) := by
  decide +kernel

/-- R460: of the requests that wait together the lowest cause is first; the state is SAFE. -/
theorem test_safe_detect :
    (safeState (safeDetect (safeS 1#32 0#32 [(7, 3), (3, 1)] [] true id)),
      rg (safeDetect (safeS 1#32 0#32 [(7, 3), (3, 1)] [] true id)) Reg.SAFE_FIRST) = (2, 0x10003#32) := by decide +kernel

/-- R482: the sixteenth refresh of a channel comes back to bank 0. -/
theorem test_refresh_wraps :
    spGet (fun _ => 0) (gddrRefresh 3 [] { Block.init with mem := { MemSt.init with refresh := [(3, 15)] } }).mem.refresh 3 = 0 := by decide +kernel

/-- R46: an entry with OFFSET 1 and PERIOD 1 of lane 2 as its word spells it. -/
theorem test_entry_fields :
    (let e := (slotS onLane [] []).blk.sched.entry 7; (e.kind, e.valid, e.unit, e.offset, e.period, e.nchk, e.nout)) = (0, true, 2, 1, 1, 1, 1) := by
  decide +kernel

/-- R77, R86: a DEPTH of 10 bits clears the two low bits. -/
theorem test_depth_mask : depthMask 1 0xFFF = 0xFFC ∧ depthMask 2 0x7FF = 0x7F0 ∧ depthMask 0 0x1FFF = 0xFFF := by decide

end Sys2Proof.Tests
end

section
/-! PROOFS. The SH latch of a sheaf boundary (R17, R82, R107, R118): what every step of it leaves alone, which values each of
its steps puts in force, and that steps for other ports, lanes and sets do not meet. -/

namespace Sys2Proof.Machine

theorem lt_of_mem_upFrom {n k : Nat} (h : n ∈ upFrom 0 k) : n < k := by
  have := (mem_upFrom 0 k n).1 h; omega

theorem mem_upFrom_of_lt {n k : Nat} (h : n < k) : n ∈ upFrom 0 k := (mem_upFrom 0 k n).2 ⟨Nat.zero_le _, by omega⟩

/-! ## Which registers are shadowed, and to whom they belong -/

/-- The CFG_ERR bit of each port, lane and engine class, as STATUS register and bit. -/
def cfgErrBits : List (Nat × Nat) :=
  setClasses.map (fun k => (k.stat, 0)) ++
    (upFrom 0 8).flatMap (fun n => [(Reg.FE_PORT_STATUS n, 8), (Reg.FE_LANE_STATUS n, 0)])

/-- The registers that a boundary itself writes: STATUS of ports, lanes and engines, and the count of dropped patch records. -/
def latchWrites : List Nat := cfgErrBits.map Prod.fst ++ (upFrom 0 16).map Reg.TLR_PQ_CNT_CAP

theorem latchWrites_class : ∀ a ∈ latchWrites, isSh a = false ∧ setOfReg a = none := by decide +kernel

theorem not_latchWrites_of_isSh {a : Nat} (h : isSh a = true) : a ∉ latchWrites := fun hm => by
  rw [(latchWrites_class a hm).1] at h; cases h

theorem status_mem_latchWrites {p : Nat × Nat} (hp : p ∈ cfgErrBits) : p.1 ∈ latchWrites :=
  List.mem_append_left _ (List.mem_map_of_mem hp)

theorem portStatus_mem {n : Nat} (hn : n < 8) : (Reg.FE_PORT_STATUS n, 8) ∈ cfgErrBits :=
  List.mem_append_right _ (List.mem_flatMap.2 ⟨n, mem_upFrom_of_lt hn, by simp⟩)

theorem laneStatus_mem {n : Nat} (hn : n < 8) : (Reg.FE_LANE_STATUS n, 0) ∈ cfgErrBits :=
  List.mem_append_right _ (List.mem_flatMap.2 ⟨n, mem_upFrom_of_lt hn, by simp⟩)

theorem laneStatus_bit : ∀ n ∈ upFrom 0 8, ∀ p ∈ cfgErrBits, p.1 = Reg.FE_LANE_STATUS n → p.2 = 0 := by decide +kernel

theorem setStat_mem {k : SetClass} (hk : k ∈ setClasses) : (k.stat, 0) ∈ cfgErrBits :=
  List.mem_append_left _ (List.mem_map.2 ⟨k, hk, rfl⟩)

theorem cfgErrBits_ne_pqCntCap : ∀ q ∈ upFrom 0 16, ∀ p ∈ cfgErrBits, p.1 ≠ Reg.TLR_PQ_CNT_CAP q := by decide +kernel

/-- A register that the boundary does not write by itself, with the port, lane or engine set to which it belongs. -/
structure RegOf (port lane : Option Nat) (set : Option (SetClass × Nat)) (a : Nat) : Prop where
  kept : a ∉ latchWrites
  port : portOfReg a = port
  lane : laneOfReg a = lane
  set  : setOfReg a = set

theorem cpShRegs_regOf {n a : Nat} (hn : n ∈ upFrom 0 8) (ha : a ∈ cpShRegs n) : RegOf (some n) none none a := by
  have h : ∀ n ∈ upFrom 0 8, ∀ a ∈ cpShRegs n,
      a ∉ latchWrites ∧ portOfReg a = some n ∧ laneOfReg a = none ∧ setOfReg a = none := by decide +kernel
  obtain ⟨hk, hp, hl, hs⟩ := h n hn a ha
  exact ⟨hk, hp, hl, hs⟩

theorem laneShRegs_regOf {n a : Nat} (hn : n ∈ upFrom 0 8) (ha : a ∈ laneShRegs n) : RegOf none (some n) none a := by
  have h : ∀ n ∈ upFrom 0 8, ∀ a ∈ laneShRegs n,
      a ∉ latchWrites ∧ portOfReg a = none ∧ laneOfReg a = some n ∧ setOfReg a = none := by decide +kernel
  obtain ⟨hk, hp, hl, hs⟩ := h n hn a ha
  exact ⟨hk, hp, hl, hs⟩

theorem trigCfg_class : ∀ t ∈ upFrom 0 8, Reg.TB_TRIG_CFG t ∉ latchWrites ∧ portOfReg (Reg.TB_TRIG_CFG t) = none ∧
    0x2000 ≤ Reg.TB_TRIG_CFG t ∧ Reg.TB_TRIG_CFG t < 0x2100 := by decide +kernel

/-- A set that an offset names is one of the sixteen of its class. -/
theorem setOfReg_some {a o : Nat} {k : SetClass} (h : setOfReg a = some (k, o)) :
    k ∈ setClasses ∧ ∃ i ∈ upFrom 0 16, o = k.base + i * k.step := by
  obtain ⟨k', hf, he⟩ := Option.map_eq_some_iff.1 h
  obtain ⟨rfl, rfl⟩ := Prod.mk.inj he
  have hm := List.mem_of_find?_eq_some hf
  have hp := List.find?_some hf
  simp only [decide_eq_true_eq] at hp
  obtain ⟨hlo, hhi, -⟩ := hp
  exact ⟨hm, _, (mem_upFrom 0 16 _).2 ⟨Nat.zero_le _, by
    rw [Nat.zero_add, Nat.div_lt_iff_lt_mul (Nat.pos_of_ne_zero fun h0 => by rw [h0] at hhi; omega)]; omega⟩, rfl⟩

/-- The registers of the set at `o` belong to it alone. -/
theorem setRegs_regOf {r a o : Nat} {k : SetClass} (ho : setOfReg r = some (k, o)) (ha : a ∈ setRegs o k.regs) :
    RegOf none none (some (k, o)) a := by
  have h : ∀ k ∈ setClasses, ∀ i ∈ upFrom 0 16, ∀ a ∈ setRegs (k.base + i * k.step) k.regs,
      portOfReg a = none ∧ laneOfReg a = none ∧ setOfReg a = some (k, k.base + i * k.step) := by decide +kernel
  obtain ⟨hk, i, hi, rfl⟩ := setOfReg_some ho
  obtain ⟨hp, hl, hs⟩ := h k hk i hi a ha
  refine ⟨fun hm => ?_, hp, hl, hs⟩
  rw [(latchWrites_class a hm).2] at hs
  cases hs

/-! ## What every step of the latch keeps -/

/-- From `b` to `b'` every register stands but those of `latchWrites`, CFG_ERR bits and raised events stay, and the earlier
generations stand. -/
structure LatchKeeps (b b' : Block) : Prop where
  written : ∀ a, a ∉ latchWrites → rg b' a = rg b a
  flags   : ∀ p ∈ cfgErrBits, (rg b p.1).bit p.2 = true → (rg b' p.1).bit p.2 = true
  events  : ∀ e ∈ b.raised, e ∈ b'.raised
  prev    : b'.regs.prev = b.regs.prev
  prev2   : b'.regs.prev2 = b.regs.prev2
  forceAt : b'.regs.forceAt = b.regs.forceAt
  prevAt  : b'.regs.prevAt = b.regs.prevAt
  wrote   : b'.regs.wrote = b.regs.wrote

namespace LatchKeeps

theorem refl (b : Block) : LatchKeeps b b :=
  ⟨fun _ _ => rfl, fun _ _ h => h, fun _ h => h, rfl, rfl, rfl, rfl, rfl⟩

theorem trans {b c d : Block} (h : LatchKeeps b c) (k : LatchKeeps c d) : LatchKeeps b d :=
  ⟨fun a ha => (k.written a ha).trans (h.written a ha), fun p hp hb => k.flags p hp (h.flags p hp hb),
    fun e he => k.events e (h.events e he), k.prev.trans h.prev, k.prev2.trans h.prev2, k.forceAt.trans h.forceAt,
    k.prevAt.trans h.prevAt, k.wrote.trans h.wrote⟩

/-- A step that leaves every register, the generations and the events. -/
theorem of_same {b b' : Block} (hr : ∀ a, rg b' a = rg b a) (he : b'.raised = b.raised) (hp : b'.regs.prev = b.regs.prev)
    (hp2 : b'.regs.prev2 = b.regs.prev2) (hf : b'.regs.forceAt = b.regs.forceAt) (hpa : b'.regs.prevAt = b.regs.prevAt)
    (hw : b'.regs.wrote = b.regs.wrote) : LatchKeeps b b' :=
  ⟨fun a _ => hr a, fun p _ h => by rw [hr]; exact h, fun e h => by rw [he]; exact h, hp, hp2, hf, hpa, hw⟩

theorem setFrc (b : Block) (a : Nat) (w : Word) : LatchKeeps b (setFrc b a w) :=
  of_same (fun _ => rfl) rfl rfl rfl rfl rfl rfl

theorem setPq (b : Block) (q : Nat) (x : PQueue) : LatchKeeps b (setPq b q x) :=
  of_same (fun _ => rfl) rfl rfl rfl rfl rfl rfl

theorem setLane (b : Block) (n : Nat) (x : LaneSt) : LatchKeeps b (setLane b n x) :=
  of_same (fun _ => rfl) rfl rfl rfl rfl rfl rfl

/-- A register that the boundary writes may be written where no CFG_ERR bit falls. -/
theorem setRg {b : Block} {a : Nat} {w : Word} (ha : a ∈ latchWrites)
    (hf : ∀ i, (a, i) ∈ cfgErrBits → (rg b a).bit i = true → w.bit i = true) : LatchKeeps b (setRg b a w) := by
  refine ⟨fun j hj => ?_, fun p hp h => ?_, fun _ h => h, rfl, rfl, rfl, rfl, rfl⟩
  · rw [rg_setRg, if_neg]; rintro rfl; exact hj ha
  · obtain ⟨j, i⟩ := p
    rw [rg_setRg]
    split
    · next hj => subst hj; exact hf i hp h
    · exact h

theorem raise (b : Block) (code arg : Nat) : LatchKeeps b (raise b code arg) :=
  ⟨fun _ _ => rfl, fun _ _ h => h, fun _ h => List.mem_append_left _ h, rfl, rfl, rfl, rfl, rfl⟩

theorem raiseOnce (b : Block) (code item arg : Nat) : LatchKeeps b (raiseOnce b code item arg) := by
  unfold Machine.raiseOnce
  split
  · exact refl b
  · exact trans (of_same (b' := { b with once := b.once ++ [(code, item)] }) (fun _ => rfl) rfl rfl rfl rfl rfl rfl)
      (raise _ code arg)

/-- A check that fails sets bits of a STATUS register and raises an event. -/
theorem raise_orRg {b : Block} {a m code arg : Nat} (ha : a ∈ latchWrites) :
    LatchKeeps b (Machine.raise (orRg b a m) code arg) := by
  refine trans (trans (of_same (b' := { b with now := { b.now with bits := b.now.bits ++ [(a, m)] } })
    (fun _ => rfl) rfl rfl rfl rfl rfl rfl) (setRg ha fun i _ h => ?_)) (raise _ code arg)
  rw [bit_or]; simpa using Or.inl h

end LatchKeeps

/-! ## Folds of steps -/

section Folds
variable {ι : Type} {I : Block → Prop} {f : Block → ι → Block} {l : List ι} {b : Block}

theorem foldl_keeps (h0 : I b) (hs : ∀ c, I c → ∀ m ∈ l, I (f c m)) : I (l.foldl f b) :=
  List.foldlRecOn l f h0 hs

/-- What no step changes stands. -/
theorem foldl_stands {α : Type} (g : Block → α) (h0 : I b) (hs : ∀ c, I c → ∀ m ∈ l, I (f c m))
    (hf : ∀ c, I c → ∀ m ∈ l, g (f c m) = g c) : g (l.foldl f b) = g b :=
  (List.foldlRecOn (motive := fun c => I c ∧ g c = g b) l f ⟨h0, rfl⟩
    fun c hc m hm => ⟨hs c hc.1 m hm, (hf c hc.1 m hm).trans hc.2⟩).2

/-- What the step of `n` sets to `v` and no other step changes is `v` at the end. -/
theorem foldl_takes [DecidableEq ι] {α : Type} (g : Block → α) {v : α} {n : ι} (hn : n ∈ l) (h0 : I b)
    (hs : ∀ c, I c → ∀ m ∈ l, I (f c m)) (hv : ∀ c, I c → g (f c n) = v)
    (hf : ∀ c, I c → ∀ m ∈ l, m ≠ n → g (f c m) = g c) : g (l.foldl f b) = v := by
  induction l generalizing b with
  | nil => cases hn
  | cons m l ih =>
    have h1 := hs b h0 m (by simp)
    have hs' := fun c hc k (hk : k ∈ l) => hs c hc k (List.mem_cons_of_mem _ hk)
    have hf' := fun c hc k (hk : k ∈ l) => hf c hc k (List.mem_cons_of_mem _ hk)
    rw [List.foldl_cons]
    by_cases hnl : n ∈ l
    · exact ih hnl h1 hs' hf'
    · obtain rfl : n = m := (List.mem_cons.1 hn).resolve_right hnl
      rw [foldl_stands g h1 hs' fun c hc k hk => hf' c hc k hk fun h => hnl (h ▸ hk)]
      exact hv b h0

theorem foldl_frc_stands {a : Nat} (h0 : I b) (hs : ∀ c, I c → ∀ m ∈ l, I (f c m))
    (hf : ∀ c, I c → ∀ m ∈ l, frc (f c m) a = frc c a) : frc (l.foldl f b) a = frc b a :=
  foldl_stands (fun c => frc c a) h0 hs hf

theorem foldl_frc_takes [DecidableEq ι] {a : Nat} {v : Word} {n : ι} (hn : n ∈ l) (h0 : I b)
    (hs : ∀ c, I c → ∀ m ∈ l, I (f c m)) (hv : ∀ c, I c → frc (f c n) a = v)
    (hf : ∀ c, I c → ∀ m ∈ l, m ≠ n → frc (f c m) a = frc c a) : frc (l.foldl f b) a = v :=
  foldl_takes (fun c => frc c a) hn h0 hs hv hf

end Folds

/-! ## Sets that latch as a whole -/

/-- From `b` to `b'` the registers `l` of a set take their written values if the set passes its checks; otherwise they keep
those in force, and the CFG_ERR bit `p` and the event `e` tell so. -/
def Judged (ok : Bool) (l : List Nat) (p : Nat × Nat) (e : Ev) (b b' : Block) : Prop :=
  if ok = true then ∀ a ∈ l, frc b' a = rg b a
  else (∀ a ∈ l, frc b' a = frc b a) ∧ (rg b' p.1).bit p.2 = true ∧ e ∈ b'.raised

namespace Judged
variable {ok : Bool} {l : List Nat} {p : Nat × Nat} {e : Ev} {b c d : Block}

/-- Steps before it that leave the set alone. -/
theorem before (h : Judged ok l p e c d) (hr : ∀ a ∈ l, rg c a = rg b a) (hf : ok = false → ∀ a ∈ l, frc c a = frc b a) :
    Judged ok l p e b d := by
  cases ok with
  | true => exact fun a ha => (h a ha).trans (hr a ha)
  | false => exact ⟨fun a ha => (h.1 a ha).trans (hf rfl a ha), h.2⟩

/-- Steps after it that leave the set alone. -/
theorem after (h : Judged ok l p e b c) (hk : LatchKeeps c d) (hp : p ∈ cfgErrBits) (hf : ∀ a ∈ l, frc d a = frc c a) :
    Judged ok l p e b d := by
  cases ok with
  | true => exact fun a ha => (hf a ha).trans (h a ha)
  | false => exact ⟨fun a ha => (hf a ha).trans (h.1 a ha), hk.flags p hp h.2.1, hk.events e h.2.2⟩

theorem of_error {a i m code arg : Nat} (hf : ∀ a ∈ l, frc c a = frc b a) (hm : (wd m).bit i = true) (ha : arg < 4096) :
    Judged false l (a, i) ⟨code, arg, false, none⟩ b (raise (orRg c a m) code arg) := by
  refine ⟨hf, ?_, List.mem_append_right _ ?_⟩
  · rw [raise_eq, rg_raiseS, rg_orRg, if_pos rfl, bit_or, hm, Bool.or_true]
  · rw [Nat.mod_eq_of_lt ha]; exact List.mem_singleton_self _

end Judged

/-- In a fold over ports, lanes or sets the set of `n` is judged in its turn, once or repeatedly to the same effect. -/
theorem foldl_judged {ι : Type} [DecidableEq ι] {I : Block → Prop} {f : Block → ι → Block} {ms : List ι} {n : ι} {b : Block}
    {ok : Bool} {l : List Nat} {p : Nat × Nat} {e : Ev} (hn : n ∈ ms) (h0 : I b) (hs : ∀ c, I c → ∀ m ∈ ms, I (f c m))
    (hk : ∀ c, ∀ m ∈ ms, LatchKeeps c (f c m)) (hp : p ∈ cfgErrBits) (hsh : ∀ a ∈ l, a ∉ latchWrites)
    (hj : ∀ c, I c → Judged ok l p e c (f c n)) (ho : ∀ c, ∀ m ∈ ms, m ≠ n → ∀ a ∈ l, frc (f c m) a = frc c a) :
    Judged ok l p e b (ms.foldl f b) := by
  induction ms generalizing b with
  | nil => cases hn
  | cons m ms ih =>
    have hs' := fun c hc k (hm : k ∈ ms) => hs c hc k (List.mem_cons_of_mem _ hm)
    have hk' := fun c k (hm : k ∈ ms) => hk c k (List.mem_cons_of_mem _ hm)
    have ho' := fun c k (hm : k ∈ ms) => ho c k (List.mem_cons_of_mem _ hm)
    rw [List.foldl_cons]
    by_cases hnm : n ∈ ms
    · refine (ih hnm (hs b h0 m (by simp)) hs' hk' ho').before
        (fun a ha => (hk b m (by simp)).written a (hsh a ha)) fun hok a ha => ?_
      by_cases hmn : m = n
      · subst hmn hok; exact (hj b h0).1 a ha
      · exact ho b m (by simp) hmn a ha
    · obtain rfl : n = m := (List.mem_cons.1 hn).resolve_right hnm
      have hrest : LatchKeeps (f b n) (ms.foldl f (f b n)) := foldl_keeps (.refl _) fun c hc k hm => hc.trans (hk' c k hm)
      refine (hj b h0).after hrest hp fun a ha => ?_
      exact foldl_frc_stands (I := fun _ => True) trivial (fun _ _ _ _ => trivial)
        fun c _ k hm => ho' c k hm (fun h => hnm (h ▸ hm)) a ha

/-! ## The steps -/

theorem rg_latchAll (b : Block) (l : List Nat) (a : Nat) : rg (latchAll b l) a = rg b a :=
  foldl_keeps (I := fun c => rg c a = rg b a) rfl fun _ hc _ _ => hc

/-- The registers of the list take their written values; the others keep what is in force. -/
theorem frc_latchAll (b : Block) (l : List Nat) (a : Nat) :
    frc (latchAll b l) a = if a ∈ l then rg b a else frc b a := by
  have hs : ∀ c, rg c a = rg b a → ∀ m ∈ l, rg (setFrc c m (rg c m)) a = rg b a := fun _ hc _ _ => hc
  split
  · next ha =>
    exact foldl_frc_takes (I := fun c => rg c a = rg b a) ha rfl hs (fun c hc => by simp [hc])
      fun c _ m _ hm => by simp [Ne.symm hm]
  · next ha =>
    exact foldl_frc_stands (I := fun c => rg c a = rg b a) rfl hs fun c _ m hm => by
      rw [frc_setFrc, if_neg]; rintro rfl; exact ha hm

theorem latchAll_keeps (b : Block) (l : List Nat) : LatchKeeps b (latchAll b l) :=
  foldl_keeps (I := LatchKeeps b) (.refl b) fun _ hc _ _ => hc.trans (.setFrc _ _ _)

theorem headBusy_keeps {b : Block} {n : Nat} (hn : n < 8) : LatchKeeps b (headBusy b n) := by
  refine .setRg (status_mem_latchWrites (laneStatus_mem hn)) fun i hi h => ?_
  obtain rfl : i = 0 := laneStatus_bit n (mem_upFrom_of_lt hn) _ hi rfl
  rw [Word.bit, testBit_setFld _ _ _ _ _ (by omega) (by omega), if_neg (by omega)]
  exact h

/-- The message of a set that forms changes no setting. -/
theorem headStart_keeps {b : Block} {n sh : Nat} {late : Bool} (hn : n < 8) : LatchKeeps b (headStart b n sh late) := by
  unfold headStart
  dsimp only
  split
  · exact .refl b
  · exact (LatchKeeps.setLane _ _ _).trans (headBusy_keeps hn)

theorem frc_headStart (b : Block) (n sh : Nat) (late : Bool) (a : Nat) : frc (headStart b n sh late) a = frc b a := by
  unfold headStart; dsimp only; split <;> rfl

theorem latchLane_keeps {sh : Nat} {b : Block} {n : Nat} (hn : n < 8) : LatchKeeps b (latchLane sh b n) := by
  unfold latchLane
  split
  · exact (latchAll_keeps b _).trans (headStart_keeps hn)
  · exact (LatchKeeps.setLane _ _ _).trans (.raise_orRg (status_mem_latchWrites (laneStatus_mem hn)))

theorem frc_latchLane (sh : Nat) (b : Block) (n a : Nat) : frc (latchLane sh b n) a =
    if laneFormOk (laneNext b n) n = true ∧ a ∈ laneShRegs n then rg b a else frc b a := by
  unfold latchLane
  split
  · next h => rw [frc_headStart, frc_latchAll]; simp [h]
  · next h => simp only [h]; rfl

theorem latchPort_keeps {b : Block} {n : Nat} (hn : n < 8) : LatchKeeps b (latchPort b n) := by
  unfold latchPort
  split
  · exact latchAll_keeps b _
  · exact .raise_orRg (status_mem_latchWrites (portStatus_mem hn))

theorem frc_latchPort (b : Block) (n a : Nat) : frc (latchPort b n) a =
    if cpSetOk b n = true ∧ a ∈ cpShRegs n then rg b a else frc b a := by
  unfold latchPort
  split
  · next h => rw [frc_latchAll]; simp [h]
  · next h => simp only [h]; rfl

/-- The engine set that `o` names at a boundary: it latches whole, or not at all (R118). -/
def latchSet (b : Block) (o : Nat) : Block :=
  match setOfReg o with
  | some (k, o) => if setPasses k.base (rg b) o then latchAll b (setRegs o k.regs) else setErr b k
  | none => b

/-- No set counts as written any more. -/
def clearWrote (b : Block) : Block := { b with regs := { b.regs with wrote := [] } }

theorem latchSets_eq (b : Block) : latchSets b =
    (sortBy (fun x y => decide (x < y)) b.regs.wrote).foldl latchSet (clearWrote b) := rfl

theorem latchSet_keeps (b : Block) (o : Nat) : LatchKeeps b (latchSet b o) := by
  unfold latchSet
  split
  · next k o' h =>
    split
    · exact latchAll_keeps b _
    · exact .raise_orRg (status_mem_latchWrites (setStat_mem (setOfReg_some h).1))
  · exact .refl b

theorem frc_latchSet {b : Block} {o o' : Nat} {k : SetClass} (h : setOfReg o = some (k, o')) (a : Nat) :
    frc (latchSet b o) a = if setPasses k.base (rg b) o' = true ∧ a ∈ setRegs o' k.regs then rg b a else frc b a := by
  unfold latchSet
  rw [h]
  dsimp only
  split
  · next hp => rw [frc_latchAll]; simp [hp]
  · next hp => simp only [hp]; rfl

theorem pqTrim_keeps {b : Block} {q : Nat} (hq : q < 16) : LatchKeeps b (pqTrim b q) := by
  have hq' := mem_upFrom_of_lt hq
  have hs : Reg.TLR_PQ_CNT_CAP q ∈ latchWrites := List.mem_append_right _ (List.mem_map_of_mem hq')
  have hc := cfgErrBits_ne_pqCntCap q hq'
  have hd : ∀ (c : Block) (n : Nat), LatchKeeps c (pqDropped c q n) := fun c n => by
    unfold pqDropped
    split
    · exact .refl c
    · exact (LatchKeeps.setRg hs fun i hi => absurd rfl (hc _ hi)).trans (.raiseOnce _ _ _ _)
  unfold pqTrim
  dsimp only
  split
  · exact .refl b
  · exact (LatchKeeps.setPq b q _).trans (hd _ _)

theorem frc_raiseOnce (b : Block) (c i x a : Nat) : frc (raiseOnce b c i x) a = frc b a := by
  unfold raiseOnce; split <;> rfl

theorem frc_pqTrim (b : Block) (q a : Nat) : frc (pqTrim b q) a = frc b a := by
  unfold pqTrim
  dsimp only
  split
  · rfl
  · unfold pqDropped
    split
    · rfl
    · rw [frc_raiseOnce]; rfl

/-! ## What the checks read -/

theorem cpSetOk_congr {b c : Block} {n : Nat} (h : ∀ a ∈ cpShRegs n, rg c a = rg b a) : cpSetOk c n = cpSetOk b n := by
  have h1 := h (Reg.FE_PORT_CFG n) (by simp [cpShRegs])
  have h2 := h (Reg.FE_PORT_LEN n) (by simp [cpShRegs])
  have h3 := h (Reg.FE_PORT_WIN n) (by simp [cpShRegs])
  have h4 := h (Reg.FE_PORT_WIN_END n) (by simp [cpShRegs])
  simp only [cpSetOk, h1, h2, h3, h4]

theorem laneFormOk_congr {f g : Nat → Word} {n : Nat} (hp : f (Reg.FE_PORT_CFG n) = g (Reg.FE_PORT_CFG n))
    (ht : ∀ t ∈ upFrom 0 8, f (Reg.TB_TRIG_CFG t) = g (Reg.TB_TRIG_CFG t)) (hl : ∀ a ∈ laneShRegs n, f a = g a) :
    laneFormOk f n = laneFormOk g n := by
  have hb : ∀ e, 0x3000 + e + 0x200 * n ∈ laneShRegs n → f (0x3000 + 0x200 * n + e) = g (0x3000 + 0x200 * n + e) :=
    fun e he => by rw [Nat.add_right_comm]; exact hl _ he
  have ho : ∀ o ∈ upFrom 0 4, f (0x3000 + 0x200 * n + 0xC0 + 8 * o) = g (0x3000 + 0x200 * n + 0xC0 + 8 * o) ∧
      f (0x3000 + 0x200 * n + 0xC4 + 8 * o) = g (0x3000 + 0x200 * n + 0xC4 + 8 * o) := fun o ho => by
    have hm : ∀ a ∈ [Reg.FE_LANE_OUT_CFG n o, Reg.FE_LANE_OUT_CROP n o], f a = g a := fun a ha =>
      hl a (List.mem_append_right _ (List.mem_flatMap.2 ⟨o, ho, ha⟩))
    have h1 := hm (Reg.FE_LANE_OUT_CFG n o) (by simp)
    have h2 := hm (Reg.FE_LANE_OUT_CROP n o) (by simp)
    simp only [Reg.FE_LANE_OUT_CFG, Reg.FE_LANE_OUT_CROP] at h1 h2
    rw [show 0x3000 + 0x200 * n + 0xC0 + 8 * o = 0x30C0 + 0x200 * n + 0x8 * o by omega,
      show 0x3000 + 0x200 * n + 0xC4 + 8 * o = 0x30C4 + 0x200 * n + 0x8 * o by omega]
    exact ⟨h1, h2⟩
  have hs : laneSetOf f (0x3000 + 0x200 * n) = laneSetOf g (0x3000 + 0x200 * n) := by
    have h60 := hb 0x60 (by simp [laneShRegs])
    have h64 := hb 0x64 (by simp [laneShRegs])
    have h68 := hb 0x68 (by simp [laneShRegs])
    have h6C := hb 0x6C (by simp [laneShRegs])
    have h70 := hb 0x70 (by simp [laneShRegs])
    have h74 := hb 0x74 (by simp [laneShRegs])
    simp only [laneSetOf, h60, h64, h68, h6C, h70, h74, LaneP.mk.injEq, true_and]
    exact List.map_congr_left fun o hm => by rw [(ho o hm).1, (ho o hm).2]
  have hh : f (Reg.FE_LANE_HEAD n) = g (Reg.FE_LANE_HEAD n) := hl _ (by simp [laneShRegs])
  have hg : ∀ w : Word, f (Reg.TB_TRIG_CFG (w.fld 7 5)) = g (Reg.TB_TRIG_CFG (w.fld 7 5)) := fun w =>
    ht _ ((mem_upFrom 0 8 _).2 ⟨Nat.zero_le _, Nat.mod_lt _ (by decide)⟩)
  simp only [laneFormOk, hp, hh, hs, hg]

theorem mem_setRegs (o n i : Nat) (h : i < n) : o + 4 * i ∈ setRegs o n :=
  List.mem_map.2 ⟨i, (mem_upFrom 0 n i).2 (by omega), rfl⟩

/-- The checks of a set read its own registers alone. -/
theorem setPasses_congr {f g : Nat → Word} {k : SetClass} {o : Nat} (hk : k ∈ setClasses)
    (h : ∀ a ∈ setRegs o k.regs, f a = g a) : setPasses k.base f o = setPasses k.base g o := by
  have hr : ∀ i, i < k.regs → f (o + 4 * i) = g (o + 4 * i) := fun i hi => h _ (mem_setRegs o _ i hi)
  simp only [setClasses, List.mem_cons, List.not_mem_nil, or_false] at hk
  have h0 : 0 < k.regs → f o = g o := hr 0
  obtain rfl | rfl | rfl | rfl | rfl := hk
  · simp [setPasses, warpSetOf, h0, hr 1, hr 2, hr 3]
  · simp [setPasses, pyrSetOf, h0, hr 1]
  · simp [setPasses, tuftSetOf, h0, hr 1, hr 2, hr 3, hr 4, hr 5]
  · simp [setPasses, stereoSetOf, h0, hr 1, hr 2, hr 3, hr 4, hr 5, hr 6, hr 7]
  · simp [setPasses, flowSetOf, h0, hr 1, hr 2, hr 3, hr 4, hr 5, hr 6]


/-! ## The phases of a boundary -/

/-- The lanes of a boundary, in ascending number. -/
def latchLanes (sh : Nat) (b : Block) : Block := (upFrom 0 8).foldl (latchLane sh) b

/-- The ports of a boundary, in ascending number. -/
def latchPorts (b : Block) : Block := (upFrom 0 8).foldl latchPort b

/-- Every patch queue meets the COL_CAP that is now in force (R229). -/
def trimQueues (b : Block) : Block := (upFrom 0 16).foldl pqTrim b

theorem shLatch_eq (sh : Nat) (b : Block) :
    shLatch sh b = trimQueues (latchSingles (latchSets (latchPorts (latchLanes sh (shiftGens sh b))))) := rfl

theorem latchLanes_keeps (sh : Nat) (b : Block) : LatchKeeps b (latchLanes sh b) :=
  foldl_keeps (I := LatchKeeps b) (.refl b) fun _ hc _ hm => hc.trans (latchLane_keeps (lt_of_mem_upFrom hm))

theorem latchPorts_keeps (b : Block) : LatchKeeps b (latchPorts b) :=
  foldl_keeps (I := LatchKeeps b) (.refl b) fun _ hc _ hm => hc.trans (latchPort_keeps (lt_of_mem_upFrom hm))

theorem trimQueues_keeps (b : Block) : LatchKeeps b (trimQueues b) :=
  foldl_keeps (I := LatchKeeps b) (.refl b) fun _ hc _ hm => hc.trans (pqTrim_keeps (lt_of_mem_upFrom hm))

theorem latchSets_keeps (b : Block) : LatchKeeps (clearWrote b) (latchSets b) :=
  foldl_keeps (I := LatchKeeps (clearWrote b)) (.refl _) fun _ hc _ _ => hc.trans (latchSet_keeps _ _)

theorem latchSingles_keeps (b : Block) : LatchKeeps b (latchSingles b) := by
  refine foldl_keeps (I := LatchKeeps b) (.refl b) fun c hc a _ => ?_
  split
  · exact hc.trans (.setFrc _ _ _)
  · exact hc

/-- After the ports nothing is left but the engine sets, the single registers and the patch queues. -/
theorem afterPorts_keeps (b : Block) : LatchKeeps (clearWrote b) (trimQueues (latchSingles (latchSets b))) :=
  ((latchSets_keeps b).trans (latchSingles_keeps _)).trans (trimQueues_keeps _)

theorem beforeSets_keeps (sh : Nat) (b : Block) : LatchKeeps (shiftGens sh b) (latchPorts (latchLanes sh (shiftGens sh b))) :=
  (latchLanes_keeps sh _).trans (latchPorts_keeps _)

/-! ## Registers that a phase leaves in force as they were -/

theorem frc_latchLanes_of_noLane {a : Nat} (sh : Nat) (b : Block) (h : laneOfReg a = none) :
    frc (latchLanes sh b) a = frc b a :=
  foldl_frc_stands (I := fun _ => True) trivial (fun _ _ _ _ => trivial) fun c _ m hm => by
    rw [frc_latchLane, if_neg]
    rintro ⟨-, ha⟩
    rw [(laneShRegs_regOf hm ha).lane] at h
    cases h

theorem frc_latchPorts_of_noPort {a : Nat} (b : Block) (h : portOfReg a = none) : frc (latchPorts b) a = frc b a :=
  foldl_frc_stands (I := fun _ => True) trivial (fun _ _ _ _ => trivial) fun c _ m hm => by
    rw [frc_latchPort, if_neg]
    rintro ⟨-, ha⟩
    rw [(cpShRegs_regOf hm ha).port] at h
    cases h

theorem mem_insertBy {α : Type} (lt : α → α → Bool) (x y : α) (l : List α) : y ∈ insertBy lt x l ↔ y = x ∨ y ∈ l := by
  induction l with
  | nil => simp [insertBy]
  | cons z l ih =>
    simp only [insertBy]
    split
    · simp
    · rw [List.mem_cons, ih, List.mem_cons]
      exact or_left_comm

theorem mem_sortBy {α : Type} (lt : α → α → Bool) (y : α) (l : List α) : y ∈ sortBy lt l ↔ y ∈ l := by
  induction l with
  | nil => simp [sortBy]
  | cons x l ih =>
    rw [List.mem_cons, ← ih]
    exact mem_insertBy _ x y _

/-- A register of no set that was written keeps what is in force. -/
theorem frc_latchSets_of_unwritten {a : Nat} {b : Block}
    (h : ∀ o ∈ b.regs.wrote, ∀ k o', setOfReg o = some (k, o') → a ∉ setRegs o' k.regs) :
    frc (latchSets b) a = frc b a := by
  rw [latchSets_eq]
  refine foldl_frc_stands (I := fun _ => True) trivial (fun _ _ _ _ => trivial) fun c _ o ho => ?_
  cases hs : setOfReg o with
  | none => unfold latchSet; rw [hs]
  | some r => rw [frc_latchSet hs, if_neg fun ha => h o ((mem_sortBy _ _ _).1 ho) r.1 r.2 hs ha.2]

theorem frc_latchSets_of_noSet {a : Nat} (b : Block) (h : setOfReg a = none) : frc (latchSets b) a = frc b a :=
  frc_latchSets_of_unwritten fun o _ k o' ho ha => by
    rw [(setRegs_regOf ho ha).set] at h
    cases h

theorem spGet_of_not_mem {α : Type} (d : Nat → α) {l : List (Nat × α)} {a : Nat} (h : a ∉ l.map Prod.fst) : spGet d l a = d a := by
  induction l with
  | nil => rfl
  | cons e l ih =>
    simp only [List.map_cons, List.mem_cons, not_or] at h
    rw [spGet, if_neg (Ne.symm h.1), ih h.2]

/-- Shadowed registers that latch singly take their written values, and no others. -/
theorem frc_latchSingles (b : Block) (a : Nat) : frc (latchSingles b) a =
    if isSh a = true ∧ inGroupSet a = false then rg b a else frc b a := by
  have hI : ∀ c, rg c a = rg b a → ∀ m ∈ keysOf b.regs.cur ++ keysOf b.regs.force,
      rg (if isSh m && !inGroupSet m then setFrc c m (rg c m) else c) a = rg b a := fun c hc m _ => by
    split <;> exact hc
  have hother : ∀ c : Block, ∀ m, m ≠ a → frc (if isSh m && !inGroupSet m then setFrc c m (rg c m) else c) a = frc c a :=
    fun c m hm => by
      split
      · rw [frc_setFrc, if_neg (Ne.symm hm)]
      · rfl
  split
  · next h =>
    by_cases hk : a ∈ keysOf b.regs.cur ++ keysOf b.regs.force
    · exact foldl_frc_takes (I := fun c => rg c a = rg b a) hk rfl hI (fun c hc => by simp [h, hc])
        fun c _ m _ hm => hother c m hm
    · have hs := foldl_frc_stands (b := b) (I := fun c => rg c a = rg b a) rfl hI
        fun c _ m hm => hother c m fun he => hk (he ▸ hm)
      rw [List.mem_append, not_or] at hk
      exact hs.trans ((spGet_of_not_mem regReset hk.2).trans (spGet_of_not_mem regReset hk.1).symm)
  · next h =>
    refine foldl_frc_stands (I := fun c => rg c a = rg b a) rfl hI fun c _ m _ => ?_
    by_cases hm : m = a
    · subst hm; rw [if_neg (by simpa using h)]
    · exact hother c m hm

theorem frc_trimQueues (b : Block) (a : Nat) : frc (trimQueues b) a = frc b a :=
  foldl_frc_stands (I := fun _ => True) trivial (fun _ _ _ _ => trivial) fun c _ q _ => frc_pqTrim c q a

/-! ## Lanes -/

/-- What the lanes of a boundary keep while they latch: the settings of the ports, by which they are judged, stand. -/
def LanesJudgeAs (b c : Block) : Prop := LatchKeeps b c ∧ ∀ a, laneOfReg a = none → frc c a = frc b a

theorem lanesJudgeAs_step {sh : Nat} {b c : Block} {n : Nat} (hn : n ∈ upFrom 0 8) (h : LanesJudgeAs b c) :
    LanesJudgeAs b (latchLane sh c n) :=
  ⟨h.1.trans (latchLane_keeps (lt_of_mem_upFrom hn)), fun a ha => by
    rw [frc_latchLane, if_neg, h.2 a ha]
    rintro ⟨-, hm⟩
    rw [(laneShRegs_regOf hn hm).lane] at ha
    cases ha⟩

/-- A lane is judged by the same values whatever lanes have latched before it. -/
theorem laneFormOk_of_judgeAs {b c : Block} {n : Nat} (hn : n ∈ upFrom 0 8) (h : LanesJudgeAs b c) :
    laneFormOk (laneNext c n) n = laneFormOk (laneNext b n) n := by
  obtain ⟨hk, hf⟩ := h
  have hp : ∀ a ∈ cpShRegs n, rg c a = rg b a := fun a ha => hk.written a (cpShRegs_regOf hn ha).kept
  refine laneFormOk_congr ?_ (fun t ht => ?_) fun a ha => ?_
  · have hm : Reg.FE_PORT_CFG n ∈ cpShRegs n := by simp [cpShRegs]
    obtain ⟨-, h2, h3, -⟩ := cpShRegs_regOf hn hm
    simp only [laneNext, h2, cpSetOk_congr hp, hp _ hm, hf _ h3]
  · obtain ⟨h1, h2, h3, h4⟩ := trigCfg_class t ht
    simp only [laneNext, h2, h3, h4, hk.written _ h1, and_self, if_true]
  · obtain ⟨h1, h2, h3, -⟩ := laneShRegs_regOf hn ha
    simp only [laneNext, h2, h3, hk.written _ h1, if_true]

theorem latchLane_judged (sh : Nat) (b : Block) {n : Nat} (hn : n ∈ upFrom 0 8) :
    Judged (laneFormOk (laneNext b n) n) (laneShRegs n) (Reg.FE_LANE_STATUS n, 0) ⟨0x38, n, false, none⟩ b (latchLane sh b n) := by
  cases h : laneFormOk (laneNext b n) n with
  | true => exact fun a ha => by rw [frc_latchLane, if_pos ⟨h, ha⟩]
  | false =>
    unfold latchLane
    rw [h]
    exact .of_error (fun _ _ => rfl) (by decide) (Nat.lt_trans (lt_of_mem_upFrom hn) (by decide))

/-- The settings set of a lane at a boundary (R107, R116). -/
theorem latchLanes_judged (sh : Nat) (b : Block) {n : Nat} (hn : n ∈ upFrom 0 8) :
    Judged (laneFormOk (laneNext b n) n) (laneShRegs n) (Reg.FE_LANE_STATUS n, 0) ⟨0x38, n, false, none⟩ b (latchLanes sh b) := by
  refine foldl_judged (I := LanesJudgeAs b) hn ⟨.refl b, fun _ _ => rfl⟩ (fun c hc m hm => lanesJudgeAs_step hm hc)
    (fun c m hm => latchLane_keeps (lt_of_mem_upFrom hm)) (laneStatus_mem (lt_of_mem_upFrom hn))
    (fun a ha => (laneShRegs_regOf hn ha).kept) (fun c hc => ?_) fun c m hm hmn a ha => ?_
  · rw [← laneFormOk_of_judgeAs hn hc]; exact latchLane_judged sh c hn
  · rw [frc_latchLane, if_neg]
    rintro ⟨-, ha'⟩
    exact hmn (Option.some.inj ((laneShRegs_regOf hm ha').lane.symm.trans (laneShRegs_regOf hn ha).lane))

/-! ## Ports -/

/-- R82 as the statement words it: END is a 12-bit field, so END ≤ 4 095 always holds. -/
theorem cpSetOk_iff (b : Block) (n : Nat) : cpSetOk b n = true ↔
    (rg b (Reg.FE_PORT_CFG n)).fld 4 3 ≠ 3 ∧ (rg b (Reg.FE_PORT_CFG n)).fld 11 10 ≠ 3 ∧ (rg b (Reg.FE_PORT_LEN n)).fld 14 0 % 4 = 0 ∧
      4 ≤ (rg b (Reg.FE_PORT_LEN n)).fld 14 0 ∧ (rg b (Reg.FE_PORT_LEN n)).fld 14 0 ≤ 16384 ∧
      (rg b (Reg.FE_PORT_WIN n)).fld 11 0 ≤ (rg b (Reg.FE_PORT_WIN n)).fld 27 16 ∧
      (rg b (Reg.FE_PORT_WIN n)).fld 27 16 < (rg b (Reg.FE_PORT_WIN_END n)).fld 11 0 ∧
      (rg b (Reg.FE_PORT_WIN n)).fld 27 16 < (rg b (Reg.FE_PORT_WIN n)).fld 11 0 + 1250 := by
  have he : (rg b (Reg.FE_PORT_WIN_END n)).fld 11 0 ≤ 4095 :=
    Nat.le_of_lt_succ (Nat.mod_lt _ (by decide))
  simp only [cpSetOk, decide_eq_true_eq, he, true_and]

theorem latchPort_judged (b : Block) {n : Nat} (hn : n ∈ upFrom 0 8) :
    Judged (cpSetOk b n) (cpShRegs n) (Reg.FE_PORT_STATUS n, 8) ⟨0x34, n, false, none⟩ b (latchPort b n) := by
  cases h : cpSetOk b n with
  | true => exact fun a ha => by rw [frc_latchPort, if_pos ⟨h, ha⟩]
  | false =>
    unfold latchPort
    rw [h]
    exact .of_error (fun _ _ => rfl) (by decide) (Nat.lt_trans (lt_of_mem_upFrom hn) (by decide))

/-- The fields of a port at a boundary (R82). -/
theorem latchPorts_judged (b : Block) {n : Nat} (hn : n ∈ upFrom 0 8) :
    Judged (cpSetOk b n) (cpShRegs n) (Reg.FE_PORT_STATUS n, 8) ⟨0x34, n, false, none⟩ b (latchPorts b) := by
  refine foldl_judged (I := LatchKeeps b) hn (.refl b) (fun c hc m hm => hc.trans (latchPort_keeps (lt_of_mem_upFrom hm)))
    (fun c m hm => latchPort_keeps (lt_of_mem_upFrom hm)) (portStatus_mem (lt_of_mem_upFrom hn))
    (fun a ha => (cpShRegs_regOf hn ha).kept) (fun c hc => ?_) fun c m hm hmn a ha => ?_
  · rw [← cpSetOk_congr fun a ha => hc.written a (cpShRegs_regOf hn ha).kept]; exact latchPort_judged c hn
  · rw [frc_latchPort, if_neg]
    rintro ⟨-, ha'⟩
    exact hmn (Option.some.inj ((cpShRegs_regOf hm ha').port.symm.trans (cpShRegs_regOf hn ha).port))

/-! ## Engine sets -/

theorem latchSet_judged (b : Block) {o : Nat} {k : SetClass} (ho : setOfReg o = some (k, o)) :
    Judged (setPasses k.base (rg b) o) (setRegs o k.regs) (k.stat, 0) ⟨k.ev, 15, false, none⟩ b (latchSet b o) := by
  cases h : setPasses k.base (rg b) o with
  | true => exact fun a ha => by rw [frc_latchSet ho, if_pos ⟨h, ha⟩]
  | false =>
    unfold latchSet
    rw [ho]
    dsimp only
    rw [h]
    exact .of_error (fun _ _ => rfl) (by decide) (by decide)

/-- The set at `o` at a boundary, where it was written in the sheaf that ends (R118). -/
theorem latchSets_judged {b : Block} (hw : ∀ o ∈ b.regs.wrote, (setOfReg o).map Prod.snd = some o) {o : Nat} {k : SetClass}
    (ho : setOfReg o = some (k, o)) (hm : o ∈ b.regs.wrote) :
    Judged (setPasses k.base (rg b) o) (setRegs o k.regs) (k.stat, 0) ⟨k.ev, 15, false, none⟩ b (latchSets b) := by
  rw [latchSets_eq]
  refine Judged.before (c := clearWrote b) ?_ (fun _ _ => rfl) fun _ _ _ => rfl
  refine foldl_judged (I := LatchKeeps (clearWrote b)) ((mem_sortBy _ _ _).2 hm) (.refl _)
    (fun c hc m _ => hc.trans (latchSet_keeps c m)) (fun c m _ => latchSet_keeps c m) (setStat_mem (setOfReg_some ho).1)
    (fun a ha => (setRegs_regOf ho ha).kept) (fun c hc => ?_) fun c m hm' hmo a ha => ?_
  · rw [show setPasses k.base (rg b) o = setPasses k.base (rg c) o from
      (setPasses_congr (setOfReg_some ho).1 fun a ha => hc.written a (setRegs_regOf ho ha).kept).symm]
    exact latchSet_judged c ho
  · obtain ⟨⟨k', m'⟩, hs, rfl⟩ := Option.map_eq_some_iff.1 (hw m ((mem_sortBy _ _ _).1 hm'))
    rw [frc_latchSet hs, if_neg]
    rintro ⟨-, ha'⟩
    exact hmo (congrArg Prod.snd (Option.some.inj ((setRegs_regOf hs ha').set.symm.trans (setRegs_regOf ho ha).set)))

/-- A set that was not written keeps what is in force. -/
theorem frc_latchSets_of_not_wrote {b : Block} (hw : ∀ o ∈ b.regs.wrote, (setOfReg o).map Prod.snd = some o) {a o : Nat}
    {k : SetClass} (ho : setOfReg o = some (k, o)) (hm : o ∉ b.regs.wrote) (ha : a ∈ setRegs o k.regs) :
    frc (latchSets b) a = frc b a :=
  frc_latchSets_of_unwritten fun m hmw k' m' hs ha' => by
    obtain ⟨⟨k'', m''⟩, hs', rfl⟩ := Option.map_eq_some_iff.1 (hw m hmw)
    obtain ⟨rfl, rfl⟩ := Prod.mk.inj (Option.some.inj (hs.symm.trans hs'))
    obtain ⟨-, rfl⟩ := Prod.mk.inj (Option.some.inj
      ((setRegs_regOf hs ha').set.symm.trans (setRegs_regOf ho ha).set))
    exact hm hmw

/-! ## The boundary -/

theorem inGroupSet_of_port {a n : Nat} (h : portOfReg a = some n) : inGroupSet a = true := by simp [inGroupSet, h]

theorem inGroupSet_of_lane {a n : Nat} (h : laneOfReg a = some n) : inGroupSet a = true := by simp [inGroupSet, h]

theorem inGroupSet_of_set {a : Nat} {r : SetClass × Nat} (h : setOfReg a = some r) : inGroupSet a = true := by
  simp [inGroupSet, h]

/-- What is in force of a register of a port, a lane or a set changes no more once the sets have latched. -/
theorem frc_afterSets {a : Nat} (b : Block) (h : inGroupSet a = true) : frc (trimQueues (latchSingles b)) a = frc b a := by
  rw [frc_trimQueues, frc_latchSingles, if_neg (by simp [h])]

theorem Judged.afterPorts {ok : Bool} {l : List Nat} {p : Nat × Nat} {e : Ev} {b c : Block} (h : Judged ok l p e b c)
    (hp : p ∈ cfgErrBits) (hl : ∀ a ∈ l, inGroupSet a = true ∧ setOfReg a = none) :
    Judged ok l p e b (trimQueues (latchSingles (latchSets c))) :=
  Judged.after (c := clearWrote c) h (afterPorts_keeps c) hp fun a ha =>
    (frc_afterSets _ (hl a ha).1).trans (frc_latchSets_of_noSet c (hl a ha).2)

/-- Neither lanes nor ports change what is in force of an engine set. -/
theorem frc_beforeSets (sh : Nat) (b : Block) {a o : Nat} {k : SetClass} (ho : setOfReg o = some (k, o)) (ha : a ∈ setRegs o k.regs) :
    frc (latchPorts (latchLanes sh (shiftGens sh b))) a = frc b a := by
  obtain ⟨-, h2, h3, -⟩ := setRegs_regOf ho ha
  exact (frc_latchPorts_of_noPort _ h2).trans (frc_latchLanes_of_noLane sh _ h3)

theorem shLatch_lane_judged (sh : Nat) (b : Block) {n : Nat} (hn : n ∈ upFrom 0 8) :
    Judged (laneFormOk (laneNext b n) n) (laneShRegs n) (Reg.FE_LANE_STATUS n, 0) ⟨0x38, n, false, none⟩ b (shLatch sh b) := by
  have h : Judged (laneFormOk (laneNext b n) n) _ _ _ (shiftGens sh b) _ := latchLanes_judged sh (shiftGens sh b) hn
  have hp := h.after (latchPorts_keeps _) (laneStatus_mem (lt_of_mem_upFrom hn))
    fun a ha => frc_latchPorts_of_noPort _ (laneShRegs_regOf hn ha).port
  refine (hp.afterPorts (laneStatus_mem (lt_of_mem_upFrom hn)) fun a ha => ?_).before (fun _ _ => rfl) fun _ _ _ => rfl
  obtain ⟨-, -, h3, h4⟩ := laneShRegs_regOf hn ha
  exact ⟨inGroupSet_of_lane h3, h4⟩

theorem shLatch_port_judged (sh : Nat) (b : Block) {n : Nat} (hn : n ∈ upFrom 0 8) :
    Judged (cpSetOk b n) (cpShRegs n) (Reg.FE_PORT_STATUS n, 8) ⟨0x34, n, false, none⟩ b (shLatch sh b) := by
  have hl := latchLanes_keeps sh (shiftGens sh b)
  have hw : ∀ a ∈ cpShRegs n, rg (latchLanes sh (shiftGens sh b)) a = rg b a :=
    fun a ha => hl.written a (cpShRegs_regOf hn ha).kept
  rw [← cpSetOk_congr hw]
  refine ((latchPorts_judged _ hn).afterPorts (portStatus_mem (lt_of_mem_upFrom hn)) fun a ha => ?_).before hw fun _ a ha => ?_
  · obtain ⟨-, h2, -, h4⟩ := cpShRegs_regOf hn ha
    exact ⟨inGroupSet_of_port h2, h4⟩
  · exact frc_latchLanes_of_noLane sh _ (cpShRegs_regOf hn ha).lane

theorem shLatch_set_judged (sh : Nat) {b : Block} (hw : ∀ o ∈ b.regs.wrote, (setOfReg o).map Prod.snd = some o) {o : Nat}
    {k : SetClass} (ho : setOfReg o = some (k, o)) (hm : o ∈ b.regs.wrote) :
    Judged (setPasses k.base (rg b) o) (setRegs o k.regs) (k.stat, 0) ⟨k.ev, 15, false, none⟩ b (shLatch sh b) := by
  have hb := beforeSets_keeps sh b
  have hr : ∀ a ∈ setRegs o k.regs, rg (latchPorts (latchLanes sh (shiftGens sh b))) a = rg b a :=
    fun a ha => hb.written a (setRegs_regOf ho ha).kept
  rw [← setPasses_congr (setOfReg_some ho).1 hr]
  rw [show b.regs.wrote = (latchPorts (latchLanes sh (shiftGens sh b))).regs.wrote from hb.wrote.symm] at hw hm
  refine ((latchSets_judged hw ho hm).after ((latchSingles_keeps _).trans (trimQueues_keeps _))
    (setStat_mem (setOfReg_some ho).1) fun a ha => ?_).before hr fun _ a ha => frc_beforeSets sh b ho ha
  exact frc_afterSets _ (inGroupSet_of_set (setRegs_regOf ho ha).set)

theorem frc_shLatch_of_not_wrote (sh : Nat) {b : Block} (hw : ∀ o ∈ b.regs.wrote, (setOfReg o).map Prod.snd = some o) {a o : Nat}
    {k : SetClass} (ho : setOfReg o = some (k, o)) (hm : o ∉ b.regs.wrote) (ha : a ∈ setRegs o k.regs) :
    frc (shLatch sh b) a = frc b a := by
  rw [← show (latchPorts (latchLanes sh (shiftGens sh b))).regs.wrote = b.regs.wrote from (beforeSets_keeps sh b).wrote] at hw hm
  exact (frc_afterSets _ (inGroupSet_of_set (setRegs_regOf ho ha).set)).trans
    ((frc_latchSets_of_not_wrote hw ho hm ha).trans (frc_beforeSets sh b ho ha))

/-- From the shift of the generations on, with no set counted as written: what the whole boundary keeps. -/
theorem shLatch_keeps (sh : Nat) (b : Block) : LatchKeeps (clearWrote (shiftGens sh b)) (shLatch sh b) := by
  obtain ⟨h1, h2, h3, h4, h5, h6, h7, -⟩ := beforeSets_keeps sh b
  exact LatchKeeps.trans (c := clearWrote (latchPorts (latchLanes sh (shiftGens sh b)))) ⟨h1, h2, h3, h4, h5, h6, h7, rfl⟩
    (afterPorts_keeps _)

theorem frc_shLatch_single (sh : Nat) (b : Block) {a : Nat} (hs : isSh a = true) (hg : inGroupSet a = false) :
    frc (shLatch sh b) a = rg b a := by
  have hw := not_latchWrites_of_isSh hs
  rw [shLatch_eq, frc_trimQueues, frc_latchSingles, if_pos ⟨hs, hg⟩, (latchSets_keeps _).written a hw]
  exact (beforeSets_keeps sh b).written a hw

/-! ## Which generation a line uses -/

theorem sheafGt_self (s : Nat) : sheafGt s s = false := by
  have h : lineSub (s * 1024) (s * 1024) = 0 := by unfold lineSub subMod; omega
  simp [sheafGt, lineGt, h]

/-- The sheaf before one in the range of sheaf numbers is not the later of the two. -/
theorem sheafGt_pred {sh : Nat} (hs : sh < 2 ^ 34) : sheafGt sh (subMod 34 sh 1) = true := by
  have h : lineSub (sh * 1024) (subMod 34 sh 1 * 1024) = 1024 := by unfold lineSub subMod; omega
  simp [sheafGt, lineGt, h]

/-- The previous generation counts from a sheaf before `sh` (log entry 72). -/
theorem sheafGt_prevAt {sh : Nat} (b : Block) (h : sh < 2 ^ 34) : sheafGt sh (shiftGens sh b).regs.prevAt = true := by
  unfold shiftGens
  dsimp only
  split
  · assumption
  · exact sheafGt_pred h

theorem laneReader_shLatch {sh k : Nat} (b : Block) (a : Nat) (h : sh < 2 ^ 34) :
    (sheafGt (sheafOf k) sh = true → laneReader (shLatch sh b) k a = frc (shLatch sh b) a) ∧
    (sheafOf k = sh → laneReader (shLatch sh b) k a = frc b a) := by
  have hk := shLatch_keeps sh b
  have hf : (shLatch sh b).regs.forceAt = sh := hk.forceAt
  have hp : (shLatch sh b).regs.prevAt = (shiftGens sh b).regs.prevAt := hk.prevAt
  unfold laneReader
  rw [hf, hp]
  refine ⟨fun hg => if_pos hg, fun hs => ?_⟩
  rw [hs, sheafGt_self, if_neg Bool.false_ne_true, if_pos (sheafGt_prevAt b h)]
  exact congrArg (spGet regReset · a) hk.prev

/-- Settles O19: what each phase of the boundary puts in force, and that the other phases leave it. That the generations move at
every boundary is the model's choice (log entry 72). -/
theorem shadowedFieldsLatchAtTheBoundary : Obligations.ShadowedFieldsLatchAtTheBoundary := by
  intro sh b
  have hk := shLatch_keeps sh b
  refine ⟨fun a => (congrArg (spGet regReset · a) hk.prev).symm, fun a => (congrArg (spGet regReset · a) hk.prev2).symm,
    fun a => frc_shLatch_single sh b, ?_, ?_, ?_, fun h k a => laneReader_shLatch b a h,
    fun a ha => hk.written a (not_latchWrites_of_isSh ha), hk.wrote⟩
  · intro hw k o ho a ha
    refine ⟨fun hm => frc_shLatch_of_not_wrote sh hw ho hm ha, fun hm hp => ?_, fun hm hp => ?_⟩
    · have hj := shLatch_set_judged sh hw ho hm
      rw [hp] at hj
      exact hj a ha
    · have hj := shLatch_set_judged sh hw ho hm
      rw [hp] at hj
      exact ⟨hj.1 a ha, hj.2⟩
  · rintro n cfg len op st en hn rfl rfl rfl rfl rfl
    simpa only [Judged, cpSetOk_iff] using shLatch_port_judged sh b (mem_upFrom_of_lt hn)
  · exact fun n hn => shLatch_lane_judged sh b (mem_upFrom_of_lt hn)

end Sys2Proof.Machine
end

section
/-! PROOFS. Writes of panel registers (R17, R366, R369, R527, R528): what each step of a write by field types leaves alone, what
the host and the debug port make of a write, and what the thresher and the pins leave of it. -/

namespace Sys2Proof.Machine

/-- An offset of a family, by its index. -/
theorem famIdx_eq_some {a base stride n off i : Nat} (hs : 0 < stride) :
    famIdx a base stride n off = some i ↔ i < n ∧ a = base + off + stride * i := by
  unfold famIdx
  constructor
  · intro h
    split at h
    · next hc =>
      obtain rfl := Option.some.inj h
      have := Nat.div_add_mod (a - base - off) stride
      exact ⟨hc.2.2, by omega⟩
    · cases h
  · rintro ⟨hi, rfl⟩
    have e : base + off + stride * i - base - off = stride * i := by omega
    rw [e, Nat.mul_mod_right, Nat.mul_div_cancel_left _ hs, if_pos ⟨by omega, rfl, hi⟩]

/-! ## Frames of effects -/

/-- From `b` to `b'` the always-on part stands, and so does every part but those of `ps`. -/
def Leaves (ps : List Part) (b b' : Block) : Prop := b'.pwr = b.pwr ∧ ∀ q : Part, q ∉ ps → q.same b b'

/-- A register that takes force at once does so in every generation. -/
def genParts (g : Prop) [Decidable g] : List Part := if g then [.force, .prev] else []

/-- A reverse limit looks at the excursion. -/
def revParts (a : Nat) : List Part := if a = Reg.TB_REV_LIMIT then [.tb, .raised] else []

/-- A TB_TRIGn_CFG drives a ball. -/
def trigParts (a : Nat) : List Part := if 0x2080 ≤ a ∧ a < 0x20A0 then [.trigs] else []

namespace Leaves
variable {ps qs : List Part} {b c d : Block}

theorem refl (b : Block) : Leaves ps b b := ⟨rfl, fun q _ => by cases q <;> simp [Part.same]⟩

theorem trans (h : Leaves ps b c) (k : Leaves qs c d) : Leaves (ps ++ qs) b d := by
  refine ⟨k.1.trans h.1, fun q hq => ?_⟩
  rw [List.mem_append, not_or] at hq
  exact same_trans q (fun hc => by rw [← k.1]; exact hc) (h.2 q hq.1) (k.2 q hq.2)

theorem mono (h : Leaves ps b c) (hs : ps ⊆ qs) : Leaves qs b c := ⟨h.1, fun q hq => h.2 q fun hp => hq (hs hp)⟩

/-- A step that is taken only where `p` holds. -/
theorem ite {p : Prop} [Decidable p] (h : p → Leaves ps b c) : Leaves (if p then ps else []) b (if p then c else b) := by
  split
  · next hp => exact h hp
  · exact refl b

theorem setRg (b : Block) (a : Nat) (w : Word) : Leaves [] b (setRg b a w) :=
  ⟨rfl, fun q _ => by cases q <;> simp [Part.same]⟩

theorem setGen (b : Block) (a : Nat) (w : Word) : Leaves [.force, .prev] b (setGen b a w) :=
  ⟨rfl, fun q hq => by cases q <;> simp_all [Part.same, Machine.setGen]⟩

theorem setSnap (b : Block) (a : Nat) (w : Word) : Leaves [.snap] b (setSnap b a w) :=
  ⟨rfl, fun q hq => by cases q <;> simp_all [Part.same, Machine.setSnap]⟩

theorem setTrig (b : Block) (n : Nat) (x : Trig) : Leaves [.trigs] b (setTrig b n x) :=
  ⟨rfl, fun q hq => by cases q <;> simp_all [Part.same]⟩

theorem raise (b : Block) (code arg : Nat) : Leaves [.raised] b (raise b code arg) :=
  ⟨rfl, fun q hq => by cases q <;> simp_all [Part.same, raise_eq]⟩

theorem raiseOnce (b : Block) (code item arg : Nat) : Leaves [.raised] b (raiseOnce b code item arg) := by
  unfold Machine.raiseOnce
  split
  · exact refl b
  · refine trans (ps := []) (c := { b with once := b.once ++ [(code, item)] }) ⟨rfl, fun q _ => ?_⟩ (raise _ code arg)
    cases q <;> simp [Part.same]

theorem revCheck (b : Block) : Leaves [.tb, .raised] b (revCheck b) := by
  have htb : ∀ x : Tb, Leaves [.tb] b { b with tb := x } := fun x =>
    ⟨rfl, fun q hq => by cases q <;> simp_all [Part.same]⟩
  unfold Machine.revCheck
  split
  · split
    · exact (htb _).trans (raise _ _ _)
    · exact refl b
  · exact (htb _).mono (by simp)

theorem trigCfgd (a : Nat) (b : Block) : Leaves (trigParts a) b (trigCfgd a b) := by
  unfold Machine.trigCfgd
  cases h : famIdx a 0x2080 4 8 0 with
  | none => exact refl b
  | some n =>
    have ⟨hn, ha⟩ := (famIdx_eq_some (by decide)).1 h
    rw [trigParts, if_pos (by omega)]
    exact setTrig _ _ _

/-- The frame of a command whose effect leaves all but `ps` and `rs`. -/
theorem keeps {rs : List Nat} {t : Block} (h : Leaves ps b c) (hr : ∀ a, a ∉ rs → rg c a = rg b a)
    (hs : ∀ q : Part, q.same c t) (hg : ∀ a, a ∉ settleRegs → rg t a = rg c a) : Keeps ps rs b t :=
  keeps_of_effect hs hg h.2 hr

end Leaves

/-! ## What the thresher and the pins leave of a register -/

theorem bit_not (x : Word) {i : Nat} (h : i < 32) : Word.bit (~~~x) i = !Word.bit x i := by
  simp only [Word.bit, BitVec.testBit_toNat, BitVec.getLsbD_not, h, decide_true, Bool.true_and]

/-- The bits of HOST_ATTN_STATUS that no condition shows stand. -/
theorem bit_attnWord (b : Block) (n : Nat) {i : Nat} (h : nbit 0xEC i = true) :
    Word.bit (attnWord b n) i = Word.bit (rg b Reg.HOST_ATTN_STATUS) i := by
  have hb : Word.bit (wd (attnBits b n)) i = false := by
    have hi : i < 8 := Nat.lt_of_not_le fun hge => by
      rw [nbit, Nat.testBit_lt_two_pow (Nat.lt_of_lt_of_le (by decide : 0xEC < 2 ^ 8)
        (Nat.pow_le_pow_right (by decide) hge))] at h
      cases h
    unfold attnBits
    cases decide (wd n ≠ rg b Reg.HOST_EVT_RD) <;> cases rrAttn b <;> cases decide (safeState b = 2) <;>
      (revert h; revert i; decide)
  have hm : Word.bit 0xEC#32 i = true := h
  rw [attnWord, bit_or, bit_and, hm, hb, Bool.and_true, Bool.or_false]

theorem bit_leave (p : Published) (b : Block) {a i : Nat} (hc : b.pwr.core = true ∨ a ∉ settleRegs)
    (ha : a = Reg.HOST_ATTN_STATUS → nbit 0xEC i = true) : Word.bit (rg (leave p b).2 a) i = Word.bit (rg b a) i := by
  have hp : ∀ (p : Published) (d : Block), Word.bit (rg (pins p d).2 a) i = Word.bit (rg d a) i := fun p d => by
    unfold pins
    rw [rg_setRg]
    split
    · next h => rw [bit_attnWord d p.seq (ha h), h]
    · rfl
  rcases hc with hc | hc
  · unfold leave
    rw [if_pos hc]
    split <;> exact hp _ _
  · rw [rg_leave p b a hc]

/-- A command that stands for a register write, with the bits of the registers that the thresher and the pins write too. -/
theorem runWrite_bits (c : Nat) (f : Block → Block) (s : State) : ∃ u, runWrite c f s = .next u ∧ u.pending = s.pending ∧
    (∀ q : Part, q.same (f (s.asWritten c)) u.blk) ∧ (∀ a, a ∉ settleRegs → rg u.blk a = rg (f (s.asWritten c)) a) ∧
    ∀ a i, (f (s.asWritten c)).pwr.core = true ∨ a ∉ settleRegs → (a = Reg.HOST_ATTN_STATUS → nbit 0xEC i = true) →
      Word.bit (rg u.blk a) i = Word.bit (rg (f (s.asWritten c)) a) i :=
  ⟨_, rfl, rfl, fun q => same_leave _ _ q, fun a ha => rg_leave _ _ a ha, fun _ _ hc ha => bit_leave _ _ hc ha⟩

theorem runWrite_congr {c : Nat} {f g : Block → Block} {s : State} (h : f (s.asWritten c) = g (s.asWritten c)) :
    runWrite c f s = runWrite c g s := by
  have e : f (commandsFirst (found c s.pub s.blk).2) = g (commandsFirst (found c s.pub s.blk).2) := h
  simp only [runWrite, run, runBlk, e]

/-! ## A write by field types -/

/-- The bits of a register that is written, by its field types (R17). -/
theorem bit_merged (b : Block) (a : Nat) (w : Word) {i : Nat} (h : i < 32) : Word.bit (merged b a w) i =
    if nbit (rowOf a).w1c i = true ∧ w.bit i = true ∧ (freshBits b a).bit i = false then false
    else if nbit (rowOf a).rw i = true ∨ nbit (rowOf a).sh i = true then w.bit i else (rg b a).bit i := by
  have hw : ∀ n, Word.bit (wd n) i = nbit n i := fun n => by
    simp [Word.bit, testBit_wd, nbit, h]
  have ho : nbit ((rowOf a).rw ||| (rowOf a).sh) i = (nbit (rowOf a).rw i || nbit (rowOf a).sh i) := Nat.testBit_or _ _ _
  simp only [merged, bit_and, bit_or, bit_not _ h, hw, ho]
  generalize nbit (rowOf a).w1c i = w1c, nbit (rowOf a).rw i = rw, nbit (rowOf a).sh i = sh, w.bit i = new,
    (freshBits b a).bit i = fresh, (rg b a).bit i = old
  revert w1c rw sh new fresh old
  decide

/-- TB_CTRL is no register that is written by its field types. -/
theorem ne_tbCtrl {a : Nat} {w : Word} (h : (fixedCmd a w).isNone = true) : a ≠ Reg.TB_CTRL := by
  rintro rfl; simp [fixedCmd] at h

/-- Does a shadowed register that latches singly take force at once (R45, R531)? -/
abbrev AtOnce (b : Block) (a : Nat) : Prop := tbEn b = false ∨ (0xE800 ≤ a ∧ a < 0xF000)

/-- A shadowed register of no port, lane or set that has just been written. -/
theorem shApply_single {b : Block} {a : Nat} (hp : portOfReg a = none) (hl : laneOfReg a = none) (hs : setOfReg a = none) :
    shApply b a = if AtOnce b a then setGen b a (rg b a) else b := by
  unfold shApply tbForce
  split
  · next hr =>
    by_cases h : tbEn b = false
    · rw [if_pos ⟨hr.1, hr.2, h⟩, if_pos (.inl h)]
    · rw [if_neg fun hc => h hc.2.2, if_neg]
      rintro (hc | hc)
      · exact h hc
      · omega
  · simp only [hp, hl, hs, or_comm]

/-- The registers of the block that a write by field types leaves: the register as merged, in force at once where `g` says so. -/
def writtenReg (b : Block) (a : Nat) (w : Word) (g : Prop) [Decidable g] : Block :=
  let y := setRg b a (merged b a w)
  if g then setGen y a (rg y a) else y

/-- A write that no check turns away, of a register that belongs to no port, lane or set if it is shadowed. -/
theorem settingWrite_eq {b : Block} {a : Nat} {w : Word} (hb : writeBad b a w = none) (hc : a ≠ Reg.TB_CTRL)
    (hg : isSh a = true → portOfReg a = none ∧ laneOfReg a = none ∧ setOfReg a = none) :
    settingWrite a w b =
      let y := writtenReg b a (scanFix b a w) (isSh a = true ∧ AtOnce b a)
      trigCfgd a (if a = Reg.TB_REV_LIMIT then revCheck y else y) := by
  have hen : tbEn (setRg b a (merged b a (scanFix b a w))) = tbEn b := by
    unfold tbEn; rw [rg_setRg, if_neg (Ne.symm hc)]
  have hy : (if isSh a = true then shApply (setRg b a (merged b a (scanFix b a w))) a
      else setRg b a (merged b a (scanFix b a w))) = writtenReg b a (scanFix b a w) (isSh a = true ∧ AtOnce b a) := by
    unfold writtenReg
    by_cases h : isSh a = true
    · obtain ⟨hp, hl, hs⟩ := hg h
      rw [if_pos h, shApply_single hp hl hs]
      simp only [h, AtOnce, hen, true_and]
    · simp only [h, false_and, if_false, Bool.false_eq_true]
  unfold settingWrite
  rw [hb]
  simp only [hy]

theorem rg_writtenReg (b : Block) (a j : Nat) (w : Word) (g : Prop) [Decidable g] :
    rg (writtenReg b a w g) j = if j = a then merged b a w else rg b j := by
  unfold writtenReg
  dsimp only
  split
  · rw [rg_setGen, rg_setRg]
  · rw [rg_setRg]

theorem writtenReg_leaves (b : Block) (a : Nat) (w : Word) (g : Prop) [Decidable g] :
    Leaves (genParts g) b (writtenReg b a w g) :=
  (Leaves.setRg b a _).trans (.ite fun _ => .setGen _ a _)

/-- At once is in every generation (R17). -/
theorem gens_writtenReg (b : Block) (a j : Nat) (w : Word) {g : Prop} [Decidable g] (h : g) :
    frc (writtenReg b a w g) j = (if j = a then merged b a w else frc b j) ∧
    prv (writtenReg b a w g) j = (if j = a then merged b a w else prv b j) ∧
    prv2 (writtenReg b a w g) j = (if j = a then merged b a w else prv2 b j) := by
  have hm : rg (setRg b a (merged b a w)) a = merged b a w := by rw [rg_setRg, if_pos rfl]
  unfold writtenReg
  simp only [if_pos h, hm]
  exact ⟨spGet_spPut _ _ _ _ _, spGet_spPut _ _ _ _ _, spGet_spPut _ _ _ _ _⟩

theorem rg_revCheck (b : Block) (j : Nat) : rg (revCheck b) j = rg b j := by
  unfold revCheck
  split
  · split <;> rfl
  · rfl

theorem rg_trigCfgd (a : Nat) (b : Block) (j : Nat) : rg (trigCfgd a b) j = rg b j := by
  unfold trigCfgd
  split <;> rfl

theorem trigOf_trigCfgd (b : Block) {n : Nat} (hn : n < 8) (m : Nat) :
    trigOf (trigCfgd (Reg.TB_TRIG_CFG n) b) m = if m = n then { trigOf b n with cfgd := true } else trigOf b m := by
  have h : famIdx (Reg.TB_TRIG_CFG n) 0x2080 4 8 0 = some n := (famIdx_eq_some (by decide)).2 ⟨hn, by rw [Nat.add_zero]⟩
  unfold trigCfgd
  rw [h]
  exact trigOf_setTrig _ _ _ _

/-! ## A write of a panel register -/

/-- What a write of `a` may change beside the register and the values in force. -/
def sideParts (a : Nat) : List Part := revParts a ++ trigParts a ++ [Part.snap]

theorem force_prev_not_mem_sideParts (a : Nat) : Part.force ∉ sideParts a ∧ Part.prev ∉ sideParts a := by
  unfold sideParts revParts trigParts; split <;> split <;> decide

theorem sideParts_subset (a : Nat) : sideParts a ⊆ (if a = Reg.TB_REV_LIMIT then [.snap, .tb, .raised]
    else if 0x2080 ≤ a ∧ a < 0x20A0 then [.snap, .trigs] else [.snap]) := by
  unfold sideParts revParts trigParts
  by_cases h : a = Reg.TB_REV_LIMIT
  · subst h
    rw [if_pos rfl, if_neg (by decide), if_pos rfl]
    simp
  · rw [if_neg h, if_neg h]; split <;> simp

theorem gens_sideParts_subset (a : Nat) : Part.force :: Part.prev :: sideParts a ⊆ (if a = Reg.TB_REV_LIMIT then
    [.snap, .force, .prev, .tb, .raised] else if 0x2080 ≤ a ∧ a < 0x20A0 then [.snap, .force, .prev, .trigs]
    else [.snap, .force, .prev]) := by
  unfold sideParts revParts trigParts
  by_cases h : a = Reg.TB_REV_LIMIT
  · subst h
    rw [if_pos rfl, if_neg (by decide), if_pos rfl]
    simp
  · rw [if_neg h, if_neg h]; split <;> simp

/-- The premises of a write that follows the field types of its register. -/
structure ByFieldTypes (b : Block) (a : Nat) (w : Word) : Prop where
  reg    : isReg a = true
  free   : recRegLocked b a = false
  fixed  : (fixedCmd a w).isNone = true
  family : (familyCmd a w).isNone = true
  stands : writeBad b a w = none
  single : isSh a = true → portOfReg a = none ∧ laneOfReg a = none ∧ setOfReg a = none

section PanelWrite
variable {b : Block} {a : Nat} {w : Word} (h : ByFieldTypes b a w)
include h

theorem panelWrite_eq : panelWrite a w b =
    let z := settingWrite a w b
    if isSnapped a = true ∧ (rowOf a).rw ||| (rowOf a).sh ≠ 0 then setSnap z a (rg z a) else z := by
  unfold panelWrite
  rw [if_neg (by simp [h.reg, h.free]), Option.isNone_iff_eq_none.1 h.fixed, Option.isNone_iff_eq_none.1 h.family]

theorem rg_panelWrite (j : Nat) : rg (panelWrite a w b) j = if j = a then merged b a (scanFix b a w) else rg b j := by
  have hz : rg (settingWrite a w b) j = if j = a then merged b a (scanFix b a w) else rg b j := by
    rw [settingWrite_eq h.stands (ne_tbCtrl h.fixed) h.single]
    dsimp only
    rw [rg_trigCfgd]
    split
    · rw [rg_revCheck, rg_writtenReg]
    · rw [rg_writtenReg]
  rw [panelWrite_eq h, ← hz]
  dsimp only
  split <;> rfl

/-- Past the register and the values in force. -/
theorem panelWrite_after : Leaves (sideParts a) (writtenReg b a (scanFix b a w) (isSh a = true ∧ AtOnce b a)) (panelWrite a w b) := by
  rw [panelWrite_eq h, settingWrite_eq h.stands (ne_tbCtrl h.fixed) h.single]
  exact ((Leaves.ite fun _ => .revCheck _).trans (.trigCfgd a _)).trans
    ((Leaves.ite fun _ => .setSnap _ _ _).mono (by split <;> simp))

theorem panelWrite_leaves :
    Leaves (genParts (isSh a = true ∧ AtOnce b a) ++ sideParts a) b (panelWrite a w b) :=
  (writtenReg_leaves b a _ _).trans (panelWrite_after h)

/-- A shadowed register that takes force at once does so in every generation, and no other register does. -/
theorem gens_panelWrite (hg : isSh a = true ∧ AtOnce b a) (j : Nat) :
    frc (panelWrite a w b) j = (if j = a then rg (panelWrite a w b) a else frc b j) ∧
    prv (panelWrite a w b) j = (if j = a then rg (panelWrite a w b) a else prv b j) ∧
    prv2 (panelWrite a w b) j = (if j = a then rg (panelWrite a w b) a else prv2 b j) := by
  have hl := (panelWrite_after h).2
  have hf : (panelWrite a w b).regs.force = _ := hl .force (force_prev_not_mem_sideParts a).1
  have hp : (panelWrite a w b).regs.prev = _ ∧ (panelWrite a w b).regs.prev2 = _ := hl .prev (force_prev_not_mem_sideParts a).2
  rw [rg_panelWrite h, if_pos rfl]
  unfold frc prv prv2
  rw [hf, hp.1, hp.2]
  exact gens_writtenReg b a j (scanFix b a w) hg

/-- A TB_TRIGn_CFG that is written drives its ball (R523). -/
theorem trigOf_panelWrite {n : Nat} (hn : n < 8) (ha : a = Reg.TB_TRIG_CFG n) (m : Nat) :
    trigOf (panelWrite a w b) m = if m = n then { trigOf b n with cfgd := true } else trigOf b m := by
  subst ha
  have hr : Reg.TB_TRIG_CFG n ≠ Reg.TB_REV_LIMIT := by show 0x2080 + 0x4 * n ≠ 0x2034; omega
  have hw : ∀ k, trigOf (writtenReg b (Reg.TB_TRIG_CFG n) (scanFix b (Reg.TB_TRIG_CFG n) w)
      (isSh (Reg.TB_TRIG_CFG n) = true ∧ AtOnce b (Reg.TB_TRIG_CFG n))) k = trigOf b k := fun k => by
    unfold writtenReg; dsimp only; split <;> rfl
  rw [panelWrite_eq h, settingWrite_eq h.stands (ne_tbCtrl h.fixed) h.single]
  simp only [if_neg hr]
  rw [← hw m, ← hw n, ← trigOf_trigCfgd _ hn]
  split <;> rfl

end PanelWrite

/-! ## The ways by which a write comes to a register -/

theorem recHost_of_off {b : Block} (h : recOn b = false) (sub off : Nat) (data : Word) (m : Nat) : recHost b sub off data m = b := by
  simp [recHost, record, h]

/-- A write of the host below the first MiB, the port up and replay off. -/
theorem hostWrite_panel {b : Block} {a : Nat} {w : Word} {k : Nat} (h4 : a % 4 = 0) (ha : a < 0x100000)
    (hp : b.pwr.port = true) (hr : replayOn b = false) :
    hostWrite a w k b = if k % 16 = 0 then putPanel 0 a w b else maskedPanel a b := by
  have ha4 : a / 4 * 4 = a := by omega
  simp only [hostWrite, ha4, hp, hr, Bool.false_and, Bool.true_eq_false, Bool.false_eq_true, if_false, winWrite, localWriteWin, putLow]
  rw [if_neg (by omega), if_neg (by omega), if_pos (by omega), if_pos ha]

theorem gatedOff_of_core {b : Block} (h : b.pwr.core = true) (a : Nat) : gatedOff b a = false := by simp [gatedOff, h]

theorem panelWrite_of_not_isReg {a : Nat} (h : isReg a = false) (w : Word) (b : Block) : panelWrite a w b = b := by
  unfold panelWrite; rw [if_pos (.inl h)]

theorem putPanel_eq {b : Block} {a : Nat} {w : Word} (hg : gatedOff b a = false) (hr : recOn b = false) :
    putPanel 0 a w b = panelWrite a w b := by
  unfold putPanel
  split
  · next h => rw [panelWrite_of_not_isReg h]
  · rw [hg, if_neg Bool.false_ne_true, recHost_of_off hr]

theorem debugWrite_eq {b : Block} {a : Nat} {w : Word} (h4 : a % 4 = 0) (hg : gatedOff b a = false) (h : isReg a = true) :
    debugWrite a w b = panelWrite a w b := by
  have ha4 : a / 4 * 4 = a := by omega
  simp [debugWrite, ha4, h, hg]

theorem gatedOff_of_block {b : Block} {a : Nat} (hc : b.pwr.core = false) (h1 : 0x2000 ≤ a) (h2 : a < 0xF000) : gatedOff b a = true := by
  simp only [gatedOff, hc, Bool.not_false, Bool.true_and, Bool.not_eq_true', decide_eq_false_iff_not]
  omega

/-- A write by the host or the debug port while the core clock is gated (R528). -/
theorem write_gated {b : Block} {a : Nat} {w : Word} {dbg : Bool} (h : isReg a = true) (h1 : 0x2000 ≤ a) (h2 : a < 0xF000)
    (h4 : a % 4 = 0) (hp : dbg = true ∨ b.pwr.port = true) (hc : b.pwr.core = false) (hr : dbg = true ∨ replayOn b = false) :
    (if dbg then debugWrite a w b else hostWrite a w 0 b) = discard b := by
  have hg := gatedOff_of_block hc h1 h2
  cases dbg with
  | true =>
    have ha4 : a / 4 * 4 = a := by omega
    simp [debugWrite, ha4, h, hg]
  | false =>
    simp only [Bool.false_eq_true, false_or] at hp hr
    rw [if_neg Bool.false_ne_true, hostWrite_panel h4 (by omega) hp hr, if_pos rfl]
    simp [putPanel, h, hg]

theorem rg_discard (b : Block) (j : Nat) :
    rg (discard b) j = if j = Reg.HOST_CNT_DISCARD then rg b Reg.HOST_CNT_DISCARD + 1#32 else rg b j := by
  rw [discard, rg_raiseOnce, rg_bump]; rfl

theorem discard_leaves (b : Block) : Leaves [.raised] b (discard b) :=
  (Leaves.setRg b Reg.HOST_CNT_DISCARD _).trans (.raiseOnce _ _ _ _)

/-- Without a core clock nothing is said of events that wait. -/
theorem Leaves.gated {ps : List Part} {b c : Block} (h : Leaves (.raised :: ps) b c) (hc : b.pwr.core = false) : Leaves ps b c := by
  refine ⟨h.1, fun q hq => ?_⟩
  by_cases he : q = .raised
  · subst he; intro hn; rw [h.1, hc] at hn; cases hn
  · exact h.2 q (by simp [he, hq])

theorem gens_of_same {b c : Block} (hs : ∀ q : Part, q.same b c) (j : Nat) :
    frc c j = frc b j ∧ prv c j = prv b j ∧ prv2 c j = prv2 b j := by
  have hf : c.regs.force = b.regs.force := hs .force
  have hp : c.regs.prev = b.regs.prev ∧ c.regs.prev2 = b.regs.prev2 := hs .prev
  unfold frc prv prv2
  rw [hf, hp.1, hp.2]
  exact ⟨rfl, rfl, rfl⟩

theorem isSh_settleRegs : ∀ a ∈ settleRegs, isSh a = false := by decide +kernel

/-- Settles O47: a write by field types merges the register, and everything else that it may change is named; writes by other
ways are that write, or are discarded. -/
theorem registerWritesFollowFieldTypes : Obligations.RegisterWritesFollowFieldTypes := by
  rintro c a w v s x rfl rfl
  refine ⟨fun hreg hfree hfix hfam hbad hcore hsingle => ?_, fun hreg => ?_, fun ha h4 hp hc hr hrec => ?_,
    fun hreg h4 hg => ?_, fun dbg hreg h1 h2 h4 hp hc hr => ?_⟩
  · have h : ByFieldTypes (s.asWritten c) a w := ⟨hreg, hfree, hfix, hfam, hbad, hsingle⟩
    have hl := panelWrite_leaves h
    obtain ⟨u, he, hq, hs, hr, hb⟩ := runWrite_bits c (panelWrite a w) s
    have hframe : ∀ j, j ∉ [a] → rg (panelWrite a w (s.asWritten c)) j = rg (s.asWritten c) j := fun j hj => by
      rw [rg_panelWrite h, if_neg (by simpa using hj)]
    refine ⟨u, he, hq, fun i hi hattn => ?_, fun hn => ?_, fun n hn ha => ?_, fun hsh hat => ?_⟩
    · rw [hb a i (by rw [hl.1]; exact hcore) hattn, rg_panelWrite h, if_pos rfl, bit_merged _ _ _ hi]
    · have hna : ¬(isSh a = true ∧ AtOnce (s.asWritten c) a) := by
        rintro ⟨hsh, hat⟩
        obtain hn | ⟨hen, hblk⟩ := hn
        · rw [hn] at hsh; cases hsh
        · exact hat.elim (fun h0 => by rw [hen] at h0; cases h0) hblk
      rw [genParts, if_neg hna] at hl
      exact (hl.mono (sideParts_subset a)).keeps hframe hs hr
    · have ht : u.blk.trigs = (panelWrite a w (s.asWritten c)).trigs := hs .trigs
      have hm : ∀ m, trigOf u.blk m = if m = n then { trigOf (s.asWritten c) n with cfgd := true } else trigOf (s.asWritten c) m :=
        fun m => by rw [← trigOf_panelWrite h hn ha]; unfold trigOf; rw [ht]
      exact ⟨by rw [hm, if_pos rfl], fun m hmn => by rw [hm, if_neg hmn]⟩
    · have hra : rg u.blk a = rg (panelWrite a w (s.asWritten c)) a := hr a fun hm => by
        rw [isSh_settleRegs a hm] at hsh; cases hsh
      have hgen : ∀ j, frc u.blk j = (if j = a then rg u.blk a else frc (s.asWritten c) j) ∧
          prv u.blk j = (if j = a then rg u.blk a else prv (s.asWritten c) j) ∧
          prv2 u.blk j = (if j = a then rg u.blk a else prv2 (s.asWritten c) j) := fun j => by
        obtain ⟨h1, h2, h3⟩ := gens_of_same hs j
        rw [hra, h1, h2, h3]
        exact gens_panelWrite h ⟨hsh, hat⟩ j
      obtain ⟨h1, h2, h3⟩ := hgen a
      rw [if_pos rfl] at h1 h2 h3
      rw [genParts, if_pos ⟨hsh, hat⟩] at hl
      exact ⟨h1, h2, h3, fun j hj => by simpa only [if_neg hj] using hgen j,
        (hl.mono (gens_sideParts_subset a)).keeps hframe hs hr⟩
  · obtain ⟨u, he, hq, hs, hr⟩ := runWrite_spec c (panelWrite a w) s
    rw [panelWrite_of_not_isReg hreg] at hs hr
    exact ⟨u, he, hq, (Leaves.refl _).keeps (fun _ _ => rfl) hs hr⟩
  · obtain ⟨u, he, hq, -⟩ := runWrite_spec c (panelWrite a w) s
    refine ⟨u, (runWrite_congr ?_).trans he, hq, he⟩
    simp only [Bool.false_eq_true, if_false]
    rw [hostWrite_panel h4 ha hp hr, if_pos rfl, putPanel_eq (gatedOff_of_core hc a) hrec]
  · obtain ⟨u, he, hq, -⟩ := runWrite_spec c (panelWrite a w) s
    refine ⟨u, (runWrite_congr ?_).trans he, hq, he⟩
    exact debugWrite_eq h4 hg hreg
  · obtain ⟨u, he, hq, hs, hu⟩ := runWrite_spec c (if dbg then debugWrite a w else hostWrite a w 0) s
    have hd : (if dbg then debugWrite a w else hostWrite a w 0) (s.asWritten c) = discard (s.asWritten c) := by
      rw [← write_gated (dbg := dbg) (w := w) hreg h1 h2 h4 hp hc hr]
      cases dbg <;> rfl
    rw [hd] at hs hu
    refine ⟨u, he, hq, ?_, ((discard_leaves _).gated hc).keeps (fun j hj => ?_) hs hu⟩
    · rw [hu _ (by decide), rg_discard, if_pos rfl]
    · rw [rg_discard, if_neg (by simpa using hj)]

end Sys2Proof.Machine
end

section
/-! PROOFS. Reads of the host window, the register mirror, and masked writes (R359, R363 to R370, R378). -/

namespace Sys2Proof.Machine

namespace Leaves
variable {b : Block}

theorem host (b : Block) (x : HostSt) : Leaves [.host] b { b with host := x } :=
  ⟨rfl, fun q hq => by cases q <;> simp_all [Part.same]⟩

theorem wiWr (b : Block) (a : Nat) (w : Word) : Leaves [.win] b (wiWr b a w) :=
  ⟨rfl, fun q hq => by cases q <;> simp_all [Part.same, Machine.wiWr]⟩

/-- A fold of steps each of which leaves all but `ps`. -/
theorem foldl {ι : Type} {ps : List Part} {f : Block → ι → Block} (l : List ι) (h : ∀ c, ∀ m, Leaves ps c (f c m)) :
    Leaves ps b (l.foldl f b) := by
  induction l generalizing b with
  | nil => exact refl b
  | cons m l ih => exact ((h b m).trans (ih (b := f b m))).mono (by simp)

theorem recPush (b : Block) (r : List Byte) : Leaves [.dbg] b (recPush b r) := by
  have hd : ∀ x : DbgSt, Leaves [.dbg] b { b with dbg := x } := fun x =>
    ⟨rfl, fun q hq => by cases q <;> simp_all [Part.same]⟩
  unfold Machine.recPush
  split
  · exact hd _
  · exact (hd _).trans (.setRg _ Reg.DBG_REC_CNT_LOST _)

end Leaves

/-! ## The recorder -/

theorem rg_recPush (b : Block) (r : List Byte) {j : Nat} (hj : j ≠ Reg.DBG_REC_CNT_LOST) : rg (recPush b r) j = rg b j := by
  unfold recPush
  split
  · rfl
  · rw [rg_bump, if_neg hj]; rfl

/-- A HOST record enters the recording queue, or none is written. -/
theorem recHost_cases (b : Block) (sub off : Nat) (data : Word) (m : Nat) :
    (∃ r, recHost b sub off data m = recPush b r) ∨ recHost b sub off data m = b := by
  rw [recHost, record]
  generalize (if sub = 3 then b.now.via else 0) = via
  split
  · exact .inl ⟨_, rfl⟩
  · exact .inr rfl

/-- A HOST record changes the recorder alone (R472). -/
theorem recHost_leaves (b : Block) (sub off : Nat) (data : Word) (m : Nat) : Leaves [.dbg] b (recHost b sub off data m) := by
  obtain ⟨r, h⟩ | h := recHost_cases b sub off data m
  · rw [h]; exact .recPush b r
  · rw [h]; exact .refl b

theorem rg_recHost (b : Block) (sub off : Nat) (data : Word) (m : Nat) {j : Nat} (hj : j ≠ Reg.DBG_REC_CNT_LOST) :
    rg (recHost b sub off data m) j = rg b j := by
  obtain ⟨r, h⟩ | h := recHost_cases b sub off data m
  · rw [h, rg_recPush b r hj]
  · rw [h]

/-! ## Reads of panel registers -/

theorem isReg_stepping : ∀ a ∈ [Reg.WP_MESH_DATA, Reg.FT_PAT_DATA, Reg.GRN_FLAG_DATA, Reg.SYNC_VT_DATA] ++
    (upFrom 0 8).map Reg.FE_LANE_TBL_DATA, isReg a = true := by decide +kernel

/-- Where no register lies nothing steps. -/
theorem stepOf_of_not_isReg {a : Nat} (h : isReg a = false) : stepOf a = none := by
  have hne : ∀ r, isReg r = true → a ≠ r := fun r hr he => by rw [he, hr] at h; cases h
  unfold stepOf
  rw [if_neg (hne _ (isReg_stepping _ (by simp))), if_neg (hne _ (isReg_stepping _ (by simp))),
    if_neg (hne _ (isReg_stepping _ (by simp))), if_neg (hne _ (isReg_stepping _ (by simp)))]
  cases ht : tblLane a with
  | none => rfl
  | some n =>
    obtain ⟨hn, ha⟩ := (famIdx_eq_some (by decide)).1 ht
    exact absurd ha (hne _ (isReg_stepping _ (List.mem_append_right _ (List.mem_map_of_mem (mem_upFrom_of_lt hn)))))

/-- The snapshots that a read takes: the mirror copies of the registers that the register's read snapshots. -/
def takeSnaps (a : Nat) (b : Block) : Block := (snapsOf a).foldl (fun b h => setSnap b h (mir b h)) b

theorem takeSnaps_leaves (a : Nat) (b : Block) : Leaves [.snap] b (takeSnaps a b) :=
  .foldl _ fun _ _ => .setSnap _ _ _

theorem rg_takeSnaps (a : Nat) (b : Block) (j : Nat) : rg (takeSnaps a b) j = rg b j :=
  List.foldlRecOn (motive := fun c => rg c j = rg b j) (snapsOf a) _ rfl fun _ hc _ _ => hc

theorem snapOf_setSnap (b : Block) (a h : Nat) (w : Word) : snapOf (setSnap b a w) h = if h = a then w else snapOf b h :=
  spGet_spPut regReset b.regs.snap a h w

theorem snapOf_takeSnaps (a : Nat) (b : Block) (h : Nat) :
    snapOf (takeSnaps a b) h = if h ∈ snapsOf a then mir b h else snapOf b h := by
  have hm : ∀ c, mir c h = mir b h → ∀ m ∈ snapsOf a, mir (setSnap c m (mir c m)) h = mir b h := fun _ hc _ _ => hc
  have hne : ∀ (c : Block) (m : Nat), m ≠ h → snapOf (setSnap c m (mir c m)) h = snapOf c h := fun c m hmh => by
    rw [snapOf_setSnap, if_neg (Ne.symm hmh)]
  split
  · next hh =>
    exact foldl_takes (I := fun c => mir c h = mir b h) (snapOf · h) hh rfl hm
      (fun c hc => by simp only [snapOf_setSnap, if_pos, hc]) fun c _ m _ => hne c m
  · next hh =>
    exact foldl_stands (I := fun c => mir c h = mir b h) (snapOf · h) rfl hm
      fun c _ m hmem => hne c m fun he => hh (he ▸ hmem)

theorem panelReadFx_eq {a : Nat} (h : stepOf a = none) (b : Block) : panelReadFx a b = takeSnaps a b := by
  unfold panelReadFx; rw [h]; rfl

/-- The data that a read answers. -/
def answer (w : Word) (b : Block) : Block := { b with host := { b.host with rdata := w } }

theorem hostRead_eq {b : Block} {a : Nat} (h4 : a % 4 = 0) (hp : b.pwr.port = true) (hs : a < 0x100000 → stepOf a = none)
    (p : Published) :
    hostRead a p b = answer (winRead p b a) (if a < 0x100000 then takeSnaps a b else b) := by
  have ha4 : a / 4 * 4 = a := by omega
  simp only [hostRead, ha4, hp, Bool.true_eq_false, if_false]
  split
  · next h => rw [panelReadFx_eq (hs h)]; rfl
  · rfl

theorem debugRead_eq {b : Block} {a : Nat} (h4 : a % 4 = 0) (hs : stepOf a = none) :
    debugRead a b = answer (panelVal b a) (takeSnaps a b) := by
  have ha4 : a / 4 * 4 = a := by omega
  simp only [debugRead, ha4, panelReadFx_eq hs]
  rfl

theorem panelVal_eq {b : Block} {a : Nat} (h : isReg a = true) (hs : stepOf a = none) :
    panelVal b a = if isSnapped a then snapOf b a else hideReserved a (mir b a) := by
  simp [panelVal, h, hs]

/-- What a read leaves, but for the data that it answers. -/
theorem answer_leaves {ps : List Part} {w : Word} {b c : Block} (h : Leaves ps b c) : Leaves (ps ++ [.host]) b (answer w c) :=
  h.trans (.host _ _)

/-! ## The mirror -/

theorem mem_pairOf (a : Nat) : a ∈ pairOf a := by
  refine List.mem_flatMap.2 ⟨a, List.mem_filter.2 ⟨by simp, by simp⟩, by simp⟩

/-- The mirror copy of the register at `h` is brought to its own value. -/
def copyLive (b : Block) (h : Nat) : Block :=
  { b with regs := { b.regs with mirror := spPut regReset b.regs.mirror h (liveReg b h) } }

theorem mirrorUpdate_eq {b : Block} {a : Nat} (h : isReg a = true) (hg : gatedOff b a = false) :
    mirrorUpdate a b = (pairOf a).foldl copyLive b := by
  unfold mirrorUpdate
  rw [if_neg (by simp [h, hg])]
  rfl

/-- The copies of a register and of those updated with it are their own values, and the others stand (R367). -/
theorem mir_mirrorUpdate {b : Block} {a : Nat} (h : isReg a = true) (hg : gatedOff b a = false) (j : Nat) :
    mir (mirrorUpdate a b) j = if j ∈ pairOf a then liveReg b j else mir b j := by
  have hput : ∀ (c : Block) (m : Nat), mir (copyLive c m) j = if j = m then liveReg c m else mir c j :=
    fun c m => spGet_spPut regReset c.regs.mirror m j _
  have hl : ∀ c, liveReg c j = liveReg b j → ∀ m ∈ pairOf a, liveReg (copyLive c m) j = liveReg b j := fun _ hc _ _ => hc
  rw [mirrorUpdate_eq h hg]
  split
  · next hj =>
    exact foldl_takes (I := fun c => liveReg c j = liveReg b j) (mir · j) hj rfl hl
      (fun c hc => by simp only [hput, if_pos, hc]) fun c _ m _ hmj => by simp only [hput, if_neg (Ne.symm hmj)]
  · next hj =>
    exact foldl_stands (I := fun c => liveReg c j = liveReg b j) (mir · j) rfl hl
      fun c _ m hm => by
        have hjm : j ≠ m := fun he => hj (he ▸ hm)
        simp only [hput, if_neg hjm]

theorem mirrorUpdate_leaves (a : Nat) (b : Block) : Leaves [.mirror] b (mirrorUpdate a b) := by
  unfold mirrorUpdate
  split
  · exact .refl b
  · exact .foldl _ fun c _ => ⟨rfl, fun q hq => by cases q <;> simp_all [Part.same]⟩

theorem rg_mirrorUpdate (a : Nat) (b : Block) (j : Nat) : rg (mirrorUpdate a b) j = rg b j := by
  unfold mirrorUpdate
  split
  · rfl
  · exact List.foldlRecOn (motive := fun c => rg c j = rg b j) (pairOf a) _ rfl fun _ hc _ _ => hc

/-! ## Masked writes -/

theorem leNat_lt (l : List Byte) : leNat l < 256 ^ l.length := by
  induction l with
  | nil => simp [leNat]
  | cons v l ih =>
    have hv : v.toNat < 256 := v.isLt
    rw [leNat, List.length_cons, Nat.pow_succ]
    omega

/-- Bytes are got back from their little-endian number. -/
theorem leBytes_leNat (l : List Byte) : leBytes l.length (leNat l) = l := by
  induction l with
  | nil => rfl
  | cons v l ih =>
    have hv : v.toNat < 256 := v.isLt
    have hd : (v.toNat + 256 * leNat l) / 256 = leNat l := by omega
    have hm : BitVec.ofNat 8 (v.toNat + 256 * leNat l) = v := by
      apply BitVec.eq_of_toNat_eq
      rw [BitVec.toNat_ofNat]
      omega
    rw [leNat, List.length_cons, leBytes, hd, ih, hm]

theorem length_rdBytes (m : List Host.Cell) (a n : Nat) : (rdBytes m a n).length = n := by
  rw [rdBytes_eq, List.length_map, List.length_range]

/-- Byte `i` of a word that is read is the byte that lies there. -/
theorem leBytes_rdWord (m : List Host.Cell) (a : Nat) : leBytes 4 (rdWord m a).toNat = rdBytes m a 4 := by
  have hlt := leNat_lt (rdBytes m a 4)
  have hb := leBytes_leNat (rdBytes m a 4)
  rw [length_rdBytes] at hlt hb
  rw [rdWord, wd, BitVec.toNat_ofNat, show 2 ^ 32 = 256 ^ 4 from rfl, Nat.mod_eq_of_lt hlt, hb]

/-- The bytes of a word, as parts of it. -/
theorem getD_leBytes (w : Word) {i : Nat} (h : i < 4) : (leBytes 4 w.toNat).getD i 0#8 = w.extractLsb' (8 * i) 8 := by
  have e : ∀ n, BitVec.ofNat 8 (w.toNat / 2 ^ n) = w.extractLsb' n 8 := fun n => by
    rw [BitVec.extractLsb', Nat.shiftRight_eq_div_pow]
  match i, h with
  | 0, _ => simpa [leBytes] using e 0
  | 1, _ => simpa [leBytes] using e 8
  | 2, _ => simpa [leBytes, Nat.div_div_eq_div_mul] using e 16
  | 3, _ => simpa [leBytes, Nat.div_div_eq_div_mul] using e 24

/-- The mask of the bytes that are written. -/
def byteMask (keep : Nat) : Word := wd ((upFrom 0 4).foldl (fun n i => if nbit keep i then n else n + 255 * 2 ^ (8 * i)) 0)

theorem mergeBytes_eq (old new : Word) (keep : Nat) :
    mergeBytes old new keep = (old &&& ~~~byteMask keep) ||| (new &&& byteMask keep) := rfl

theorem byte_byteMask (keep : Nat) {i : Nat} (h : i < 4) :
    (byteMask keep).extractLsb' (8 * i) 8 = if nbit keep i then 0#8 else BitVec.allOnes 8 := by
  have hm : ∀ b0 b1 b2 b3 : Bool, ∀ i < 4,
      (wd ((((0 + if b0 then 0 else 255) + if b1 then 0 else 255 * 2 ^ 8) + if b2 then 0 else 255 * 2 ^ 16) +
        if b3 then 0 else 255 * 2 ^ 24)).extractLsb' (8 * i) 8 =
      if [b0, b1, b2, b3].getD i false then 0#8 else BitVec.allOnes 8 := by decide
  have hstep : ∀ (c : Bool) (n d : Nat), (if c = true then n else n + d) = n + if c = true then 0 else d := fun c n d => by
    cases c <;> rfl
  have hf : (fun n i => if nbit keep i then n else n + 255 * 2 ^ (8 * i)) = fun n i => n + if nbit keep i then 0 else 255 * 2 ^ (8 * i) :=
    funext fun n => funext fun i => hstep _ n _
  have e : byteMask keep = wd ((((0 + if nbit keep 0 then 0 else 255) + if nbit keep 1 then 0 else 255 * 2 ^ 8) +
      if nbit keep 2 then 0 else 255 * 2 ^ 16) + if nbit keep 3 then 0 else 255 * 2 ^ 24) :=
    congrArg (fun g => wd ((upFrom 0 4).foldl g 0)) hf
  rw [e, hm _ _ _ _ i h]
  match i, h with
  | 0, _ => rfl
  | 1, _ => rfl
  | 2, _ => rfl
  | 3, _ => rfl

/-- A masked write leaves the masked bytes and writes the others (R366). -/
theorem byte_mergeBytes (old new : Word) (keep : Nat) {i : Nat} (h : i < 4) :
    (leBytes 4 (mergeBytes old new keep).toNat).getD i 0#8 =
      if nbit keep i then (leBytes 4 old.toNat).getD i 0#8 else (leBytes 4 new.toNat).getD i 0#8 := by
  rw [getD_leBytes _ h, getD_leBytes _ h, getD_leBytes _ h, mergeBytes_eq]
  apply BitVec.eq_of_getLsbD_eq
  intro t ht
  have hm : (byteMask keep).getLsbD (8 * i + t) = !nbit keep i := by
    have hb := congrArg (BitVec.getLsbD · t) (byte_byteMask keep h)
    simp only [BitVec.getLsbD_extractLsb', ht, decide_true, Bool.true_and] at hb
    rw [hb]
    cases nbit keep i with
    | true => exact BitVec.getLsbD_zero
    | false => exact (BitVec.getLsbD_allOnes).trans (decide_eq_true ht)
  have hi : 8 * i + t < 32 := by omega
  have hw : ∀ w : Word, (w.extractLsb' (8 * i) 8).getLsbD t = w.getLsbD (8 * i + t) := fun w => by
    rw [BitVec.getLsbD_extractLsb', decide_eq_true ht, Bool.true_and]
  rw [hw, BitVec.getLsbD_or, BitVec.getLsbD_and, BitVec.getLsbD_and, BitVec.getLsbD_not, hm, decide_eq_true hi]
  cases nbit keep i <;> simp [hw]

/-- A masked write to a command ring, byte by byte. -/
theorem rdByte_wrWord_mergeBytes (m : List Host.Cell) (a k j : Nat) (w : Word) :
    rdByte (wrWord m a (mergeBytes (rdWord m a) w k)) j =
      if a ≤ j ∧ j < a + 4 ∧ nbit k (j - a) = false then (leBytes 4 w.toNat).getD (j - a) 0#8 else rdByte m j := by
  have hw := wrote_wrBytes m a (leBytes 4 (mergeBytes (rdWord m a) w k).toNat) j
  rw [length_leBytes] at hw
  rw [wrWord, hw]
  by_cases hj : a ≤ j ∧ j < a + 4
  · have hi : j - a < 4 := by omega
    have hold : (leBytes 4 (rdWord m a).toNat).getD (j - a) 0#8 = rdByte m j := by
      rw [leBytes_rdWord, rdBytes_eq, List.getD_eq_getElem?_getD, List.getElem?_map, List.getElem?_range hi,
        Option.map_some, Option.getD_some, Nat.add_sub_cancel' hj.1]
    rw [if_pos hj, byte_mergeBytes _ _ _ hi, hold]
    cases nbit k (j - a) <;> simp [hj.1, hj.2]
  · rw [if_neg hj, if_neg fun h => hj ⟨h.1, h.2.1⟩]

/-- A write of the host to a command ring, the port up and replay off. -/
theorem hostWrite_ring {b : Block} {a : Nat} {w : Word} {k : Nat} (h4 : a % 4 = 0) (h1 : 0x100000 ≤ a) (h2 : a < 0x200000)
    (hp : b.pwr.port = true) (hr : replayOn b = false) : hostWrite a w k b = putRing 0 a w k b := by
  have ha4 : a / 4 * 4 = a := by omega
  simp only [hostWrite, ha4, hp, hr, Bool.false_and, Bool.true_eq_false, Bool.false_eq_true, if_false, winWrite, localWriteWin, putLow]
  rw [if_neg (by omega), if_neg (by omega), if_pos h2, if_neg (by omega)]

theorem putRing_leaves (a k : Nat) (w : Word) (b : Block) : Leaves [.dbg, .win] b (putRing 0 a w k b) :=
  (recHost_leaves b 1 a w (15 - k % 16)).trans (.wiWr _ a _)

theorem win_putRing (a k : Nat) (w : Word) (b : Block) :
    (putRing 0 a w k b).mems.win = wrWord b.mems.win a (mergeBytes (rdWord b.mems.win a) w k) := by
  have hwin : ∀ d, (recHost b 1 a w d).mems.win = b.mems.win := fun d => (recHost_leaves b 1 a w d).2 .win (by decide)
  unfold putRing wiWr wiRd
  simp only [if_true, hwin]

theorem rg_putRing (a k : Nat) (w : Word) (b : Block) {j : Nat} (hj : j ≠ Reg.DBG_REC_CNT_LOST) :
    rg (putRing 0 a w k b) j = rg b j := by
  unfold putRing
  rw [rg_wiWr]
  exact rg_recHost _ _ _ _ _ hj

/-! ## The tail of a command ring -/

theorem crTailWrite_leaves (k : Nat) (w : Word) (b : Block) : Leaves [.host] b (crTailWrite k w b) :=
  (Leaves.setRg b (Reg.HOST_CR_TAIL k) _).trans (.host _ _)

theorem rg_crTailWrite (k : Nat) (w : Word) (b : Block) (j : Nat) :
    rg (crTailWrite k w b) j = if j = Reg.HOST_CR_TAIL k then w &&& 0xFFFF#32 else rg b j :=
  rg_setRg b (Reg.HOST_CR_TAIL k) j _

theorem tails_crTailWrite (k : Nat) (w : Word) (b : Block) : spGet (fun _ => []) (crTailWrite k w b).host.tails k =
    spGet (fun _ => []) b.host.tails k ++ [(b.pwr.ccy, w.fld 15 0)] := by
  unfold crTailWrite
  exact (spGet_spPut _ _ _ _ _).trans (if_pos rfl)

/-! ## The obligation -/

section Reads
variable {c a : Nat} {s : State} {g : Published → Block → Block} {w : Word} {b : Block}

/-- A read that answers `w` and otherwise leaves `b`, which differs from the block found in snapshots alone. -/
theorem read_spec (hg : g (s.shown c) (s.asFound c) = answer w b) (hl : Leaves [.snap] (s.asFound c) b)
    (hr : ∀ j, rg b j = rg (s.asFound c) j) : ∃ u, runPub c g s = .next u ∧ u.pending = s.pending ∧ u.blk.host.rdata = w ∧
      (∀ j, snapOf u.blk j = snapOf b j) ∧ Keeps [.host, .snap] [] (s.asFound c) u.blk := by
  obtain ⟨u, he, hq, hs, hu⟩ := runPub_spec c g s
  rw [hg] at hs hu
  have hh : u.blk.host = (answer w b).host := hs .host
  have hsn : u.blk.regs.snap = b.regs.snap := hs .snap
  exact ⟨u, he, hq, by rw [hh]; rfl, fun j => by unfold snapOf; rw [hsn],
    ((answer_leaves (w := w) hl).mono (by decide)).keeps (fun j _ => hr j) hs hu⟩

end Reads

/-- What a read of the host at an offset without stepping answers and leaves. -/
theorem hostRead_spec {c a : Nat} {s : State} (h4 : a % 4 = 0) (hp : (s.asFound c).pwr.port = true)
    (hs : a < 0x100000 → stepOf a = none) : ∃ u, exec (.hostRead c ⟨a, false⟩) s = .next u ∧ u.pending = s.pending ∧
      u.blk.host.rdata = winRead (s.shown c) (s.asFound c) a ∧
      (∀ j, snapOf u.blk j = snapOf (if a < 0x100000 then takeSnaps a (s.asFound c) else s.asFound c) j) ∧
      Keeps [.host, .snap] [] (s.asFound c) u.blk :=
  read_spec (g := hostRead a) (hostRead_eq h4 hp hs _)
    (by
      split
      · exact takeSnaps_leaves a _
      · exact .refl _)
    fun j => by
      split
      · exact rg_takeSnaps a _ j
      · rfl

/-- The words of the regions that a read of the host shows without a mirror. -/
theorem winRead_regions {c a : Nat} {v : Word} {s : State}
    (h : (a = 0x200000 ∧ v = attnWord (s.asFound c) (s.shown c).seq) ∨ (a = 0x20000C ∧ v = wd (s.shown c).seq) ∨
      (0x210000 ≤ a ∧ a < 0x220000 ∧ v = wAt (spGet evNone (s.shown c).ring ((a - 0x210000) / 16)) (a / 4 % 4)) ∨
      (0x100000 ≤ a ∧ a < 0x200000 ∧ v = rdWord (s.asFound c).mems.win a) ∨ (a < 0x100000 ∧ isReg a = false ∧ v = 0#32)) :
    winRead (s.shown c) (s.asFound c) a = v := by
  unfold winRead
  obtain ⟨rfl, rfl⟩ | ⟨rfl, rfl⟩ | ⟨h1, h2, rfl⟩ | ⟨h1, h2, rfl⟩ | ⟨h1, h2, rfl⟩ := h
  · rfl
  · rfl
  · rw [if_neg (by omega), if_neg (by omega), if_neg (by omega), if_pos ⟨h1, h2⟩]
  · rw [if_neg (by omega), if_pos h2]; rfl
  · rw [if_pos h1, panelVal, if_pos h2]

/-- Settles O48: reads answer the copies and regions named, and writes of rings and tails change what they name. -/
theorem hostReadsMirrorsAndRings : Obligations.HostReadsMirrorsAndRings := by
  rintro c a k w s x y rfl rfl h4
  refine ⟨fun dbg ha hreg hst hp => ?_, fun v hv hp => ?_, fun hreg hg => ?_, fun hreg => ?_, fun h1 h2 hp hr => ?_,
    fun ha hk hp hr => ⟨fun hreg => ?_, fun hreg => ?_⟩, fun hk => ?_⟩
  · have hs := Option.isNone_iff_eq_none.1 hst
    have hval := panelVal_eq (b := s.asFound c) hreg hs
    have hread : ∃ u, exec (.hostRead c ⟨a, dbg⟩) s = .next u ∧ u.pending = s.pending ∧
        u.blk.host.rdata = panelVal (s.asFound c) a ∧ (∀ j, snapOf u.blk j = snapOf (takeSnaps a (s.asFound c)) j) ∧
        Keeps [.host, .snap] [] (s.asFound c) u.blk := by
      cases dbg with
      | true => exact read_spec (g := fun _ => debugRead a) (debugRead_eq h4 hs) (takeSnaps_leaves a _) (rg_takeSnaps a _)
      | false =>
        have hu := hostRead_spec (s := s) (c := c) h4 (by simpa using hp) fun _ => hs
        simpa only [if_pos ha, winRead] using hu
    obtain ⟨u, he, hq, hd, hsn, hkeep⟩ := hread
    exact ⟨u, he, hq, hd.trans hval, fun h => (hsn h).trans (snapOf_takeSnaps a _ h), hkeep⟩
  · have hs : a < 0x100000 → stepOf a = none := fun ha => by
      obtain ⟨rfl, -⟩ | ⟨rfl, -⟩ | ⟨h1, -⟩ | ⟨h1, -⟩ | ⟨-, h2, -⟩ := hv
      · omega
      · omega
      · omega
      · omega
      · exact stepOf_of_not_isReg h2
    obtain ⟨u, he, hq, hd, -, hkeep⟩ := hostRead_spec h4 hp hs
    exact ⟨u, he, hq, hd.trans (winRead_regions hv), hkeep⟩
  · obtain ⟨u, he, hq, hs, hu⟩ := run_spec c (mirrorUpdate a) s
    have hm : ∀ h, mir u.blk h = if h ∈ pairOf a then liveReg (s.asFound c) h else mir (s.asFound c) h := fun h => by
      have hmir : u.blk.regs.mirror = (mirrorUpdate a (s.asFound c)).regs.mirror := hs .mirror
      rw [← mir_mirrorUpdate hreg hg h]
      unfold mir
      rw [hmir]
    exact ⟨u, he, hq, by rw [hm, if_pos (mem_pairOf a)], fun h hh => by rw [hm, if_neg hh],
      (mirrorUpdate_leaves a _).keeps (fun j _ => rg_mirrorUpdate a _ j) hs hu⟩
  · obtain ⟨u, he, hq, hs, hu⟩ := run_spec c (mirrorUpdate a) s
    rw [show mirrorUpdate a (s.asFound c) = s.asFound c from if_pos (.inl hreg)] at hs hu
    exact ⟨u, he, hq, (Leaves.refl _).keeps (fun _ _ => rfl) hs hu⟩
  · obtain ⟨u, he, hq, hs, hu⟩ := runWrite_spec c (hostWrite a w k) s
    rw [hostWrite_ring h4 h1 h2 hp hr] at hs hu
    have hwin : u.blk.mems.win = (putRing 0 a w k (s.asWritten c)).mems.win := hs .win
    refine ⟨u, he, hq, fun j => ?_, ((putRing_leaves a k w _).mono (by decide)).keeps (fun j hj => ?_) hs hu⟩
    · rw [hwin, win_putRing, rdByte_wrWord_mergeBytes]
    · exact rg_putRing a k w _ (by simpa using hj)
  · obtain ⟨u, he, hq, hs, hu⟩ := runWrite_spec c (hostWrite a w k) s
    rw [hostWrite_panel h4 ha hp hr, if_neg hk, maskedPanel, if_pos hreg] at hs hu
    refine ⟨u, he, hq, ?_, (discard_leaves _).keeps (fun j hj => ?_) hs hu⟩
    · rw [hu _ (by decide), rg_discard, if_pos rfl]
    · rw [rg_discard, if_neg (by simpa using hj)]
  · obtain ⟨u, he, hq, hs, hu⟩ := runWrite_spec c (hostWrite a w k) s
    rw [hostWrite_panel h4 ha hp hr, if_neg hk, maskedPanel, hreg, if_neg Bool.false_ne_true] at hs hu
    exact ⟨u, he, hq, (Leaves.refl _).keeps (fun _ _ => rfl) hs hu⟩
  · obtain ⟨u, he, hq, hs, hu⟩ := runWrite_spec c (gate (decide (k < 16)) (crTailWrite k w)) s
    rw [gate, if_pos (decide_eq_true hk)] at hs hu
    have hh : u.blk.host = (crTailWrite k w (s.asWritten c)).host := hs .host
    refine ⟨u, he, hq, ?_, ?_, (crTailWrite_leaves k w _).keeps (fun j hj => ?_) hs hu⟩
    · rw [hu _ ?_, rg_crTailWrite, if_pos rfl]
      simp only [settleRegs, List.mem_cons, List.not_mem_nil, or_false, not_or, Reg.HOST_ATTN_STATUS, Reg.LNK_CNT_EVT_LOST,
        Reg.LNK_STATUS, Reg.HOST_CR_TAIL]
      omega
    · rw [hh, tails_crTailWrite]
    · rw [rg_crTailWrite, if_neg (by simpa using hj)]

end Sys2Proof.Machine
end

section
/-! PROOFS. Statistics records and head messages of a lane (R110, R111, R114): what an effect on a lane leaves alone, and what
each of the three commands makes of the lane, its registers and GDDR6. -/

namespace Sys2Proof.Machine

/-! ## Effects of a command -/

namespace Leaves
variable {b : Block}

theorem setLane (b : Block) (n : Nat) (x : LaneSt) : Leaves [.lanes] b (setLane b n x) :=
  ⟨rfl, fun q hq => by cases q <;> simp_all [Part.same]⟩

theorem gdStore (b : Block) (a : Nat) (l : List Byte) : Leaves [.gddr, .mem] b (gdStore b a l) :=
  ⟨rfl, fun q hq => by cases q <;> simp_all [Part.same, Machine.gdStore]⟩

theorem bump (b : Block) (a k : Nat) : Leaves [] b (bump b a k) := .setRg b a _

/-- The bits that a unit sets are noted for the core cycle alone. -/
theorem orRg (b : Block) (a m : Nat) : Leaves [] b (orRg b a m) := by
  have hn : Leaves [] b { b with now := { b.now with bits := b.now.bits ++ [(a, m)] } } :=
    ⟨rfl, fun q _ => by cases q <;> simp [Part.same]⟩
  exact hn.trans (.setRg _ a _)

/-- A command with the effect `d` on the block found, which leaves all but `ps` and `rs`. -/
theorem run_spec {ps : List Part} {rs : List Nat} {c : Nat} {f : Block → Block} {s : State} {d : Block}
    (h : Leaves ps (s.asFound c) d) (hf : f (s.asFound c) = d) (hr : ∀ a, a ∉ rs → rg d a = rg (s.asFound c) a) :
    ∃ t, run c f s = .next t ∧ t.pending = s.pending ∧ (∀ q : Part, q.same d t.blk) ∧
      (∀ a, a ∉ settleRegs → rg t.blk a = rg d a) ∧ Keeps ps rs (s.asFound c) t.blk := by
  obtain ⟨t, he, hq, hs, hu⟩ := Machine.run_spec c f s
  rw [hf] at hs hu
  exact ⟨t, he, hq, hs, hu, h.keeps hr hs hu⟩

/-- The same of a command that stands for a host write to a register. -/
theorem runWrite_spec {ps : List Part} {rs : List Nat} {c : Nat} {f : Block → Block} {s : State} {d : Block}
    (h : Leaves ps (s.asWritten c) d) (hf : f (s.asWritten c) = d) (hr : ∀ a, a ∉ rs → rg d a = rg (s.asWritten c) a) :
    ∃ t, runWrite c f s = .next t ∧ t.pending = s.pending ∧ (∀ q : Part, q.same d t.blk) ∧
      (∀ a, a ∉ settleRegs → rg t.blk a = rg d a) ∧ Keeps ps rs (s.asWritten c) t.blk := by
  obtain ⟨t, he, hq, hs, hu⟩ := Machine.runWrite_spec c f s
  rw [hf] at hs hu
  exact ⟨t, he, hq, hs, hu, h.keeps hr hs hu⟩

end Leaves

/-- A command of a lane that exists acts. -/
theorem gate_of_lt {n k : Nat} (h : n < k) (f : Block → Block) (b : Block) : gate (decide (n < k)) f b = f b :=
  if_pos (decide_eq_true h)

/-- What the thresher and the pins write lies in the panel of the host port and beyond it. -/
theorem not_settleRegs_of_lt {a : Nat} (h : a < Reg.HOST_ATTN_STATUS) : a ∉ settleRegs := by
  have hle : ∀ r ∈ settleRegs, Reg.HOST_ATTN_STATUS ≤ r := by decide
  exact fun hm => Nat.not_le.2 h (hle a hm)

theorem bit_orRg (b : Block) (a : Nat) {m i : Nat} (h : Word.bit (wd m) i = true) :
    Word.bit (rg (orRg b a m) a) i = true := by
  rw [rg_orRg, if_pos rfl, bit_or, h, Bool.or_true]

/-- An event of a unit is the one that an effect raises last. -/
theorem raised_raise {b d : Block} {code n : Nat} (hd : d.raised = b.raised) (hn : n < 4096) :
    Raised [⟨code, n, false, none⟩] b (raise d code n) := fun _ => by
  show d.raised ++ [⟨code, n % 4096, false, none⟩] = _
  rw [hd, Nat.mod_eq_of_lt hn]

/-! ## Lanes -/

@[simp] theorem lane_setLane (b : Block) (n j : Nat) (x : LaneSt) : lane (setLane b n x) j = if j = n then x else lane b j :=
  spGet_spPut _ b.lanes n j x

theorem lane_of_same {b d : Block} (h : ∀ q : Part, q.same b d) (n : Nat) : lane d n = lane b n := by
  have hl : d.lanes = b.lanes := h .lanes
  unfold lane
  rw [hl]

theorem laneStatus_not_settle {n : Nat} (hn : n < 8) : Reg.FE_LANE_STATUS n ∉ settleRegs :=
  not_settleRegs_of_lt (by show 0x3078 + 0x200 * n < 0xD008; omega)

/-! ## The statistics record (R114) -/

/-- Where the record of sheaf `sh` of lane `n` lies in GDDR6. -/
def statPlace (b : Block) (n sh : Nat) : Nat :=
  (frc b (Reg.FE_LANE_STAT_BASE_HI n)).fld 1 0 * 2 ^ 32 + (frc b (Reg.FE_LANE_STAT_BASE_LO n)).fld 31 13 * 8192 + 2048 * (sh % 4)

/-- The bytes of the record gathered in `u`. -/
def statBytes (b : Block) (n : Nat) (u : LaneStat) : List Byte :=
  wordBytes (statWords n u (spGet (fun _ => 0) (lane b n).malfs u.sheaf) ((lane b n).headErr.contains u.sheaf))

/-- The lane without its oldest record, of sheaf `sh`. -/
def statDropped (b : Block) (n sh : Nat) (l : List LaneStat) : Block :=
  setLane b n { lane b n with stats := l, malfs := spErase sh (lane b n).malfs, headErr := (lane b n).headErr.filter (· ≠ sh) }

section Statistics
variable {b : Block} {n : Nat} {u : LaneStat} {l : List LaneStat} (h : (lane b n).stats = u :: l)
include h

theorem laneStatsDone_of_open (hc : statsClosed b n u.sheaf = false) : laneStatsDone n b = b := by
  simp only [laneStatsDone, h, hc, if_true]

theorem laneStatsDone_of_closed (hc : statsClosed b n u.sheaf = true) : laneStatsDone n b =
    let r := gdPut (statDropped b n u.sheaf l) (statPlace b n u.sheaf) (statBytes b n u)
    if r.2 then bump r.1 (Reg.FE_LANE_STAT_SEQ n) 1 else r.1 := by
  simp only [laneStatsDone, h, hc, Bool.true_eq_false, if_false]
  rfl

theorem laneStatsDone_written (hc : statsClosed b n u.sheaf = true)
    (hr : spanRefuses b (statPlace b n u.sheaf) (statBytes b n u).length = false)
    (hs : inStaging (statPlace b n u.sheaf + (statBytes b n u).length - 1) = false) : laneStatsDone n b =
      bump (gdStore (statDropped b n u.sheaf l) (statPlace b n u.sheaf) (statBytes b n u)) (Reg.FE_LANE_STAT_SEQ n) 1 := by
  have hd : spanRefuses (statDropped b n u.sheaf l) (statPlace b n u.sheaf) (statBytes b n u).length = false := hr
  rw [laneStatsDone_of_closed h hc, gdPut, hd, hs]
  rfl

theorem laneStatsDone_refused (hc : statsClosed b n u.sheaf = true)
    (hr : spanRefuses b (statPlace b n u.sheaf) (statBytes b n u).length = true ∨
      inStaging (statPlace b n u.sheaf + (statBytes b n u).length - 1) = true) :
    laneStatsDone n b = statDropped b n u.sheaf l := by
  have hd : (spanRefuses (statDropped b n u.sheaf l) (statPlace b n u.sheaf) (statBytes b n u).length ||
      inStaging (statPlace b n u.sheaf + (statBytes b n u).length - 1)) = true := by
    rwa [Bool.or_eq_true]
  rw [laneStatsDone_of_closed h hc, gdPut, if_pos hd]
  rfl

end Statistics

theorem lane_statDropped (b : Block) (n sh : Nat) (l : List LaneStat) : (lane (statDropped b n sh l) n).stats = l := by
  rw [statDropped, lane_setLane, if_pos rfl]

theorem rg_statDropped (b : Block) (n sh j : Nat) (l : List LaneStat) : rg (statDropped b n sh l) j = rg b j := rfl

theorem gdRd_gdStore (b : Block) (a : Nat) (l : List Byte) : gdRd (gdStore b a l) a l.length = l :=
  rdBytes_wrBytes l b.mems.gddr a

/-! ## Head messages (R110, R111) -/

/-- Messages that complete note no error. -/
theorem headErr_headAdvance (x : LaneSt) (l : List HeadMsg) : (headAdvance x l).headErr = x.headErr := by
  induction l generalizing x with
  | nil => rfl
  | cons m l ih =>
    unfold headAdvance
    split
    · exact ih (headDone x m l)
    · rfl

/-- HEAD_BUSY shows whether a message waits. -/
theorem bit_headBusy (b : Block) (n : Nat) :
    Word.bit (rg (headBusy b n) (Reg.FE_LANE_STATUS n)) 5 = decide ((lane b n).msgs ≠ []) := by
  rw [headBusy, rg_setF, if_pos rfl, Word.bit, testBit_setFld _ _ _ _ _ (by decide) (by decide), if_pos (by decide)]
  cases decide ((lane b n).msgs ≠ []) <;> rfl

theorem rg_headBusy (b : Block) (n : Nat) {j : Nat} (hj : j ≠ Reg.FE_LANE_STATUS n) : rg (headBusy b n) j = rg b j := by
  rw [headBusy, rg_setF, if_neg hj]

theorem lane_headBusy (b : Block) (n j : Nat) : lane (headBusy b n) j = lane b j := rfl

/-- Lane `n` with its messages moved on. -/
theorem headBusy_setLane_leaves (b : Block) (n : Nat) (x : LaneSt) : Leaves [.lanes] b (headBusy (setLane b n x) n) :=
  (Leaves.setLane b n x).trans (.setRg _ (Reg.FE_LANE_STATUS n) _)

theorem headWriteDone_eq {b : Block} {n : Nat} {m : HeadMsg} {l : List HeadMsg} (h : (lane b n).msgs = m :: l) :
    headWriteDone n b = headBusy (setLane b n (headAdvance (lane b n) ({ m with writes := m.writes.drop 1 } :: l))) n := by
  simp only [headWriteDone, h]

/-- A write that is not the last of its message is taken off it. -/
theorem headAdvance_of_writes (x : LaneSt) {m : HeadMsg} (h : m.writes ≠ []) (l : List HeadMsg) :
    headAdvance x (m :: l) = { x with msgs := m :: l } := if_neg h

/-- The only message, with no write left, is complete. -/
theorem headAdvance_of_last (x : LaneSt) {m : HeadMsg} (h : m.writes = []) :
    headAdvance x [m] = { headDone x m [] with msgs := [] } := if_pos h

/-- The lane whose oldest message, of sheaf `sh`, is in error. -/
def headFailed (x : LaneSt) (sh : Nat) : LaneSt :=
  { x with headErr := if x.headErr.contains sh then x.headErr else x.headErr ++ [sh] }

theorem mem_headErr_headFailed (x : LaneSt) (sh : Nat) : sh ∈ (headFailed x sh).headErr := by
  unfold headFailed
  split
  · next h => simpa using h
  · simp

theorem headNack_eq {b : Block} {n : Nat} {m : HeadMsg} {l : List HeadMsg} (h : (lane b n).msgs = m :: l) :
    headNack n b = raise (orRg (headBusy (setLane b n (headAdvance (headFailed (lane b n) m.sheaf) l)) n)
      (Reg.FE_LANE_STATUS n) 2) 0x39 n := by
  simp only [headNack, headFailed, h]

/-! ## The commands -/

section Commands
variable {c n : Nat} {s : State} (hn : n < 8)
include hn

/-- LANE_STATS_DONE of a finished record whose place admits it. -/
theorem exec_laneStatsDone_written {u : LaneStat} {l : List LaneStat} (h : (lane (s.asFound c) n).stats = u :: l)
    (hc : statsClosed (s.asFound c) n u.sheaf = true)
    (hr : spanRefuses (s.asFound c) (statPlace (s.asFound c) n u.sheaf) (statBytes (s.asFound c) n u).length = false)
    (hi : inStaging (statPlace (s.asFound c) n u.sheaf + (statBytes (s.asFound c) n u).length - 1) = false) :
    ∃ t, exec (.laneStatsDone c n) s = .next t ∧ t.pending = s.pending ∧ (lane t.blk n).stats = l ∧
      rg t.blk (Reg.FE_LANE_STAT_SEQ n) = rg (s.asFound c) (Reg.FE_LANE_STAT_SEQ n) + 1#32 ∧
      gdRd t.blk (statPlace (s.asFound c) n u.sheaf) (statBytes (s.asFound c) n u).length = statBytes (s.asFound c) n u ∧
      Keeps [.gddr, .mem, .lanes] [Reg.FE_LANE_STAT_SEQ n] (s.asFound c) t.blk := by
  have hl := ((Leaves.setLane (s.asFound c) n _).trans (.gdStore (statDropped (s.asFound c) n u.sheaf l)
    (statPlace (s.asFound c) n u.sheaf) (statBytes (s.asFound c) n u))).trans (.bump _ (Reg.FE_LANE_STAT_SEQ n) 1)
  obtain ⟨t, he, hq, hs, hu, hk⟩ := (hl.mono (qs := [.gddr, .mem, .lanes]) (by decide)).run_spec
    (rs := [Reg.FE_LANE_STAT_SEQ n]) ((gate_of_lt hn _ _).trans (laneStatsDone_written h hc hr hi))
    fun j hj => by rw [rg_bump, if_neg (by simpa using hj), rg_gdStore, rg_statDropped]
  refine ⟨t, he, hq, ?_, ?_, ?_, hk⟩
  · rw [lane_of_same hs]
    exact lane_statDropped _ n u.sheaf l
  · rw [hu _ (not_settleRegs_of_lt (by show 0x30F0 + 0x200 * n < 0xD008; omega)), rg_bump, if_pos rfl,
      rg_gdStore, rg_statDropped, show wd 1 = 1#32 from rfl]
  · have hg : t.blk.mems.gddr = _ := hs .gddr
    rw [gdRd, hg]
    exact gdRd_gdStore (statDropped (s.asFound c) n u.sheaf l) _ _

/-- LANE_STATS_DONE of a finished record whose place refuses it. -/
theorem exec_laneStatsDone_refused {u : LaneStat} {l : List LaneStat} (h : (lane (s.asFound c) n).stats = u :: l)
    (hc : statsClosed (s.asFound c) n u.sheaf = true)
    (hr : spanRefuses (s.asFound c) (statPlace (s.asFound c) n u.sheaf) (statBytes (s.asFound c) n u).length = true ∨
      inStaging (statPlace (s.asFound c) n u.sheaf + (statBytes (s.asFound c) n u).length - 1) = true) :
    ∃ t, exec (.laneStatsDone c n) s = .next t ∧ t.pending = s.pending ∧ (lane t.blk n).stats = l ∧
      Keeps [.lanes] [] (s.asFound c) t.blk := by
  obtain ⟨t, he, hq, hs, -, hk⟩ := (Leaves.setLane (s.asFound c) n _).run_spec
    (rs := []) ((gate_of_lt hn _ _).trans (laneStatsDone_refused h hc hr)) fun _ _ => rfl
  exact ⟨t, he, hq, by rw [lane_of_same hs]; exact lane_statDropped _ n u.sheaf l, hk⟩

/-- LANE_STATS_DONE before the record is finished. -/
theorem exec_laneStatsDone_open {u : LaneStat} {l : List LaneStat} (h : (lane (s.asFound c) n).stats = u :: l)
    (hc : statsClosed (s.asFound c) n u.sheaf = false) :
    ∃ t, exec (.laneStatsDone c n) s = .next t ∧ t.pending = s.pending ∧ Keeps [] [] (s.asFound c) t.blk := by
  obtain ⟨t, he, hq, -, -, hk⟩ := (Leaves.refl (s.asFound c)).run_spec
    (rs := []) ((gate_of_lt hn _ _).trans (laneStatsDone_of_open h hc)) fun _ _ => rfl
  exact ⟨t, he, hq, hk⟩

/-- HEAD_WRITE_DONE: the lane as its messages move on, and HEAD_BUSY. -/
theorem exec_headWriteDone {m : HeadMsg} {l : List HeadMsg} (h : (lane (s.asFound c) n).msgs = m :: l) :
    ∃ t, exec (.headWriteDone c n) s = .next t ∧ t.pending = s.pending ∧
      lane t.blk n = headAdvance (lane (s.asFound c) n) ({ m with writes := m.writes.drop 1 } :: l) ∧
      (rg t.blk (Reg.FE_LANE_STATUS n)).bit 5 = decide ((lane t.blk n).msgs ≠ []) ∧
      Keeps [.lanes] [Reg.FE_LANE_STATUS n] (s.asFound c) t.blk := by
  obtain ⟨t, he, hq, hs, hu, hk⟩ := (headBusy_setLane_leaves (s.asFound c) n _).run_spec
    (rs := [Reg.FE_LANE_STATUS n]) ((gate_of_lt hn _ _).trans (headWriteDone_eq h))
    fun j hj => rg_headBusy _ n (by simpa using hj)
  refine ⟨t, he, hq, ?_, ?_, hk⟩
  · rw [lane_of_same hs, lane_headBusy, lane_setLane, if_pos rfl]
  · rw [hu _ (laneStatus_not_settle hn), bit_headBusy, lane_of_same hs, lane_headBusy]

/-- HEAD_NACK: the oldest message goes, its sheaf is in error, and the event is raised. -/
theorem exec_headNack {m : HeadMsg} {l : List HeadMsg} (h : (lane (s.asFound c) n).msgs = m :: l) :
    ∃ t, exec (.headNack c n) s = .next t ∧ t.pending = s.pending ∧
      lane t.blk n = headAdvance (headFailed (lane (s.asFound c) n) m.sheaf) l ∧
      (rg t.blk (Reg.FE_LANE_STATUS n)).bit 1 = true ∧ Raised [⟨0x39, n, false, none⟩] (s.asFound c) t.blk ∧
      Keeps [.lanes, .raised] [Reg.FE_LANE_STATUS n] (s.asFound c) t.blk := by
  have hl := ((headBusy_setLane_leaves (s.asFound c) n (headAdvance (headFailed (lane (s.asFound c) n) m.sheaf) l)).trans
    (.orRg _ (Reg.FE_LANE_STATUS n) 2)).trans (.raise _ 0x39 n)
  obtain ⟨t, he, hq, hs, hu, hk⟩ := hl.run_spec (rs := [Reg.FE_LANE_STATUS n]) ((gate_of_lt hn _ _).trans (headNack_eq h))
    fun j hj => by
      have hj : j ≠ Reg.FE_LANE_STATUS n := by simpa using hj
      rw [raise_eq, rg_raiseS, rg_orRg, if_neg hj, rg_headBusy _ n hj, rg_setLane]
  refine ⟨t, he, hq, ?_, ?_, raised_of_effect hs (raised_raise rfl (by omega)), hk⟩
  · rw [lane_of_same hs]
    exact (lane_setLane _ n n _).trans (if_pos rfl)
  · rw [hu _ (laneStatus_not_settle hn), raise_eq, rg_raiseS]
    exact bit_orRg _ _ (by decide)

end Commands

/-- Settles O30: the record of a lane is written, dropped or kept as its place and its sheaf admit, and head messages move on
write by write. -/
theorem laneStatisticsAndHeadMessages : Obligations.LaneStatisticsAndHeadMessages := by
  rintro c n s x rfl hn
  refine ⟨?_, fun m l w ws hm hw hne => ?_, fun m hm hlen => ?_, fun m l hm => ?_⟩
  · rintro u l a ws hst rfl rfl
    exact ⟨exec_laneStatsDone_written hn hst, exec_laneStatsDone_refused hn hst, exec_laneStatsDone_open hn hst⟩
  · obtain ⟨t, he, hq, hlane, hbusy, hk⟩ := exec_headWriteDone hn hm
    rw [hw, List.drop_one, List.tail_cons, headAdvance_of_writes _ hne] at hlane
    exact ⟨t, he, hq, hlane, by rw [hbusy, hlane]; simp, hk⟩
  · obtain ⟨t, he, hq, hlane, hbusy, hk⟩ := exec_headWriteDone hn hm
    rw [headAdvance_of_last _ (List.drop_eq_nil_of_le hlen)] at hlane
    refine ⟨t, he, hq, by rw [hlane], by rw [hbusy, hlane]; simp, ?_, hk⟩
    rw [hlane]
    cases m.apply <;> simp [headDone]
  · obtain ⟨t, he, hq, hlane, herr, hr, hk⟩ := exec_headNack hn hm
    refine ⟨t, he, hq, ?_, herr, ?_, hr, hk⟩
    · rw [hlane, headErr_headAdvance]
      exact mem_headErr_headFailed _ _
    · rintro rfl
      rw [hlane]
      rfl

end Sys2Proof.Machine
end

section
/-! PROOFS. Table ports and registers that step (R112, R117, R128, R279, R330, R368): what an access writes, which entry it leaves
addressed, and what it leaves alone. -/

namespace Sys2Proof.Machine

/-! ## The step of an address register -/

/-- Field `hi:0` of the address register at `addr` advances by one, and wraps. -/
def stepField (addr hi : Nat) (b : Block) : Block := setF b addr hi 0 ((rg b addr).fld hi 0 + 1)

section StepField
variable (b : Block) (addr : Nat) {hi : Nat}

theorem fld_stepField (h : hi < 32) : (rg (stepField addr hi b) addr).fld hi 0 = ((rg b addr).fld hi 0 + 1) % 2 ^ (hi + 1) := by
  rw [stepField, rg_setF, if_pos rfl, fld_setFld _ _ _ _ (Nat.zero_le _) h, Nat.sub_zero]

theorem fld_stepField_above (h : hi < 32) : (rg (stepField addr hi b) addr).fld 31 (hi + 1) = (rg b addr).fld 31 (hi + 1) := by
  rw [stepField, rg_setF, if_pos rfl, fld_setFld_apart _ _ _ _ _ _ (Nat.zero_le _) h (.inr (Nat.lt_succ_self hi))]

theorem rg_stepField {j : Nat} (hj : j ≠ addr) : rg (stepField addr hi b) j = rg b j := by
  rw [stepField, rg_setF, if_neg hj]

theorem stepField_leaves : Leaves [] b (stepField addr hi b) := .setRg b addr _

end StepField

theorem ne_of_not_mem_pair {j a d : Nat} (h : j ∉ [a, d]) : j ≠ a ∧ j ≠ d := by simpa using h

/-! ## Reads of stepping registers (R368) -/

/-- The port notes the read of a stepping register, and the value that it returned. -/
def noteStep (b : Block) (reg : Nat) : Block :=
  { b with host := { b.host with stepC := b.host.stepC.filter (fun e => e.1 ≠ reg) ++ [(reg, b.pwr.ccy, stepVal b reg)] } }

theorem rg_noteStep (b : Block) (reg j : Nat) : rg (noteStep b reg) j = rg b j := rfl

section StepRead
variable {b : Block} {reg : Nat} {f : Block → Block}

theorem stepRead_of_none (h : stepEarly b reg = none) :
    stepRead reg f b = f (recHost (noteStep b reg) 4 reg (stepVal b reg) 0) := by
  simp only [stepRead, h]
  rfl

theorem stepRead_of_early (h : (stepEarly b reg).isSome = true) :
    stepRead reg f b = bump (noteStep b reg) Reg.HOST_CNT_STEP_EARLY 1 := by
  simp only [stepRead, h, if_true]
  rfl

end StepRead

/-- A read of a stepping register that comes in time: it is recorded, and the address register steps. -/
theorem run_stepRead {c reg addr hi : Nat} {s : State} (hhi : hi < 32) (ha : addr ∉ settleRegs) (hc : addr ≠ Reg.DBG_REC_CNT_LOST)
    (h : stepEarly (s.asFound c) reg = none) :
    ∃ t, run c (stepRead reg (stepField addr hi)) s = .next t ∧ t.pending = s.pending ∧
      (rg t.blk addr).fld hi 0 = ((rg (s.asFound c) addr).fld hi 0 + 1) % 2 ^ (hi + 1) ∧
      (rg t.blk addr).fld 31 (hi + 1) = (rg (s.asFound c) addr).fld 31 (hi + 1) ∧
      Keeps [.host, .dbg] [addr, Reg.DBG_REC_CNT_LOST] (s.asFound c) t.blk := by
  have hrec : ∀ {j}, j ≠ Reg.DBG_REC_CNT_LOST → rg (recHost (noteStep (s.asFound c) reg) 4 reg (stepVal (s.asFound c) reg) 0) j =
      rg (s.asFound c) j := fun hj => by rw [rg_recHost _ _ _ _ _ hj, rg_noteStep]
  have hl := ((Leaves.host (s.asFound c) _).trans (recHost_leaves (noteStep (s.asFound c) reg) 4 reg
    (stepVal (s.asFound c) reg) 0)).trans (stepField_leaves _ addr (hi := hi))
  obtain ⟨t, he, hq, -, hu, hk⟩ := hl.run_spec (rs := [addr, Reg.DBG_REC_CNT_LOST]) (stepRead_of_none h) fun j hj => by
    obtain ⟨ha, hl⟩ := ne_of_not_mem_pair hj
    rw [rg_stepField _ _ ha, hrec hl]
  refine ⟨t, he, hq, ?_, ?_, hk⟩
  · rw [hu _ ha, fld_stepField _ _ hhi, hrec hc]
  · rw [hu _ ha, fld_stepField_above _ _ hhi, hrec hc]

/-- A read that comes early steps nothing, and is counted. -/
theorem run_stepRead_early {c reg : Nat} {f : Block → Block} {s : State} (h : (stepEarly (s.asFound c) reg).isSome = true) :
    ∃ t, run c (stepRead reg f) s = .next t ∧ t.pending = s.pending ∧
      rg t.blk Reg.HOST_CNT_STEP_EARLY = rg (s.asFound c) Reg.HOST_CNT_STEP_EARLY + 1#32 ∧
      Keeps [.host] [Reg.HOST_CNT_STEP_EARLY] (s.asFound c) t.blk := by
  have hl := (Leaves.host (s.asFound c) _).trans (.bump (noteStep (s.asFound c) reg) Reg.HOST_CNT_STEP_EARLY 1)
  obtain ⟨t, he, hq, -, hu, hk⟩ := hl.run_spec (rs := [Reg.HOST_CNT_STEP_EARLY]) (stepRead_of_early h) fun j hj => by
    rw [rg_bump, if_neg (by simpa using hj), rg_noteStep]
  exact ⟨t, he, hq, by rw [hu _ (by decide), rg_bump, if_pos rfl, rg_noteStep, show wd 1 = 1#32 from rfl], hk⟩

theorem tblAddr_lt {n : Nat} (hn : n < 8) : Reg.FE_LANE_TBL_ADDR n < 0x4100 := by
  show 0x30E0 + 0x200 * n < 0x4100; omega

/-- The five reads of stepping registers, with the field of the address register that each steps. -/
theorem exec_steppingRead {c n reg addr hi : Nat} {s : State} {o : Host.Outcome State Fault Refusal} (hn : n < 8)
    (h : (o = exec (.feTblDataRead c n) s ∧ reg = Reg.FE_LANE_TBL_DATA n ∧ addr = Reg.FE_LANE_TBL_ADDR n ∧ hi = 15) ∨
      (o = exec (.wpMeshDataRead c) s ∧ reg = Reg.WP_MESH_DATA ∧ addr = Reg.WP_MESH_ADDR ∧ hi = 15) ∨
      (o = exec (.ftPatDataRead c) s ∧ reg = Reg.FT_PAT_DATA ∧ addr = Reg.FT_PAT_ADDR ∧ hi = 12) ∨
      (o = exec (.grnFlagDataRead c) s ∧ reg = Reg.GRN_FLAG_DATA ∧ addr = Reg.GRN_FLAG_ADDR ∧ hi = 8) ∨
      (o = exec (.syncVtDataRead c) s ∧ reg = Reg.SYNC_VT_DATA ∧ addr = Reg.SYNC_VT_ADDR ∧ hi = 13)) :
    o = run c (stepRead reg (stepField addr hi)) s ∧ hi < 32 ∧ addr < Reg.HOST_ATTN_STATUS := by
  obtain ⟨rfl, rfl, rfl, rfl⟩ | ⟨rfl, rfl, rfl, rfl⟩ | ⟨rfl, rfl, rfl, rfl⟩ | ⟨rfl, rfl, rfl, rfl⟩ | ⟨rfl, rfl, rfl, rfl⟩ := h
  · have hg : gate (decide (n < 8)) (feTblDataRead n) = stepRead (Reg.FE_LANE_TBL_DATA n) (stepField (Reg.FE_LANE_TBL_ADDR n) 15) :=
      funext (gate_of_lt hn (feTblDataRead n))
    exact ⟨congrArg (run c · s) hg, by decide, Nat.lt_trans (tblAddr_lt hn) (by decide)⟩
  · exact ⟨rfl, by decide, by decide⟩
  · exact ⟨rfl, by decide, by decide⟩
  · exact ⟨rfl, by decide, by decide⟩
  · exact ⟨rfl, by decide, by decide⟩

/-! ## The calibration tables (R112, R117) -/

namespace Leaves
variable {b : Block}

theorem calPut (b : Block) (k : Nat) (w : Word) : Leaves [.cal] b (calPut b k w) :=
  ⟨rfl, fun q hq => by cases q <;> simp_all [Part.same, Machine.calPut]⟩

theorem meshPut (b : Block) (k : Nat) (w : Word) : Leaves [.mesh] b (meshPut b k w) :=
  ⟨rfl, fun q hq => by cases q <;> simp_all [Part.same, Machine.meshPut]⟩

end Leaves

/-- May FE_LANEn_TBL_DATA write no entry: its bank is locked, or no table has the entry? -/
def TblRefuses (b : Block) (n : Nat) : Prop :=
  bankLocked b n ((rg b (Reg.FE_LANE_TBL_ADDR n)).fld 20 20) = true ∨ tblSel (rg b (Reg.FE_LANE_TBL_ADDR n)) n = none

/-- What a write of FE_LANEn_TBL_DATA does before INDEX steps. -/
def tblWritten (n : Nat) (w : Word) (b : Block) : Block :=
  if bankLocked b n ((rg b (Reg.FE_LANE_TBL_ADDR n)).fld 20 20) then orRg b (Reg.FE_LANE_STATUS n) 64
  else match tblSel (rg b (Reg.FE_LANE_TBL_ADDR n)) n with
    | some s => calPut b s.1 (w &&& s.2)
    | none => orRg b (Reg.FE_LANE_STATUS n) 64

theorem feTblDataWrite_eq (n : Nat) (w : Word) (b : Block) :
    feTblDataWrite n w b = stepField (Reg.FE_LANE_TBL_ADDR n) 15 (tblWritten n w b) := rfl

section TblWritten
variable {b : Block} {n : Nat} {w : Word}

theorem tblWritten_of_refuses (h : TblRefuses b n) : tblWritten n w b = orRg b (Reg.FE_LANE_STATUS n) 64 := by
  unfold tblWritten
  split
  · rfl
  · next hl => rw [h.resolve_left hl]

theorem tblWritten_of_entry {k : Nat} {m : Word} (hl : bankLocked b n ((rg b (Reg.FE_LANE_TBL_ADDR n)).fld 20 20) = false)
    (hs : tblSel (rg b (Reg.FE_LANE_TBL_ADDR n)) n = some (k, m)) : tblWritten n w b = calPut b k (w &&& m) := by
  unfold tblWritten
  rw [hl, hs]
  rfl

end TblWritten

/-- A write sets TBL_ERR, or writes one entry. -/
theorem tblWritten_cases (b : Block) (n : Nat) (w : Word) :
    tblWritten n w b = orRg b (Reg.FE_LANE_STATUS n) 64 ∨ ∃ k v, tblWritten n w b = calPut b k v := by
  by_cases h : TblRefuses b n
  · exact .inl (tblWritten_of_refuses h)
  · rw [TblRefuses, not_or] at h
    obtain ⟨⟨k, m⟩, hs⟩ := Option.ne_none_iff_exists'.1 h.2
    exact .inr ⟨k, _, tblWritten_of_entry (by simpa using h.1) hs⟩

theorem tblWritten_leaves (b : Block) (n : Nat) (w : Word) : Leaves [.cal] b (tblWritten n w b) := by
  obtain h | ⟨k, v, h⟩ := tblWritten_cases b n w
  · rw [h]; exact (Leaves.orRg b _ _).mono (by decide)
  · rw [h]; exact .calPut b k v

theorem rg_tblWritten (b : Block) (n : Nat) (w : Word) {j : Nat} (hj : j ≠ Reg.FE_LANE_STATUS n) :
    rg (tblWritten n w b) j = rg b j := by
  obtain h | ⟨k, v, h⟩ := tblWritten_cases b n w
  · rw [h, rg_orRg, if_neg hj]
  · rw [h]; rfl

theorem laneStatus_ne_tblAddr (n : Nat) : Reg.FE_LANE_STATUS n ≠ Reg.FE_LANE_TBL_ADDR n := by
  show 0x3078 + 0x200 * n ≠ 0x30E0 + 0x200 * n; omega

/-- A write of FE_LANEn_TBL_DATA: INDEX steps, and the rest is that of the entry or of TBL_ERR. -/
theorem exec_feTblDataWrite {c n : Nat} (w : Word) (s : State) (hn : n < 8) :
    ∃ t, exec (.feTblDataWrite c n w) s = .next t ∧ t.pending = s.pending ∧
      (rg t.blk (Reg.FE_LANE_TBL_ADDR n)).fld 15 0 = ((rg (s.asWritten c) (Reg.FE_LANE_TBL_ADDR n)).fld 15 0 + 1) % 2 ^ 16 ∧
      Keeps [.cal] [Reg.FE_LANE_TBL_ADDR n, Reg.FE_LANE_STATUS n] (s.asWritten c) t.blk ∧
      t.blk.mems.cal = (tblWritten n w (s.asWritten c)).mems.cal ∧
      rg t.blk (Reg.FE_LANE_STATUS n) = rg (tblWritten n w (s.asWritten c)) (Reg.FE_LANE_STATUS n) := by
  have hl := (tblWritten_leaves (s.asWritten c) n w).trans (stepField_leaves _ (Reg.FE_LANE_TBL_ADDR n) (hi := 15))
  obtain ⟨t, he, hq, hs, hu, hk⟩ := hl.runWrite_spec (rs := [Reg.FE_LANE_TBL_ADDR n, Reg.FE_LANE_STATUS n])
    ((gate_of_lt hn _ _).trans (feTblDataWrite_eq n w _)) fun j hj => by
      obtain ⟨ha, hs⟩ := ne_of_not_mem_pair hj
      rw [rg_stepField _ _ ha, rg_tblWritten _ _ _ hs]
  refine ⟨t, he, hq, ?_, hk, hs .cal, ?_⟩
  · rw [hu _ (not_settleRegs_of_lt (Nat.lt_trans (tblAddr_lt hn) (by decide))), fld_stepField _ _ (by decide),
      rg_tblWritten _ _ _ (laneStatus_ne_tblAddr n).symm]
  · rw [hu _ (laneStatus_not_settle hn), rg_stepField _ _ (laneStatus_ne_tblAddr n)]

/-! ## The warp meshes (R128) -/

/-- What a write of WP_MESH_DATA does before INDEX steps. -/
def meshWritten (w : Word) (b : Block) : Block :=
  if meshLocked b ((rg b Reg.WP_MESH_ADDR).fld 16 16) then raise (orRg b Reg.WP_STATUS 2) 0x42 15
  else meshPut b (meshKey b) w

/-- The bank of a mesh point is the top bit of its key. -/
theorem meshKey_div (b : Block) : meshKey b / 65536 = (rg b Reg.WP_MESH_ADDR).fld 16 16 := by
  simp only [meshKey, Word.fld, bitsOf]
  omega

theorem wpMeshDataWrite_eq (w : Word) (b : Block) : wpMeshDataWrite w b = stepField Reg.WP_MESH_ADDR 15 (meshWritten w b) := by
  rw [wpMeshDataWrite, meshKey_div]
  rfl

section MeshWritten
variable {b : Block} {w : Word}

theorem meshWritten_of_locked (h : meshLocked b ((rg b Reg.WP_MESH_ADDR).fld 16 16) = true) :
    meshWritten w b = raise (orRg b Reg.WP_STATUS 2) 0x42 15 := if_pos h

theorem meshWritten_of_free (h : meshLocked b ((rg b Reg.WP_MESH_ADDR).fld 16 16) = false) :
    meshWritten w b = meshPut b (meshKey b) w := if_neg (by simp [h])

end MeshWritten

theorem meshWritten_leaves (b : Block) (w : Word) : Leaves [.mesh, .raised] b (meshWritten w b) := by
  unfold meshWritten
  split
  · exact ((Leaves.orRg b _ _).trans (.raise _ _ _)).mono (by decide)
  · exact (Leaves.meshPut b _ w).mono (by decide)

theorem rg_meshWritten (b : Block) (w : Word) {j : Nat} (hj : j ≠ Reg.WP_STATUS) : rg (meshWritten w b) j = rg b j := by
  unfold meshWritten
  split
  · rw [raise_eq, rg_raiseS, rg_orRg, if_neg hj]
  · rfl

/-- A write of WP_MESH_DATA: INDEX steps, and the rest is that of the point or of TBL_ERR. -/
theorem exec_wpMeshDataWrite (c : Nat) (w : Word) (s : State) :
    ∃ t, exec (.wpMeshDataWrite c w) s = .next t ∧ t.pending = s.pending ∧
      (rg t.blk Reg.WP_MESH_ADDR).fld 15 0 = ((rg (s.asWritten c) Reg.WP_MESH_ADDR).fld 15 0 + 1) % 2 ^ 16 ∧
      Keeps [.mesh, .raised] [Reg.WP_MESH_ADDR, Reg.WP_STATUS] (s.asWritten c) t.blk ∧
      t.blk.mems.mesh = (meshWritten w (s.asWritten c)).mems.mesh ∧
      rg t.blk Reg.WP_STATUS = rg (meshWritten w (s.asWritten c)) Reg.WP_STATUS ∧
      ∀ l, Raised l (s.asWritten c) (meshWritten w (s.asWritten c)) → Raised l (s.asWritten c) t.blk := by
  have hl := (meshWritten_leaves (s.asWritten c) w).trans (stepField_leaves _ Reg.WP_MESH_ADDR (hi := 15))
  obtain ⟨t, he, hq, hs, hu, hk⟩ := hl.runWrite_spec (rs := [Reg.WP_MESH_ADDR, Reg.WP_STATUS])
    (wpMeshDataWrite_eq w _) fun j hj => by
      obtain ⟨ha, hs⟩ := ne_of_not_mem_pair hj
      rw [rg_stepField _ _ ha, rg_meshWritten _ _ hs]
  refine ⟨t, he, hq, ?_, hk, hs .mesh, ?_, fun l hr => raised_of_effect hs hr⟩
  · rw [hu _ (by decide), fld_stepField _ _ (by decide), rg_meshWritten _ _ (by decide)]
  · rw [hu _ (by decide), rg_stepField _ _ (by decide)]

/-- Settles O31: a write of a table port writes the entry or sets the error bit, a read steps or is counted as early, and the
index moves on. -/
theorem tablePortsWriteAndStep : Obligations.TablePortsWriteAndStep := by
  rintro c n w s x y rfl rfl hn
  refine ⟨?_, ?_, fun o reg addr hi h => ?_⟩
  · obtain ⟨t, he, hq, hidx, hk, hcal, hst⟩ := exec_feTblDataWrite (c := c) w s hn
    refine ⟨t, he, hq, hidx, hk, fun h => ?_, fun k m hl hs => ?_⟩
    · rw [hcal, hst, tblWritten_of_refuses h]
      exact ⟨rfl, bit_orRg _ _ (by decide)⟩
    · rw [hcal, hst, tblWritten_of_entry hl hs]
      exact ⟨fun j => spGet_spPut _ _ _ _ _, rfl⟩
  · obtain ⟨t, he, hq, hidx, hk, hmesh, hst, hr⟩ := exec_wpMeshDataWrite c w s
    refine ⟨t, he, hq, hidx, hk, fun h => ?_, fun h => ?_⟩
    · rw [meshWritten_of_locked h] at hmesh hst hr
      rw [hmesh, hst]
      exact ⟨rfl, bit_orRg _ _ (by decide), hr _ (raised_raise rfl (by decide))⟩
    · rw [meshWritten_of_free h] at hmesh hst hr
      rw [hmesh, hst]
      exact ⟨fun j => spGet_spPut _ _ _ _ _, rfl, hr _ fun _ => (List.append_nil _).symm⟩
  · obtain ⟨rfl, hhi, ha⟩ := exec_steppingRead hn h
    exact ⟨run_stepRead hhi (not_settleRegs_of_lt ha) (Nat.ne_of_lt (Nat.lt_trans ha (by decide))), run_stepRead_early⟩

end Sys2Proof.Machine
end
